-- ==== Sys2Proof/Word.lean ====
section
/-!
DEFINITION. Words of the Kerdidar W36: the widths the manual uses and their plainest arithmetic.
-/

namespace Sys2Proof

/-- A scalar register or an address (R58, R9). -/
abbrev Word := BitVec 64
/-- A lane word or a mask (R49, R58). -/
abbrev Word32 := BitVec 32
/-- One byte of memory. -/
abbrev Byte := BitVec 8
/-- A 128-byte line: byte `k` is bits `[8k+7 : 8k]` (little-endian throughout, R49). -/
abbrev LineData := BitVec 1024
/-- One bit for each byte of a line (R67, R92). -/
abbrev LineMask := BitVec 128

end Sys2Proof
end

