-- ==== Sys2Proof/Config.lean ====
section
/-!
DEFINITION. What the implementation fixes and the free values: constants without a body, so that no statement rests on a
value of them.  notes/assumptions names each.
-/

namespace Sys2Proof

/-- The 32-byte key hash fused in the device (R452), not given by the spec; its first byte is the lowest. -/
opaque Config.keyHash : BitVec 256
/-- The device identity (R453): secret seed, secret of the randomizer, public seed. -/
opaque Config.idSecret : BitVec 128
opaque Config.idPrf : BitVec 128
opaque Config.idSeed : BitVec 128
/-- The randomness of a signature (R453). -/
opaque Config.idRandom : Nat → BitVec 128
/-- The channel of a stack-local line (R146): the spec does not say how lines lie on the 32 channels. -/
opaque Config.channel : Nat → BitVec 5
/-- The bit errors that a window of the stacks brings: line numbers over all stacks, and whether ECC corrects them (R141, R146). -/
opaque Config.eccFaults : Nat → List (Nat × Bool)
/-- A line of a bank or core that is retired cannot be corrected (R98, R402). -/
opaque Config.dataLost : Nat → Nat → Bool
/-- The lines of L1s, register caches and banks that fail beyond correction at the start of a window, by core or bank and place (R402). -/
opaque Config.arrayFaults : Nat → List (Nat × Nat × Nat)
/-- Ticks to nanoseconds under the frequency that a master's message gives the time base, as a multiple of 2^-32 (R450). -/
opaque Config.ptpRate : Nat → Nat
/-- A free word for each draw: FRAME of a warp that a launch starts, and the bytes that overlapping SPCMP destinations take. -/
opaque Config.freeWord : Nat → Word
/-- What a read of device memory that no stack of the partition holds gives (R29, R31), and the bytes of a format register outside the window
(R346): the spec states no value. -/
opaque Config.noMemory : Nat → LineData
/-- What the device writes as LREF for a launch (R189): the spec gives no coding. -/
opaque Config.launchRef : Nat → BitVec 32
/-- The private bytes of a context's save-area line (R395): the contents of the slot are device-private. -/
opaque Config.saveSeal : Nat → Nat → LineData
/-- REACH for the states of a partition's fabric ports (R403): the fabric's topology is not the spec's. -/
opaque Config.reach : List (Nat × Nat) → Word
/-- The wafer's own id among the wafers of the job (R364, R365). -/
opaque Config.ownWafer : BitVec 6

end Sys2Proof
end

