-- ==== Sys2Proof/Syntax.lean ====
section
/-!
DEFINITION. The syntax of Sheod version 2 and the steps of the other agents: one constructor of `Instr` for each
row of spec/opcode_table.json.  The 179 encoded instructions come first, in the order of R244; the rows after RLQ are
steps of units other than a warp (R158), which have no encoding and name as arguments the object they act on.
-/

namespace Sys2Proof

/-- Type codes TY, in the order of their values 0-15 (R239). -/
inductive Ty where
  | b32 | i8 | i16 | i32 | i64 | n8 | n16 | n32 | n64 | f16 | bf16 | f32 | f64 | e4m3 | e5m2 | b64
  deriving DecidableEq, Repr

/-- A scalar register s0-s63 (R238). -/
abbrev SReg := BitVec 6
/-- A vector register v0-v255 (R238). -/
abbrev VReg := BitVec 8
/-- A tile register t0-t63 (R238). -/
abbrev TReg := BitVec 6
/-- An accumulator register a0-a31 (R238). -/
abbrev AReg := BitVec 5
/-- A mask register m0-m15 (R238). -/
abbrev MReg := BitVec 4
/-- A crossing register q0-q3 (R238). -/
abbrev QReg := BitVec 2

/-- The mask of an instruction with lanes: MSK and MNEG (R203, R236). -/
structure Pred where
  m   : MReg
  neg : Bool
  deriving DecidableEq, Repr

/-- The B operand of a scalar instruction: S3 or SI form (R240). -/
inductive SSrc where
  | reg (r : SReg)
  | imm (v : Word32)
  deriving DecidableEq, Repr

/-- The B operand of a vector instruction: V3 or VI form (R240). -/
inductive VSrc where
  | reg (r : VReg)
  | imm (v : Word32)
  deriving DecidableEq, Repr

/-- The base of a memory address: scalar (contiguous) or vector (gather and scatter) (R310). -/
inductive ABase where
  | s (r : SReg)
  | v (r : VReg)
  deriving DecidableEq, Repr

/-- The operand "addr": A, B and DISP (R241, R310). -/
structure Addr where
  base  : ABase
  index : SReg
  disp  : BitVec 20
  deriving DecidableEq, Repr

/-- A tile or an accumulator operand. -/
inductive TAReg where
  | t (r : TReg)
  | a (r : AReg)
  deriving DecidableEq, Repr

/-- HINT (R241). -/
inductive Hint where
  | none | pin | strm | repl
  deriving DecidableEq, Repr

/-- ORD (R241). -/
inductive Ord where
  | relaxed | acq | rel | ar
  deriving DecidableEq, Repr

/-- SCOPE, narrowest to widest (R160, R241). -/
inductive Scope where
  | warp | core | quad | ret | wafer | sys | pod
  deriving DecidableEq, Repr

/-- The operations of REDS and SCAN, SUB 0-5 (R244). -/
inductive RedOp where
  | add | min | max | and | or | xor
  deriving DecidableEq, Repr

/-- The operations of ATOM and RED, SUB 0-9 (R322). -/
inductive AtomOp where
  | add | min | max | and | or | xor | xch | cas | incw | fadd
  deriving DecidableEq, Repr

/-- The dimension of a copy: SUB 0-2 of OPC 0xD0 (R351). -/
inductive XDim where
  | d1 | d2 | d3
  deriving DecidableEq, Repr

/-- A cached line's name: the partition that allocated the ASID, the ASID and VA[55:7] (R10, R67). -/
structure LineKey where
  part : Nat
  asid : BitVec 12
  ln   : Nat
  deriving DecidableEq, Repr

/-- What a bring-up stage found, given by the environment (R451): the objects that failed self-test, and the rate code
of each stack that trained below code 0. -/
structure StageReport where
  deadCores : List Nat
  deadBanks : List Nat
  deadLinkE : List Nat
  deadLinkN : List Nat
  rates     : List (Nat × Nat)
  portsUp   : List Nat
  deriving DecidableEq, Repr

/-- The instructions and the other agents' steps. -/
inductive Instr where
  /-- NOP (R252): Does nothing and keeps the flags. -/
  | nop
  /-- SADD (R252): Scalar add at width w, setting the flags. -/
  | sadd (ty : Ty) (d a : SReg) (b : SSrc)
  /-- SSUB (R252): Scalar subtract at width w, setting the flags. -/
  | ssub (ty : Ty) (d a : SReg) (b : SSrc)
  /-- SMUL (R252): Writes the low w bits of the scalar product. -/
  | smul (ty : Ty) (d a : SReg) (b : SSrc)
  /-- SMULH (R252): Writes the high w bits of the scalar product. -/
  | smulh (ty : Ty) (d a : SReg) (b : SSrc)
  /-- SDIV (R252): Scalar divide with fixed results for division by zero and for overflow. -/
  | sdiv (ty : Ty) (d a : SReg) (b : SSrc)
  /-- SREM (R252): Scalar remainder with fixed results for division by zero and for overflow. -/
  | srem (ty : Ty) (d a : SReg) (b : SSrc)
  /-- SAND (R252): Scalar bitwise AND. -/
  | sand (ty : Ty) (d a : SReg) (b : SSrc)
  /-- SOR (R252): Scalar bitwise OR. -/
  | sor (ty : Ty) (d a : SReg) (b : SSrc)
  /-- SXOR (R252): Scalar bitwise XOR. -/
  | sxor (ty : Ty) (d a : SReg) (b : SSrc)
  /-- SANDN (R252): Scalar a AND NOT b. -/
  | sandn (ty : Ty) (d a : SReg) (b : SSrc)
  /-- SSHL (R252): Scalar shift left by b mod w. -/
  | sshl (ty : Ty) (d a : SReg) (b : SSrc)
  /-- SSHR (R252): Scalar logical shift right. -/
  | sshr (ty : Ty) (d a : SReg) (b : SSrc)
  /-- SSRA (R252): Scalar arithmetic shift right. -/
  | ssra (ty : Ty) (d a : SReg) (b : SSrc)
  /-- SROT (R252): Scalar rotate left. -/
  | srot (ty : Ty) (d a : SReg) (b : SSrc)
  /-- SMIN (R252): Scalar minimum, signed or unsigned by type. -/
  | smin (ty : Ty) (d a : SReg) (b : SSrc)
  /-- SMAX (R252): Scalar maximum, signed or unsigned by type. -/
  | smax (ty : Ty) (d a : SReg) (b : SSrc)
  /-- SCLZ (R252): Counts the leading zero bits of a scalar. -/
  | sclz (ty : Ty) (d a : SReg)
  /-- SPOP (R252): Counts the one bits of a scalar. -/
  | spop (ty : Ty) (d a : SReg)
  /-- SCTZ (R252): Counts the trailing zero bits of a scalar. -/
  | sctz (ty : Ty) (d a : SReg)
  /-- SBREV (R252): Reverses the w bits of a scalar. -/
  | sbrev (ty : Ty) (d a : SReg)
  /-- SMOV (R252): Moves a scalar or a zero-extended immediate into a scalar. -/
  | smov (d : SReg) (b : SSrc)
  /-- SMOVH (R252): Writes the immediate into the upper half of a scalar. -/
  | smovh (d : SReg) (imm : Word32)
  /-- SEXT (R252): Sign- or zero-extends a narrow scalar value. -/
  | sext (ty : Ty) (d a : SReg)
  /-- SBFX (R253): Extracts a bit field from a scalar. -/
  | sbfx (ty : Ty) (d a : SReg) (pos lenm1 : BitVec 6)
  /-- SBFI (R253): Inserts a bit field into a scalar. -/
  | sbfi (d a : SReg) (pos lenm1 : BitVec 6)
  /-- SLEA (R252): Computes A plus B shifted left by SH. -/
  | slea (d a b : SReg) (sh : BitVec 3)
  /-- SCMP (R252): Sets the flags as SSUB does, without a result. -/
  | scmp (ty : Ty) (a : SReg) (b : SSrc)
  /-- SSEL (R252): Selects A or B by a flag condition. -/
  | ssel (d a b : SReg) (cond : BitVec 4)
  /-- SRD (R255): Reads a crossing register and compares its sequence number. -/
  | srd (d : SReg) (q : QReg) (b : SReg)
  /-- SFLG_GET (R254): Writes the flags Z, N, C and V to a scalar. -/
  | sflgGet (d : SReg)
  /-- SFLG_SET (R254): Sets the flags from the low four bits of a scalar. -/
  | sflgSet (a : SReg)
  /-- BR (R256): Unconditional relative branch. -/
  | br (disp : Word32)
  /-- BCC (R256): Branch taken when a flag condition holds. -/
  | bcc (cond : BitVec 4) (disp : Word32)
  /-- BMZ (R256): Branch taken when a mask is zero. -/
  | bmz (m : MReg) (disp : Word32)
  /-- BMNZ (R256): Branch taken when a mask is non-zero. -/
  | bmnz (m : MReg) (disp : Word32)
  /-- CALL (R257): Writes a link record, slides the window down and branches relative. -/
  | call (slide : Byte) (disp : Word32)
  /-- CALLI (R257): Writes a link record, slides the window down and branches to a register target. -/
  | calli (a : SReg) (slide : Byte)
  /-- RET (R257): Pops a link record, restores the window base and returns. -/
  | ret
  /-- EXIT (R259): Ends the warp, dropping its window lines and freeing its slot and quota. -/
  | exit
  /-- POST (R260): Marks a warp-start record posted, and enqueues it when its join count is zero. -/
  | post (a : SReg)
  /-- JOIN (R261): Decrements a record's join counter, and enqueues the record when it reaches zero. -/
  | join (d a : SReg)
  /-- YIELD (R262): Resets the warp's record age so that it becomes the youngest of its class. -/
  | yield
  /-- REGION (R263): Sets REGPC to this PC and clears the restart count. -/
  | region
  /-- QUOTA (R264): Moves register-cache quota to another warp of the workgroup. -/
  | quota (a b : SReg)
  /-- TRAP (R270): Raises TRAP_INSN with a code. -/
  | trap (code : BitVec 16)
  /-- RTE (R269): Returns from trap level to the trapped or next PC and restores the flags. -/
  | rte
  /-- SYSRD (R273): Reads a system register at an instance. -/
  | sysrd (d a : SReg) (num : BitVec 16)
  /-- SYSWR (R273): Writes a system register at an instance. -/
  | syswr (a b : SReg) (num : BitVec 16)
  /-- RMACK (R278): Acknowledges a resource map version for the context. -/
  | rmack (a : SReg)
  /-- PGPURGE (R279): Shoots down the translations and cached lines of an ASID range. -/
  | pgpurge (a b c : SReg)
  /-- PAUSE (R272): Withholds the warp from issue for a number of cycles. -/
  | pause (n : BitVec 16)
  /-- PARK (R271): Parks the warp with a fault record. -/
  | park
  /-- VADD (R287): Per-lane integer add. -/
  | vadd (p : Pred) (ty : Ty) (d a : VReg) (b : VSrc)
  /-- VSUB (R287): Per-lane integer subtract. -/
  | vsub (p : Pred) (ty : Ty) (d a : VReg) (b : VSrc)
  /-- VMUL (R287): Per-lane low product. -/
  | vmul (p : Pred) (ty : Ty) (d a : VReg) (b : VSrc)
  /-- VMULH (R287): Per-lane high product. -/
  | vmulh (p : Pred) (ty : Ty) (d a : VReg) (b : VSrc)
  /-- VMAD (R287): Per-lane multiply-add. -/
  | vmad (p : Pred) (ty : Ty) (d a b c : VReg)
  /-- VAND (R287): Per-lane AND. -/
  | vand (p : Pred) (ty : Ty) (d a : VReg) (b : VSrc)
  /-- VOR (R287): Per-lane OR. -/
  | vor (p : Pred) (ty : Ty) (d a : VReg) (b : VSrc)
  /-- VXOR (R287): Per-lane XOR. -/
  | vxor (p : Pred) (ty : Ty) (d a : VReg) (b : VSrc)
  /-- VANDN (R287): Per-lane a AND NOT b. -/
  | vandn (p : Pred) (ty : Ty) (d a : VReg) (b : VSrc)
  /-- VSHL (R287): Per-lane shift left. -/
  | vshl (p : Pred) (ty : Ty) (d a : VReg) (b : VSrc)
  /-- VSHR (R287): Per-lane logical shift right. -/
  | vshr (p : Pred) (ty : Ty) (d a : VReg) (b : VSrc)
  /-- VSRA (R287): Per-lane arithmetic shift right. -/
  | vsra (p : Pred) (ty : Ty) (d a : VReg) (b : VSrc)
  /-- VROT (R287): Per-lane rotate left. -/
  | vrot (p : Pred) (ty : Ty) (d a : VReg) (b : VSrc)
  /-- VMIN (R287): Per-lane integer minimum. -/
  | vmin (p : Pred) (ty : Ty) (d a : VReg) (b : VSrc)
  /-- VMAX (R287): Per-lane integer maximum. -/
  | vmax (p : Pred) (ty : Ty) (d a : VReg) (b : VSrc)
  /-- VABS (R287): Per-lane absolute value. -/
  | vabs (p : Pred) (ty : Ty) (d a : VReg)
  /-- VNEG (R287): Per-lane negation. -/
  | vneg (p : Pred) (ty : Ty) (d a : VReg)
  /-- VCLZ (R287): Per-lane leading-zero count. -/
  | vclz (p : Pred) (ty : Ty) (d a : VReg)
  /-- VPOP (R287): Per-lane population count. -/
  | vpop (p : Pred) (ty : Ty) (d a : VReg)
  /-- VSEL (R289): Per-lane select under a mask. -/
  | vsel (p : Pred) (ty : Ty) (d a b : VReg) (c : MReg)
  /-- VCMP (R289): Per-lane integer compare into a mask. -/
  | vcmp (p : Pred) (rel : BitVec 3) (ty : Ty) (d : MReg) (a : VReg) (b : VSrc)
  /-- VMOV (R290): Copies a vector register. -/
  | vmov (p : Pred) (ty : Ty) (d a : VReg)
  /-- VBCAST (R290): Broadcasts a scalar into the active lanes. -/
  | vbcast (p : Pred) (ty : Ty) (d : VReg) (a : SReg)
  /-- VMOVI (R290): Writes an immediate into the active lanes. -/
  | vmovi (p : Pred) (ty : Ty) (d : VReg) (imm : Word32)
  /-- VLANE (R290): Writes each lane's number. -/
  | vlane (p : Pred) (d : VReg)
  /-- VADDS (R288): Per-lane saturating add. -/
  | vadds (p : Pred) (ty : Ty) (d a : VReg) (b : VSrc)
  /-- VSUBS (R288): Per-lane saturating subtract. -/
  | vsubs (p : Pred) (ty : Ty) (d a : VReg) (b : VSrc)
  /-- FADD (R291): Floating-point add, rounded once. -/
  | fadd (p : Pred) (ty : Ty) (d a : VReg) (b : VSrc)
  /-- FSUB (R291): Floating-point subtract, rounded once. -/
  | fsub (p : Pred) (ty : Ty) (d a : VReg) (b : VSrc)
  /-- FMUL (R291): Floating-point multiply, rounded once. -/
  | fmul (p : Pred) (ty : Ty) (d a : VReg) (b : VSrc)
  /-- FMA (R291): Fused a times b plus c. -/
  | fma (p : Pred) (ty : Ty) (d a b c : VReg)
  /-- FMS (R291): Fused a times b minus c. -/
  | fms (p : Pred) (ty : Ty) (d a b c : VReg)
  /-- FNMA (R291): Fused minus a times b, minus c. -/
  | fnma (p : Pred) (ty : Ty) (d a b c : VReg)
  /-- FNMS (R291): Fused minus a times b, plus c. -/
  | fnms (p : Pred) (ty : Ty) (d a b c : VReg)
  /-- FMIN (R292): Floating-point minimum that propagates NaN. -/
  | fmin (p : Pred) (ty : Ty) (d a : VReg) (b : VSrc)
  /-- FMAX (R292): Floating-point maximum that propagates NaN. -/
  | fmax (p : Pred) (ty : Ty) (d a : VReg) (b : VSrc)
  /-- FMINNUM (R292): Floating-point minimum that prefers the number. -/
  | fminnum (p : Pred) (ty : Ty) (d a : VReg) (b : VSrc)
  /-- FMAXNUM (R292): Floating-point maximum that prefers the number. -/
  | fmaxnum (p : Pred) (ty : Ty) (d a : VReg) (b : VSrc)
  /-- FABS (R293): Clears the sign bit. -/
  | fabs (p : Pred) (ty : Ty) (d a : VReg)
  /-- FNEG (R293): Inverts the sign bit. -/
  | fneg (p : Pred) (ty : Ty) (d a : VReg)
  /-- FCOPYSIGN (R293): Copies the sign of B onto A. -/
  | fcopysign (p : Pred) (ty : Ty) (d a b : VReg)
  /-- FCMP (R293): Floating-point compare into a mask. -/
  | fcmp (p : Pred) (rel : BitVec 3) (ty : Ty) (d : MReg) (a : VReg) (b : VSrc)
  /-- FCLASS (R294): Writes a one-hot class word per lane. -/
  | fclass (p : Pred) (ty : Ty) (d a : VReg)
  /-- FRND (R295): Rounds to an integral value in the same format. -/
  | frnd (p : Pred) (ty : Ty) (d a : VReg) (mode : BitVec 3)
  /-- FRCP (R296): Reciprocal. -/
  | frcp (p : Pred) (ty : Ty) (d a : VReg)
  /-- FRSQ (R296): Reciprocal square root. -/
  | frsq (p : Pred) (ty : Ty) (d a : VReg)
  /-- FSQRT (R296): Correctly rounded square root. -/
  | fsqrt (p : Pred) (ty : Ty) (d a : VReg)
  /-- FEXP2 (R296): Base-2 exponential. -/
  | fexp2 (p : Pred) (ty : Ty) (d a : VReg)
  /-- FLOG2 (R296): Base-2 logarithm. -/
  | flog2 (p : Pred) (ty : Ty) (d a : VReg)
  /-- FSIN (R296): Sine in radians. -/
  | fsin (p : Pred) (ty : Ty) (d a : VReg)
  /-- FCOS (R296): Cosine in radians. -/
  | fcos (p : Pred) (ty : Ty) (d a : VReg)
  /-- FTANH (R296): Hyperbolic tangent. -/
  | ftanh (p : Pred) (ty : Ty) (d a : VReg)
  /-- FDIV (R297): Correctly rounded division. -/
  | fdiv (p : Pred) (ty : Ty) (d a b : VReg)
  /-- FSCALE (R298): Computes a times 2 to the power b, rounded once. -/
  | fscale (p : Pred) (ty : Ty) (d a : VReg) (b : VSrc)
  /-- CVT (R299): Converts between element types. -/
  | cvt (p : Pred) (ty src : Ty) (d a : VReg)
  /-- CVTB (R300): Encodes each half-warp into an N block. -/
  | cvtb (p : Pred) (ty : Ty) (code : BitVec 4) (d a : VReg)
  /-- PACK (R301): Converts two sources to a narrow type and packs them. -/
  | pack (p : Pred) (ty src : Ty) (d a b : VReg)
  /-- UNPACK (R302): Converts one packed part of each lane. -/
  | unpack (p : Pred) (ty dst : Ty) (part : BitVec 2) (d a : VReg)
  /-- SHFL_IDX (R303): Copies lane values from indexed lanes. -/
  | shflIdx (p : Pred) (ty : Ty) (d a b : VReg)
  /-- SHFL_UP (R303): Copies lane values from lower lanes. -/
  | shflUp (p : Pred) (ty : Ty) (d a : VReg) (b : SSrc)
  /-- SHFL_DN (R303): Copies lane values from higher lanes. -/
  | shflDn (p : Pred) (ty : Ty) (d a : VReg) (b : SSrc)
  /-- SHFL_XOR (R303): Copies lane values from lanes at L xor n. -/
  | shflXor (p : Pred) (ty : Ty) (d a : VReg) (b : SSrc)
  /-- VOTE_ALL (R304): Sets every active lane's mask bit when all active lanes have the bit. -/
  | voteAll (p : Pred) (d a : MReg)
  /-- VOTE_ANY (R304): Sets every active lane's mask bit when any active lane has the bit. -/
  | voteAny (p : Pred) (d a : MReg)
  /-- VOTE_EQ (R304): Sets every active lane's mask bit when all active values are equal. -/
  | voteEq (p : Pred) (ty : Ty) (d : MReg) (a : VReg)
  /-- VOTE_BALLOT (R304): Writes the active lanes' mask bits to a scalar. -/
  | voteBallot (p : Pred) (d : SReg) (a : MReg)
  /-- REDS (R305): Reduces the active lanes by a fixed tree into a crossing register. -/
  | reds (p : Pred) (op : RedOp) (ty : Ty) (d : QReg) (a : VReg)
  /-- SCAN (R306): Writes an inclusive or exclusive prefix over the lanes. -/
  | scan (p : Pred) (op : RedOp) (ty : Ty) (excl : Bool) (d a : VReg)
  /-- MAND (R307): Mask AND. -/
  | mand (p : Pred) (d a b : MReg)
  /-- MOR (R307): Mask OR. -/
  | mor (p : Pred) (d a b : MReg)
  /-- MXOR (R307): Mask XOR. -/
  | mxor (p : Pred) (d a b : MReg)
  /-- MNOT (R307): Mask NOT. -/
  | mnot (p : Pred) (d a : MReg)
  /-- MMOV_MASK (R307): Copies a mask into a mask. -/
  | mmovMask (p : Pred) (d a : MReg)
  /-- MMOV_FROM_SCALAR (R307): Writes scalar bits into a mask's active-lane bits. -/
  | mmovFromScalar (p : Pred) (d : MReg) (a : SReg)
  /-- MMOV_TO_SCALAR (R307): Writes a mask, ANDed with the active lanes, into a scalar. -/
  | mmovToScalar (p : Pred) (d : SReg) (a : MReg)
  /-- MCNT (R308): Counts the set active mask bits. -/
  | mcnt (p : Pred) (d : SReg) (a : MReg)
  /-- MFIRST (R308): Finds the lowest set active mask bit. -/
  | mfirst (p : Pred) (d : SReg) (a : MReg)
  /-- LD (R317): Per-lane global load. -/
  | ld (p : Pred) (ty : Ty) (d : VReg) (addr : Addr) (hint : Hint) (scope : Scope)
  /-- ST (R317): Per-lane global store. -/
  | st (p : Pred) (ty : Ty) (addr : Addr) (c : VReg) (hint : Hint) (scope : Scope)
  /-- LDS (R317): Scalar global load. -/
  | lds (ty : Ty) (d a b : SReg) (disp : BitVec 20) (hint : Hint) (scope : Scope)
  /-- STS (R317): Scalar global store. -/
  | sts (ty : Ty) (a b c : SReg) (disp : BitVec 20) (hint : Hint) (scope : Scope)
  /-- LDL (R320): Loads a vector register from window bytes. -/
  | ldl (p : Pred) (ty : Ty) (d : VReg) (a : SReg) (disp : BitVec 20)
  /-- STL (R320): Stores a vector register to window bytes. -/
  | stl (p : Pred) (ty : Ty) (a : SReg) (disp : BitVec 20) (c : VReg)
  /-- MLD (R321): Loads a tile or accumulator from 16 rows of memory. -/
  | mld (p : Pred) (ty : Ty) (d : TAReg) (a b : SReg) (disp : BitVec 20) (hint : Hint) (scope : Scope)
  /-- MST (R321): Stores a tile or accumulator to 16 rows of memory. -/
  | mst (p : Pred) (ty : Ty) (a b : SReg) (disp : BitVec 20) (c : TAReg) (hint : Hint) (scope : Scope)
  /-- PLD (R318): Prefetches lines into the L1 and the wafer-wide cache. -/
  | pld (p : Pred) (addr : Addr) (hint : Hint) (scope : Scope)
  /-- LDPD (R317): Per-lane scratchpad load. -/
  | ldpd (p : Pred) (ty : Ty) (d : VReg) (addr : Addr)
  /-- STPD (R317): Per-lane scratchpad store. -/
  | stpd (p : Pred) (ty : Ty) (addr : Addr) (c : VReg)
  /-- XST (R327): Exchange store to members' back courses. -/
  | xst (p : Pred) (ty : Ty) (addr : Addr) (c : VReg)
  /-- MCST (R328): Multicast store to the back courses of target cores. -/
  | mcst (p : Pred) (ty : Ty) (d a b : SReg) (c : VReg)
  /-- GJOIN (R329): Joins a sharing group. -/
  | gjoin (d a : SReg)
  /-- GLEAVE (R329): Leaves the core's sharing group. -/
  | gleave
  /-- GBAR (R330): Arrives at the group barrier and retires after the swap. -/
  | gbar
  /-- ATOM (R322): Per-lane atomic read-modify-write that returns the old value. -/
  | atom (p : Pred) (op : AtomOp) (ty : Ty) (pad : Bool) (d : VReg) (addr : Addr) (c : VReg) (ord : Ord) (scope : Scope)
  /-- RED (R322): Per-lane atomic reduction that returns no value. -/
  | red (p : Pred) (op : AtomOp) (ty : Ty) (pad : Bool) (addr : Addr) (c : VReg) (ord : Ord) (scope : Scope)
  /-- FENCE (R325): Release, acquire or both at a scope. -/
  | fence (ord : Ord) (scope : Scope)
  /-- BAR_SYNC (R332): Arrives at a barrier and waits for its release. -/
  | barSync (d : SReg) (scope : Scope) (id : BitVec 6)
  /-- BAR_ARRIVE (R332): Arrives at a barrier without waiting. -/
  | barArrive (d : SReg) (scope : Scope) (id : BitVec 6)
  /-- BAR_WAIT (R332): Waits for the release of the warp's last arrival. -/
  | barWait (d : SReg) (scope : Scope) (id : BitVec 6)
  /-- BAR_EXCUSE (R332): Counts the warp as arrived at this and every later instance. -/
  | barExcuse (d : SReg) (scope : Scope) (id : BitVec 6)
  /-- CLEAN (R326): Writes back the dirty bytes of a range, as a release. -/
  | clean (a b : SReg) (scope : Scope)
  /-- INVAL (R326): Drops the clean bytes of a range, as an acquire. -/
  | inval (a b : SReg) (scope : Scope)
  /-- FLUSH (R326): Writes back and then drops the lines of a range. -/
  | flush (a b : SReg) (scope : Scope)
  /-- LDACQ (R319): Load followed by an acquire at its scope. -/
  | ldacq (p : Pred) (ty : Ty) (d : VReg) (addr : Addr) (hint : Hint) (scope : Scope)
  /-- STREL (R319): Release at its scope followed by a store. -/
  | strel (p : Pred) (ty : Ty) (addr : Addr) (c : VReg) (hint : Hint) (scope : Scope)
  /-- MMA (R339): Matrix multiply-accumulate of tiles into an accumulator. -/
  | mma (p : Pred) (xaf : BitVec 4) (d : AReg) (a b : TReg) (c : VReg)
  /-- MMB (R340): Sixteen independent 4 by 4 block products into an accumulator. -/
  | mmb (p : Pred) (xaf : BitVec 4) (d : AReg) (a b : TReg) (c : VReg)
  /-- MMS (R341): Multiply-accumulate with a 2:4 sparse A operand. -/
  | mms (p : Pred) (xaf : BitVec 4) (mta : VReg) (d : AReg) (a b : TReg) (c : VReg)
  /-- SPCMP (R342): Compresses a dense tile into 2:4 form with metadata. -/
  | spcmp (p : Pred) (d a : TReg) (b c : VReg)
  /-- MTRN (R343): Transposes a 16-bit tile. -/
  | mtrn (p : Pred) (d a : TReg)
  /-- MZERO (R343): Zeroes the active lanes' shares of a tile or accumulator. -/
  | mzero (p : Pred) (d : TAReg)
  /-- MCVT (R344): Converts an accumulator to a tile format. -/
  | mcvt (p : Pred) (d : TReg) (a : AReg) (c : VReg)
  /-- MSCALE (R345): Scales accumulator elements by per-lane factors. -/
  | mscale (p : Pred) (d a : AReg) (b : VReg)
  /-- XCP (R352): Starts a 1d, 2d or 3d copy from a descriptor. -/
  | xcp (dim : XDim) (a : SReg)
  /-- XCP_TMPL (R354): Starts a copy from the context's template table. -/
  | xcpTmpl (a : SReg)
  /-- XBATCH (R355): Closes the pending engine operations into a numbered batch. -/
  | xbatch (d : SReg)
  /-- XWAIT (R356): Waits for the covered batches and releases them. -/
  | xwait (a : SReg)
  /-- RINIT (R358): Initialises a ring header. -/
  | rinit (a b : SReg)
  /-- RAWAIT (R361): Waits for a filled ring slot and takes it. -/
  | rawait (d a : SReg)
  /-- RREL (R362): Releases the oldest taken ring slot. -/
  | rrel (a b : SReg)
  /-- RFILL (R360): Claims a ring slot and starts a copy that fills it. -/
  | rfill (a b : SReg)
  /-- MVS (R363): Queues a matrix-vector product at a stack engine. -/
  | mvs (a : SReg)
  /-- CRED (R365): Contributes to a collective reduction. -/
  | cred (d a : SReg)
  /-- CMC (R367): Starts a multicast copy into target scratchpads. -/
  | cmc (d a : SReg)
  /-- CAG (R365): Contributes to a collective all-gather. -/
  | cag (d a : SReg)
  /-- RLQ (R368): Reports the range-lock state of a line. -/
  | rlq (d a : SReg)
  /-- ISSUE_CYCLE (R202): Each sub-core selects and issues up to two instructions in a cycle. -/
  | issueCycle (core sub : Nat)
  /-- STARVATION_PROMOTION (R385): A warp whose ready instruction has waited 256 or 4,096 cc is promoted in issue order. -/
  | starvationPromotion (wid : Nat)
  /-- INSTRUCTION_RETIRE (R201): An instruction retires in program order and commits its results, or traps. -/
  | instructionRetire (wid : Nat) (mismatch : Bool)
  /-- LOAD_REPLY (R205): Data or a per-lane fault mask returns to a waiting load. -/
  | loadReply (wid : Nat)
  /-- BRANCH_MISPREDICT (R201): A mispredicted branch squashes every younger instruction. -/
  | branchMispredict (wid : Nat)
  /-- FETCH_PARITY_REFETCH (R230): A line that fails parity is refetched once and traps if it fails again. -/
  | fetchParityRefetch (core : Nat) (key : LineKey)
  /-- WINDOW_LINE_EVICT (R55): A committed window line beyond the quota is evicted, and written back when dirty. -/
  | windowLineEvict (wid : Nat)
  /-- WINDOW_LINE_FILL (R55): A missing window line is filled from the image. -/
  | windowLineFill (wid idx : Nat)
  /-- GATE_REQUEST (R21): A miss reaches the anchor's gate and is looked up in its translation cache. -/
  | gateRequest (gate wid : Nat) (key : LineKey)
  /-- WALK_START (R22): A queued walk takes a free walk slot. -/
  | walkStart (gate : Nat)
  /-- WALK_COMPLETE (R15): A page walk ends with a leaf or with a walk status. -/
  | walkComplete (gate : Nat)
  /-- PERMISSION_UPGRADE (R26): A write to a line without Wr re-walks the page and grants Wr or traps. -/
  | permissionUpgrade (core : Nat) (key : LineKey)
  /-- PERMISSION_PROBE (R315): A store miss probes the line's stored permission or the gate. -/
  | permissionProbe (core : Nat) (key : LineKey)
  /-- ANCHOR_READ (R77): A read reaches the anchor and is served, allocated or replicated by the entry's state. -/
  | anchorRead (core : Nat) (key : LineKey) (repl : Bool)
  /-- ANCHOR_WRITE (R77): A write reaches the line's home and is applied or collapses copies. -/
  | anchorWrite (core : Nat) (key : LineKey) (mask : LineMask) (data : LineData)
  /-- COUNT_NOTICE (R78): A home's count notice records the reader's reticle at the anchor. -/
  | countNotice
  /-- MIGRATION_END (R79): A migration completes or is abandoned, and the entry returns to Home. -/
  | migrationEnd (key : LineKey)
  /-- L1_EVICTION (R84): An L1 evicts a line, sends its dirty bytes home and may create a victim replica. -/
  | l1Eviction (core : Nat) (key : LineKey)
  /-- BANK_LINE_EVICT (R85): A bank chooses a victim way and evicts a home, replica or victim replica. -/
  | bankLineEvict (bank : Nat) (key : LineKey)
  /-- PIN_REQUEST (R86): A load with .pin asks the anchor to pin the line. -/
  | pinRequest (core : Nat) (key : LineKey)
  /-- INVALIDATION (R82): A bank drops a copy on invalidation and acknowledges. -/
  | invalidation
  /-- COLLAPSE_ACK (R82): An acknowledgement decrements CPEND and may release a waiting write. -/
  | collapseAck
  /-- EPOCH_SWEEP (R95): Every 16,384 cc each bank visits its sets and handles lines of a stale epoch. -/
  | epochSweep (bank : Nat)
  /-- WINDOW_RESET (R91): At each 65,536-cc window the Bloom filters clear and the migration budgets reset. -/
  | windowReset
  /-- BANK_RETIRE (R97): A defective bank is retired and its buckets, entries and lines are moved or dropped. -/
  | bankRetire (bank : Nat)
  /-- LINK_RETIRE (R104): A failed link is retired and the route tables are recomputed. -/
  | linkRetire (north : Bool) (x y : Nat)
  /-- CORE_RETIRE (R423): A core is retired: its warps are killed, its leaves are excused and the map version rises. -/
  | coreRetire (core : Nat)
  /-- MAP_ACK_DEADLINE (R405): A context that has not acknowledged within 50 us is suspended with MAP_SUSPEND. -/
  | mapAckDeadline (part ctx : Nat)
  /-- EXCHANGE_STORE_ARRIVE (R118): An exchange or multicast store lands in the receiver's course chosen by its ph. -/
  | exchangeStoreArrive
  /-- GROUP_ARRIVAL (R124): A member arrives at the group barrier, and the last arrival releases the phase. -/
  | groupArrival (core : Nat)
  /-- GROUP_RELEASE (R124): A member receives the release, swaps its courses and lets GBAR retire. -/
  | groupRelease (core : Nat)
  /-- SLOT_REVOCATION (R126): A member takes the revocation of a leaving member's slot. -/
  | slotRevocation
  /-- BARRIER_ARRIVAL (R332): An arrival or excusing reaches a barrier tree node. -/
  | barrierArrival
  /-- MC_COMMAND_ISSUE (R137): A memory controller selects and issues its next command. -/
  | mcCommandIssue (stack : Nat)
  /-- SHARE_WINDOW_START (R136): At each 1 us window the controllers reset usage and compute their limits. -/
  | shareWindowStart
  /-- SCRUB_LINE (R144): Patrol scrub reads, corrects and re-encrypts one line. -/
  | scrubLine (stack : Nat)
  /-- RATE_CHANGE_REQUEST (R149): A write to MC_RATE.REQ starts a data-rate change. -/
  | rateChangeRequest (stack : Nat) (code : BitVec 2)
  /-- RATE_AUTO_LOWER (R149): The controller requests a lower rate after more than 64 corrections on a channel in 1 s. -/
  | rateAutoLower (stack : Nat)
  /-- RATE_DRAIN_END (R150): The drain phase of a rate change ends and training starts. -/
  | rateDrainEnd (stack : Nat)
  /-- RATE_TRAINING_END (R151): Training ends: the new code takes effect, or the stack is marked dead. -/
  | rateTrainingEnd (stack : Nat) (ok : Bool)
  /-- CRYPTO_ERASE (R143): Writing KD_CTL.ERASE replaces a key slot's keys, or is refused. -/
  | cryptoErase (part kd : Nat)
  /-- SCRUB_CTL_WRITE (R145): A write to SCRUB_CTL stops or resumes patrol scrub. -/
  | scrubCtlWrite (part stack : Nat) (v : Word32)
  /-- MC_SHARE_WRITE (R135): A write to a share register is checked and applied, or refused. -/
  | mcShareWrite (part n : Nat) (v : Word32)
  /-- MC_SHCTL_WRITE (R135): A write to MINCAP is checked and applied, or refused. -/
  | mcShctlWrite (part : Nat) (v : Word32)
  /-- WCC_RCT_WRITE (R89): A write to a replacement-class register is applied, or ignored for WPOL 3. -/
  | wccRctWrite (part n : Nat) (v : Word32)
  /-- INTERLEAVE_COMMIT (R28): A write to IVL_CTL commits the staged lists or is refused. -/
  | interleaveCommit (part : Nat) (v : Word32)
  /-- STACK_ENGINE_OP (R155): A stack engine takes the oldest eligible operation and computes its rows. -/
  | stackEngineOp (stack : Nat)
  /-- ENGINE_COMPLETION (R175): An engine operation writes its record, releases its locks and decrements its join counter. -/
  | engineCompletion (op : Nat)
  /-- COPY_ENGINE_OP (R353): The copy engine starts the operation at the head of its queue. -/
  | copyEngineOp (core : Nat)
  /-- COLLECTIVE_COMPLETE (R365): A collective instance completes, is abandoned or fails. -/
  | collectiveComplete (inst : Nat)
  /-- ENGINE_STOP (R35): An engine operation stops at its next stopping point with status PARTIAL. -/
  | engineStop (op : Nat)
  /-- SLOT_TAKES_RECORD (R193): A free warp slot takes the oldest ready record it may serve. -/
  | slotTakesRecord (core sub : Nat)
  /-- WARP_START (R194): The image probe and control load end, and the warp enters Running or parks. -/
  | warpStart (wid : Nat)
  /-- HARVEST_REVOCATION (R200): A revocation stops harvest warps, parks them and returns their resources. -/
  | harvestRevocation (core : Nat)
  /-- KENNEL_PARK_DONE (R62): A revoked warp's lines and control state finish moving into the Kennel. -/
  | kennelParkDone (wid : Nat)
  /-- HARVEST_PAGES_RETURNED (R200): Harvest pages are saved, zeroed and granted to the owner. -/
  | harvestPagesReturned (core : Nat)
  /-- HARVEST_GRANT (R386): The dispatcher grants freed slots to a waiting harvest context. -/
  | harvestGrant (core sub : Nat)
  /-- KENNEL_LINE_RETURN (R63): A Kennel window line returns on its first reference. -/
  | kennelLineReturn (wid idx : Nat)
  /-- CONTEXT_SAVE (R178): A full context save drains, stops engines and writes the context's state. -/
  | contextSave (part ctx : Nat)
  /-- CONTEXT_RESUME (R178): A saved context resumes with an acquire at .sys. -/
  | contextResume (part ctx : Nat)
  /-- WARP_KILL (R401): A warp is killed and a KIND 1 record is posted. -/
  | warpKill (wid : Nat) (cause : Byte)
  /-- KILLED_WARP_DRAINED (R206): A killed warp's stores drain, its lines are dropped and its slot is freed. -/
  | killedWarpDrained (wid : Nat)
  /-- FAULT_RECORD_POST (R391): A record is written to the context's fault queue and TAIL advances. -/
  | faultRecordPost (part ctx : Nat)
  /-- CTX_RESUME (R392): Resume word ACT 1 replays or continues a parked warp. -/
  | ctxResume (part ctx : Nat) (seq : Word32)
  /-- CTX_SKIP (R392): Resume word ACT 2 continues after the parked instruction. -/
  | ctxSkip (part ctx : Nat) (seq : Word32)
  /-- CTX_KILL (R392): Resume word ACT 3 kills a parked warp. -/
  | ctxKill (part ctx : Nat) (seq : Word32)
  /-- CTX_ENABLE (R393): A write of EN and ASID makes a context resident or non-resident, or is refused. -/
  | ctxEnable (part ctx : Nat) (en : Bool) (asid : BitVec 12)
  /-- CTX_SUSPEND (R393): SUSPR suspends every warp of the context. -/
  | ctxSuspend (part ctx : Nat)
  /-- CTX_RESUME_ALL (R393): RESM resumes every suspended warp of the context. -/
  | ctxResumeAll (part ctx : Nat)
  /-- CTX_RELEASE (R393): REL fails and releases the context and removes its lines. -/
  | ctxRelease (part ctx : Nat)
  /-- WQ_TAIL_WRITE (R372): A host write to WQ_TAIL publishes records or detects an overrun. -/
  | wqTailWrite (q : Nat) (v : Word32)
  /-- WQ_CTL_WRITE (R372): A write to WQ_CTL is applied or refused. -/
  | wqCtlWrite (q : Nat) (v : Word32)
  /-- LAUNCH_PACKET (R449): A fabric launch packet is accepted at a queue or dropped. -/
  | launchPacket (port src q : Nat) (rec : LineData)
  /-- LAUNCH_ACCEPT (R383): The dispatcher accepts a launch record and admits, queues or refuses it. -/
  | launchAccept (part : Nat)
  /-- PENDING_LAUNCH_START (R380): A pending launch is admitted when its resources or predecessors are free. -/
  | pendingLaunchStart (part : Nat)
  /-- GRID_COMPLETION (R182): A launch completes, releases its carry-out, writes statistics and its signal. -/
  | gridCompletion (launch : Nat)
  /-- SLICE_BOUNDARY (R388): At a gang slice boundary the outgoing gang is saved and the incoming gang resumed. -/
  | sliceBoundary (part : Nat)
  /-- SLC_WRITE (R387): A write to a slice register is checked and takes effect at the next boundary, or is refused. -/
  | slcWrite (part n : Nat) (v : Word)
  /-- PARTITION_COMMIT (R407): A write to PART_SHAPE requests a reshape, which is checked and started or refused. -/
  | partitionCommit (part : Option Nat) (v : Word32)
  /-- COMMIT_COMPLETE (R410): A reshape finishes its line removal and rebuilds, and the new version is set. -/
  | commitComplete
  /-- QUIESCE_REQUEST (R408): Writing REQ = 1 moves a running partition to Draining. -/
  | quiesceRequest (part : Option Nat) (q : Nat)
  /-- QUIESCE_CANCEL (R408): Writing REQ = 0 returns a partition to Running. -/
  | quiesceCancel (part : Option Nat) (q : Nat)
  /-- PARTITION_QUIESCED (R408): A draining partition becomes Quiesced when its launches and queues are empty. -/
  | partitionQuiesced (part : Nat)
  /-- PART_NBND_WRITE (R409): A write to PART_NBND opens or closes seams, or is refused. -/
  | partNbndWrite (part : Option Nat) (v : Word32)
  /-- SEAM_ROUTES_READY (R434): Route tables are rewritten after a seam opens, and its bit reads 1. -/
  | seamRoutesReady
  /-- QOWN_WRITE (R409): A write to QOWN moves queue blocks between quarters, or is refused. -/
  | qownWrite (part : Option Nat) (q : Nat) (v : Word)
  /-- DOORBELL (R446): A doorbell write starts a host copy from a template, or is dropped. -/
  | doorbell (ch : Nat) (tmpl : Word32)
  /-- HOST_MEM_READ (R183): A host-port read of device memory is served from DRAM under key domain 0. -/
  | hostMemRead (pa : Nat)
  /-- HOST_MEM_WRITE (R183): A host-port write is merged into DRAM by byte mask. -/
  | hostMemWrite (pa : Nat) (mask : LineMask) (data : LineData)
  /-- REGISTER_WRITE (R277): A write to a register that has no row of its own takes effect. -/
  | registerWrite (part num inst : Nat) (v : Word)
  /-- POWER_ON (R451): Power-on starts bring-up at stage 0x01. -/
  | powerOn
  /-- BOOT_GO (R444): Writing GO at stage 0x01 starts the image check. -/
  | bootGo
  /-- BRINGUP_STAGE_DONE (R451): A bring-up stage ends and the next one starts, or bring-up stops at 0xE0 plus the stage. -/
  | bringupStageDone (ok : Bool) (rpt : StageReport)
  /-- ATTEST_REQUEST (R453): The host requests an attestation report for a nonce. -/
  | attestRequest
  /-- ATTEST_REPORT (R453): The device writes the signed report and sets the done code. -/
  | attestReport
  /-- SHUTDOWN (R454): SHUT quiesces every partition, writes dirty lines to DRAM and removes power. -/
  | shutdown
  /-- CLK_WRITE (R454): A CLK write changes the power state when every partition is Quiesced, or is refused. -/
  | clkWrite (v : BitVec 2)
  /-- THROTTLE (R455): Draw above 23 kW sets THR and withholds issue cycles from harvest and standard warps. -/
  | throttle (draw : BitVec 16)
  /-- OVERTEMP_POWER_OFF (R455): A coolant outlet above 65 C removes power without SHUT. -/
  | overtempPowerOff
  /-- POWER_LOSS (R454): Removal of power loses all state. -/
  | powerLoss
  /-- PORT_LINK_FAIL (R448): A fabric link fails and the port goes to Training, or to Dead after three failures. -/
  | portLinkFail (port : Nat)
  /-- PORT_TRAINED (R448): A port finishes training and its state and the map are updated. -/
  | portTrained (port : Nat) (ok oneLane : Bool)
  /-- PORT_FENCE (R448): Writing FEN fences a port, or returns a fenced port to Training. -/
  | portFence (part port : Nat) (fen : Bool)
  /-- PTP_SYNC (R450): An IEEE 1588 message from the master corrects the time base and updates SYNC. -/
  | ptpSync (off : Int)
  /-- PTP_SLAVE_SELECT (R450): The best master clock algorithm selects the slave port. -/
  | ptpSlaveSelect (port : Option Nat)
  /-- THROTTLE_RELEASE (R455): When the module draw is back within 23 kW, THR clears and the withheld issue cycles are given back. -/
  | throttleRelease (draw : BitVec 16)
  deriving DecidableEq, Repr

end Sys2Proof
end

