-- ==== Sys2Proof/WellFormed.lean ====
section
/-!
DEFINITION. What an instruction must meet beyond the shape of its constructor: the type sets of R244, even pairs (R238),
immediate ranges (R240) and the field limits that make a word ILLEGAL or RESERVED_FIELD (R243).
-/

namespace Sys2Proof

/-- The TY value of a type (R239). -/
def Ty.code : Ty → BitVec 4
  | .b32 => 0 | .i8 => 1 | .i16 => 2 | .i32 => 3 | .i64 => 4 | .n8 => 5 | .n16 => 6 | .n32 => 7
  | .n64 => 8 | .f16 => 9 | .bf16 => 10 | .f32 => 11 | .f64 => 12 | .e4m3 => 13 | .e5m2 => 14 | .b64 => 15

/-- The width in bytes of a type. -/
def Ty.bytes : Ty → Nat
  | .b32 => 4 | .i8 => 1 | .i16 => 2 | .i32 => 4 | .i64 => 8 | .n8 => 1 | .n16 => 2 | .n32 => 4
  | .n64 => 8 | .f16 => 2 | .bf16 => 2 | .f32 => 4 | .f64 => 8 | .e4m3 => 1 | .e5m2 => 1 | .b64 => 8

/-- The width in bits of a type. -/
def Ty.bits (t : Ty) : Nat := 8 * t.bytes

/-- 64-bit types, whose vector operands name pairs (R238, R282). -/
def Ty.wide : Ty → Bool
  | .i64 | .n64 | .f64 | .b64 => true
  | _ => false

/-- IS (R239). -/
def Ty.isIS : Ty → Bool
  | .i32 | .i64 | .n32 | .n64 => true
  | _ => false

/-- BS (R239). -/
def Ty.isBS : Ty → Bool
  | .b32 | .b64 => true
  | _ => false

/-- FS (R239). -/
def Ty.isFS : Ty → Bool
  | .f16 | .bf16 | .f32 | .f64 => true
  | _ => false

/-- The i types, which are signed. -/
def Ty.signed : Ty → Bool
  | .i8 | .i16 | .i32 | .i64 => true
  | _ => false

/-- The integer formats of R209. -/
def Ty.isInt : Ty → Bool
  | .i8 | .i16 | .i32 | .i64 | .n8 | .n16 | .n32 | .n64 => true
  | _ => false

/-- The floating-point formats of R208. -/
def Ty.isFloat : Ty → Bool
  | .f16 | .bf16 | .f32 | .f64 | .e4m3 | .e5m2 => true
  | _ => false

/-- Source widths of SEXT (R244). -/
def Ty.isSext : Ty → Bool
  | .i8 | .i16 | .i32 | .n8 | .n16 | .n32 => true
  | _ => false

/-- Types of the special functions other than FSQRT (R296). -/
def Ty.isSpecial : Ty → Bool
  | .f16 | .bf16 | .f32 => true
  | _ => false

/-- The packed types of PACK and UNPACK (R301). -/
def Ty.isPack : Ty → Bool
  | .i8 | .i16 | .n8 | .n16 | .f16 | .bf16 | .e4m3 | .e5m2 => true
  | _ => false

/-- CVT's types, TY 1-14 (R299). -/
def Ty.isCvt : Ty → Bool
  | .b32 | .b64 => false
  | _ => true

/-- PACK's source types (R301). -/
def Ty.isPackSrc : Ty → Bool
  | .i32 | .n32 | .f16 | .bf16 | .f32 => true
  | _ => false

/-- UNPACK's destination types (R302). -/
def Ty.isUnpackDst : Ty → Bool
  | .i32 | .n32 | .f32 => true
  | _ => false

/-- LDS and STS types (R244). -/
def Ty.isLds (t : Ty) : Bool := t.isBS || t.isIS

/-- i32 or i64 (VABS, VNEG). -/
def Ty.isI : Ty → Bool
  | .i32 | .i64 => true
  | _ => false

/-- i32 or n32 (VADDS, VSUBS). -/
def Ty.isI32 : Ty → Bool
  | .i32 | .n32 => true
  | _ => false

/-- f32 or f64 (FDIV, fadd). -/
def Ty.isF3264 : Ty → Bool
  | .f32 | .f64 => true
  | _ => false

/-- i64 or n64 (SBFX). -/
def Ty.isBfx : Ty → Bool
  | .i64 | .n64 => true
  | _ => false

/-- Types of REDS and SCAN by operation (R244, R305). -/
def RedOp.tyOK : RedOp → Ty → Bool
  | .add, t | .min, t | .max, t => t.isIS || t.isF3264
  | .and, t | .or, t | .xor, t => t.isBS

/-- Types of ATOM and RED by operation (R322). -/
def AtomOp.tyOK : AtomOp → Ty → Bool
  | .add, t | .min, t | .max, t => t.isIS
  | .and, t | .or, t | .xor, t | .xch, t | .cas, t => t.isBS
  | .incw, t => t == .n32
  | .fadd, t => t.isF3264

/-- The class and type combinations of MLD and MST (R321). -/
def TAReg.tyOK : TAReg → Ty → Bool
  | .t _, ty => ty == .bf16 || ty == .f16 || ty == .i8 || ty == .b32 || ty == .e4m3 || ty == .e5m2
  | .a _, ty => ty == .f32 || ty == .b32

/-- A vector operand of a 64-bit type names an even register (R238). -/
def vPairOK (t : Ty) (r : VReg) : Bool := !(t.wide && r.getLsbD 0)

/-- The B operand in V3 or VI form (R238, R240). -/
def VSrc.ok (t : Ty) : VSrc → Bool
  | .reg r => vPairOK t r
  | .imm v => !(t == .f16 || t == .bf16) || v.extractLsb' 16 16 == 0

/-- The number of barrier ids of a level (R331). -/
def barIds : Scope → Nat
  | .warp => 0 | .core => 16 | .quad => 8 | .ret => 16 | .wafer => 64 | .sys => 64 | .pod => 16

/-- The C operand of a compare-and-swap: the new value lies in the register or pair after C (R322). -/
def casOK (t : Ty) (c : VReg) : Bool :=
  if t.wide then decide (c.toNat ≤ 252) else decide (c.toNat ≤ 254)

/-- UNPACK's part: 0-1 for a 16-bit TY, 0-3 for an 8-bit TY (R302). -/
def unpackPartOK (t : Ty) (part : BitVec 2) : Bool := t.bytes == 1 || !part.getLsbD 1

/-- An instruction that the decoder can give: the limits of R238-R244.  The steps of the other agents have no encoding
and no limits here. -/
def Instr.wf : Instr → Bool
  | .sadd ty _ _ _ | .ssub ty _ _ _ | .smul ty _ _ _ | .smulh ty _ _ _ | .sdiv ty _ _ _ | .srem ty _ _ _
  | .smin ty _ _ _ | .smax ty _ _ _ | .scmp ty _ _ => ty.isIS
  | .sand ty _ _ _ | .sor ty _ _ _ | .sxor ty _ _ _ | .sandn ty _ _ _
  | .sshl ty _ _ _ | .sshr ty _ _ _ | .ssra ty _ _ _ | .srot ty _ _ _
  | .sclz ty _ _ | .spop ty _ _ | .sctz ty _ _ | .sbrev ty _ _ => ty.isBS
  | .sext ty _ _ => ty.isSext
  | .sbfx ty _ _ pos l => ty.isBfx && decide (pos.toNat + l.toNat + 1 ≤ 64)
  | .sbfi _ _ pos l => decide (pos.toNat + l.toNat + 1 ≤ 64)
  | .trap code => code != 0xFFFF#16
  | .vadd _ ty d a b | .vsub _ ty d a b | .vmul _ ty d a b | .vmulh _ ty d a b | .vmin _ ty d a b | .vmax _ ty d a b =>
      ty.isIS && vPairOK ty d && vPairOK ty a && b.ok ty
  | .vmad _ ty d a b c => ty.isIS && vPairOK ty d && vPairOK ty a && vPairOK ty b && vPairOK ty c
  | .vand _ ty d a b | .vor _ ty d a b | .vxor _ ty d a b | .vandn _ ty d a b
  | .vshl _ ty d a b | .vshr _ ty d a b | .vsra _ ty d a b | .vrot _ ty d a b =>
      ty.isBS && vPairOK ty d && vPairOK ty a && b.ok ty
  | .vabs _ ty d a | .vneg _ ty d a => ty.isI && vPairOK ty d && vPairOK ty a
  | .vclz _ ty d a | .vpop _ ty d a | .vmov _ ty d a => ty.isBS && vPairOK ty d && vPairOK ty a
  | .vsel _ ty d a b _ => ty.isBS && vPairOK ty d && vPairOK ty a && vPairOK ty b
  | .vcmp _ rel ty _ a b => decide (rel.toNat < 6) && ty.isIS && vPairOK ty a && b.ok ty
  | .vbcast _ ty d _ | .vmovi _ ty d _ => ty.isBS && vPairOK ty d
  | .vadds _ ty _ _ _ | .vsubs _ ty _ _ _ => ty.isI32
  | .fadd _ ty d a b | .fsub _ ty d a b | .fmul _ ty d a b
  | .fmin _ ty d a b | .fmax _ ty d a b | .fminnum _ ty d a b | .fmaxnum _ ty d a b =>
      ty.isFS && vPairOK ty d && vPairOK ty a && b.ok ty
  | .fma _ ty d a b c | .fms _ ty d a b c | .fnma _ ty d a b c | .fnms _ ty d a b c =>
      ty.isFS && vPairOK ty d && vPairOK ty a && vPairOK ty b && vPairOK ty c
  | .fabs _ ty d a | .fneg _ ty d a | .fclass _ ty d a | .frnd _ ty d a _ => ty.isFS && vPairOK ty d && vPairOK ty a
  | .fcopysign _ ty d a b => ty.isFS && vPairOK ty d && vPairOK ty a && vPairOK ty b
  | .fcmp _ _ ty _ a b => ty.isFS && vPairOK ty a && b.ok ty
  | .frcp _ ty _ _ | .frsq _ ty _ _ | .fexp2 _ ty _ _ | .flog2 _ ty _ _ | .fsin _ ty _ _ | .fcos _ ty _ _
  | .ftanh _ ty _ _ => ty.isSpecial
  | .fsqrt _ ty d a => (ty.isSpecial || ty == .f64) && vPairOK ty d && vPairOK ty a
  | .fdiv _ ty d a b => ty.isF3264 && vPairOK ty d && vPairOK ty a && vPairOK ty b
  | .fscale _ ty d a _ => ty.isFS && vPairOK ty d && vPairOK ty a
  | .cvt _ ty src d a => ty.isCvt && src.isCvt && vPairOK ty d && vPairOK src a
  | .cvtb _ ty code _ _ => ty.isSpecial && (code == 2#4 || code == 3#4 || code == 4#4)
  | .pack _ ty src _ _ _ => ty.isPack && src.isPackSrc
  | .unpack _ ty dst part _ _ => ty.isPack && dst.isUnpackDst && unpackPartOK ty part
  | .shflIdx _ ty d a _ | .shflUp _ ty d a _ | .shflDn _ ty d a _ | .shflXor _ ty d a _ =>
      ty.isBS && vPairOK ty d && vPairOK ty a
  | .voteEq _ ty _ a => ty.isBS && vPairOK ty a
  | .reds _ op ty _ a => op.tyOK ty && vPairOK ty a
  | .scan _ op ty _ d a => op.tyOK ty && vPairOK ty d && vPairOK ty a
  | .ld _ ty d _ _ _ | .ldpd _ ty d _ | .ldacq _ ty d _ _ _ => vPairOK ty d
  | .st _ ty _ c _ _ | .stpd _ ty _ c | .xst _ ty _ c | .mcst _ ty _ _ _ c | .strel _ ty _ c _ _ => vPairOK ty c
  | .lds ty _ _ _ _ _ _ | .sts ty _ _ _ _ _ _ => ty.isLds
  | .ldl _ ty d _ _ => ty.isBS && vPairOK ty d
  | .stl _ ty _ _ c => ty.isBS && vPairOK ty c
  | .mld _ ty d _ _ _ _ _ => d.tyOK ty
  | .mst _ ty _ _ _ c _ _ => c.tyOK ty
  | .atom _ op ty _ d _ c _ _ => op.tyOK ty && vPairOK ty d && vPairOK ty c && (op != .cas || casOK ty c)
  | .red _ op ty _ _ c _ _ => op.tyOK ty && vPairOK ty c && op != .xch && op != .cas
  | .fence ord _ => ord != .relaxed
  | .barSync _ sc id | .barArrive _ sc id | .barWait _ sc id | .barExcuse _ sc id => decide (id.toNat < barIds sc)
  | .mma _ x _ _ _ _ | .mmb _ x _ _ _ _ => decide (x.toNat ≤ 8) || x == 15#4
  | .mms _ x _ _ _ _ _ => decide (x.toNat ≤ 8) || x == 15#4
  | _ => true

end Sys2Proof
end

