-- ==== Sys2Proof/Decode.lean ====
section
/-!
DEFINITION. The decoder of R228-R244 and, after it, the encoder.  Decoding is total: a word is an instruction, or ILLEGAL, or
RESERVED_FIELD, in the order of R243.  Steps 1 and 4 of R243 (parity, G16) need the line and the warp and stand with
the fetch in Machine/Fetch.lean.
-/

namespace Sys2Proof

/-- Why a word is no instruction: steps 2 and 3 of R243. -/
inductive DecodeErr where
  | illegal
  | reserved
  deriving DecidableEq, Repr

/-- The fields of an instruction word (R236). -/
structure Fields where
  opc  : BitVec 8
  sub  : BitVec 4
  ty   : BitVec 4
  msk  : BitVec 4
  mneg : BitVec 1
  fmt  : BitVec 3
  d    : BitVec 10
  a    : BitVec 10
  b    : BitVec 10
  c    : BitVec 10
  imm  : BitVec 32
  deriving DecidableEq, Repr

/-- The fields of a word, at the bit positions of R236. -/
def Fields.ofWord (w : BitVec 96) : Fields :=
  { opc := w.extractLsb' 0 8, sub := w.extractLsb' 8 4, ty := w.extractLsb' 12 4, msk := w.extractLsb' 16 4,
    mneg := w.extractLsb' 20 1, fmt := w.extractLsb' 21 3, d := w.extractLsb' 24 10, a := w.extractLsb' 34 10,
    b := w.extractLsb' 44 10, c := w.extractLsb' 54 10, imm := w.extractLsb' 64 32 }

/-- The word of the fields (R236). -/
def Fields.toWord (f : Fields) : BitVec 96 :=
  f.imm ++ f.c ++ f.b ++ f.a ++ f.d ++ f.fmt ++ f.mneg ++ f.msk ++ f.ty ++ f.sub ++ f.opc

/-- The type of a TY value (R239). -/
def Ty.ofCode (c : BitVec 4) : Ty :=
  match c.toNat with
  | 0 => .b32 | 1 => .i8 | 2 => .i16 | 3 => .i32 | 4 => .i64 | 5 => .n8 | 6 => .n16 | 7 => .n32
  | 8 => .n64 | 9 => .f16 | 10 => .bf16 | 11 => .f32 | 12 => .f64 | 13 => .e4m3 | 14 => .e5m2 | _ => .b64

/-- HINT 0-3 (R241). -/
def Hint.ofCode (c : BitVec 2) : Hint :=
  match c.toNat with
  | 0 => .none | 1 => .pin | 2 => .strm | _ => .repl

/-- The value of a hint. -/
def Hint.code : Hint → BitVec 2
  | .none => 0 | .pin => 1 | .strm => 2 | .repl => 3

/-- ORD 0-3 (R241). -/
def Ord.ofCode (c : BitVec 2) : Ord :=
  match c.toNat with
  | 0 => .relaxed | 1 => .acq | 2 => .rel | _ => .ar

/-- The value of an order. -/
def Ord.code : Ord → BitVec 2
  | .relaxed => 0 | .acq => 1 | .rel => 2 | .ar => 3

/-- SCOPE 0-6 (R241); 7 is ILLEGAL and is caught before. -/
def Scope.ofCode (c : BitVec 3) : Scope :=
  match c.toNat with
  | 0 => .warp | 1 => .core | 2 => .quad | 3 => .ret | 4 => .wafer | 5 => .sys | _ => .pod

/-- The value of a scope. -/
def Scope.code : Scope → BitVec 3
  | .warp => 0 | .core => 1 | .quad => 2 | .ret => 3 | .wafer => 4 | .sys => 5 | .pod => 6

/-- The operation of a REDS or SCAN SUB value. -/
def RedOp.ofCode (c : BitVec 4) : RedOp :=
  match c.toNat with
  | 0 => .add | 1 => .min | 2 => .max | 3 => .and | 4 => .or | _ => .xor

/-- The SUB value of a REDS or SCAN operation. -/
def RedOp.code : RedOp → BitVec 4
  | .add => 0 | .min => 1 | .max => 2 | .and => 3 | .or => 4 | .xor => 5

/-- The operation of an ATOM or RED SUB value. -/
def AtomOp.ofCode (c : BitVec 4) : AtomOp :=
  match c.toNat with
  | 0 => .add | 1 => .min | 2 => .max | 3 => .and | 4 => .or | 5 => .xor | 6 => .xch | 7 => .cas | 8 => .incw | _ => .fadd

/-- The SUB value of an ATOM or RED operation. -/
def AtomOp.code : AtomOp → BitVec 4
  | .add => 0 | .min => 1 | .max => 2 | .and => 3 | .or => 4 | .xor => 5 | .xch => 6 | .cas => 7 | .incw => 8 | .fadd => 9

/-- The dimension of an XCP SUB value. -/
def XDim.ofCode (c : BitVec 4) : XDim :=
  match c.toNat with
  | 0 => .d1 | 1 => .d2 | _ => .d3

/-- The SUB value of a copy's dimension. -/
def XDim.code : XDim → BitVec 4
  | .d1 => 0 | .d2 => 1 | .d3 => 2

/-! Operand fields (R238): class in bits [9:8], index in bits [7:0]. -/

/-- The field names s0-s63. -/
def sOK (x : BitVec 10) : Bool := x.extractLsb' 6 4 == 0#4
/-- The field names v0-v255. -/
def vOK (x : BitVec 10) : Bool := x.extractLsb' 8 2 == 1#2
/-- The field names t0-t63. -/
def tOK (x : BitVec 10) : Bool := x.extractLsb' 6 4 == 8#4
/-- The field names a0-a31. -/
def aOK (x : BitVec 10) : Bool := x.extractLsb' 5 5 == 24#5
/-- The field names m0-m15. -/
def mOK (x : BitVec 10) : Bool := x.extractLsb' 4 6 == 0#6
/-- The field names q0-q3. -/
def qOK (x : BitVec 10) : Bool := x.extractLsb' 2 8 == 0#8
/-- The field names a v register legal for a type. -/
def vpOK (t : Ty) (x : BitVec 10) : Bool := vOK x && vPairOK t (x.extractLsb' 0 8)
/-- The field names an s or v address base (R310). -/
def baseOK (x : BitVec 10) : Bool := sOK x || vOK x
/-- The field names a t or an a register. -/
def taOK (x : BitVec 10) : Bool := tOK x || aOK x

/-- Index of an s field. -/
def sOf (x : BitVec 10) : SReg := x.extractLsb' 0 6
/-- Index of a v field. -/
def vOf (x : BitVec 10) : VReg := x.extractLsb' 0 8
/-- Index of a t field. -/
def tOf (x : BitVec 10) : TReg := x.extractLsb' 0 6
/-- Index of an a field. -/
def aOf (x : BitVec 10) : AReg := x.extractLsb' 0 5
/-- Index of an m field. -/
def mOf (x : BitVec 10) : MReg := x.extractLsb' 0 4
/-- Index of a q field. -/
def qOf (x : BitVec 10) : QReg := x.extractLsb' 0 2
/-- The register of a t or a field. -/
def taOf (x : BitVec 10) : TAReg := if tOK x then .t (tOf x) else .a (aOf x)
/-- The register of an address base field. -/
def baseOf (x : BitVec 10) : ABase := if vOK x then .v (vOf x) else .s (sOf x)

/-- An s operand field. -/
def sF (r : SReg) : BitVec 10 := 0#4 ++ r
/-- A v operand field. -/
def vF (r : VReg) : BitVec 10 := 1#2 ++ r
/-- A t operand field. -/
def tF (r : TReg) : BitVec 10 := 8#4 ++ r
/-- An a operand field. -/
def aF (r : AReg) : BitVec 10 := 24#5 ++ r
/-- An m operand field. -/
def mF (r : MReg) : BitVec 10 := 0#6 ++ r
/-- A q operand field. -/
def qF (r : QReg) : BitVec 10 := 0#8 ++ r
/-- A t or a operand field. -/
def taF : TAReg → BitVec 10
  | .t r => tF r
  | .a r => aF r
/-- An address base field. -/
def baseF : ABase → BitVec 10
  | .s r => sF r
  | .v r => vF r

/-- One row of the opcode map applied to a word: the ILLEGAL conditions of its operands and extension fields, its
RESERVED_FIELD conditions, and the instruction. -/
structure Row where
  ill : Bool
  res : Bool
  ins : Instr

/-- A row that the map lists for this FMT and TY, or none (R243 step 2). -/
def row (listed ill res : Bool) (i : Instr) : Option Row := if listed then some ⟨ill, res, i⟩ else none

/-- A non-zero field. -/
def nz {n : Nat} (x : BitVec n) : Bool := x != 0#n
/-- MSK or MNEG is non-zero (R237). -/
def Fields.masked (f : Fields) : Bool := nz f.msk || nz f.mneg
/-- The mask operand of a word. -/
def Fields.pred (f : Fields) : Pred := ⟨f.msk, f.mneg == 1#1⟩
/-- The type of a word. -/
def Fields.t (f : Fields) : Ty := Ty.ofCode f.ty

/-- B of a scalar instruction in S3 or SI form (R240). -/
def Fields.ssrc (f : Fields) : SSrc := if f.fmt == 3#3 then .imm f.imm else .reg (sOf f.b)
/-- B of a vector instruction in V3 or VI form (R240). -/
def Fields.vsrc (f : Fields) : VSrc := if f.fmt == 1#3 then .imm f.imm else .reg (vOf f.b)
/-- B of SHFL.up, dn and xor: a scalar or the VI immediate (R303). -/
def Fields.nsrc (f : Fields) : SSrc := if f.fmt == 1#3 then .imm f.imm else .reg (sOf f.b)

/-- D s, A s, B s/imm (scalar group). -/
def rS3 (f : Fields) (set : Ty → Bool) (mk : Ty → SReg → SReg → SSrc → Instr) : Option Row :=
  row ((f.fmt == 2#3 || f.fmt == 3#3) && set f.t)
    (!(sOK f.d && sOK f.a && (f.fmt == 3#3 || sOK f.b)))
    (f.masked || nz f.c || (if f.fmt == 3#3 then nz f.b else nz f.imm))
    (mk f.t (sOf f.d) (sOf f.a) f.ssrc)

/-- D s, A s, in S3 form. -/
def rS2 (f : Fields) (set : Ty → Bool) (mk : Ty → SReg → SReg → Instr) : Option Row :=
  row (f.fmt == 2#3 && set f.t) (!(sOK f.d && sOK f.a)) (f.masked || nz f.b || nz f.c || nz f.imm)
    (mk f.t (sOf f.d) (sOf f.a))

/-- An instruction of a format without lanes: which operand fields it uses, each with its class check. -/
def rN (f : Fields) (fmt : BitVec 3) (ty : BitVec 4) (dOK aOK' bOK cOK : Bool) (ud ua ub uc ui : Bool) (ill : Bool)
    (i : Instr) : Option Row :=
  row (f.fmt == fmt && f.ty == ty)
    (ill || (ud && !dOK) || (ua && !aOK') || (ub && !bOK) || (uc && !cOK))
    (f.masked || (!ud && nz f.d) || (!ua && nz f.a) || (!ub && nz f.b) || (!uc && nz f.c) || (!ui && nz f.imm))
    i

/-- VI immediates of f16 and bf16 have IMM[31:16] zero (R240). -/
def Fields.viRes (f : Fields) : Bool := (f.t == .f16 || f.t == .bf16) && nz (f.imm.extractLsb' 16 16)

/-- D v, A v, B v/imm (vector groups). -/
def rV3 (f : Fields) (vi : Bool) (set : Ty → Bool) (mk : Pred → Ty → VReg → VReg → VSrc → Instr) : Option Row :=
  row ((f.fmt == 0#3 || (vi && f.fmt == 1#3)) && set f.t)
    (!(vpOK f.t f.d && vpOK f.t f.a && (f.fmt == 1#3 || vpOK f.t f.b)))
    (nz f.c || (if f.fmt == 1#3 then nz f.b || f.viRes else nz f.imm))
    (mk f.pred f.t (vOf f.d) (vOf f.a) f.vsrc)

/-- D v, A v, B v, C v. -/
def rV4 (f : Fields) (set : Ty → Bool) (mk : Pred → Ty → VReg → VReg → VReg → VReg → Instr) : Option Row :=
  row (f.fmt == 0#3 && set f.t)
    (!(vpOK f.t f.d && vpOK f.t f.a && vpOK f.t f.b && vpOK f.t f.c)) (nz f.imm)
    (mk f.pred f.t (vOf f.d) (vOf f.a) (vOf f.b) (vOf f.c))

/-- D v, A v, B v in V3 form. -/
def rVB (f : Fields) (set : Ty → Bool) (mk : Pred → Ty → VReg → VReg → VReg → Instr) : Option Row :=
  row (f.fmt == 0#3 && set f.t) (!(vpOK f.t f.d && vpOK f.t f.a && vpOK f.t f.b)) (nz f.c || nz f.imm)
    (mk f.pred f.t (vOf f.d) (vOf f.a) (vOf f.b))

/-- D v, A v in V3 form. -/
def rV2 (f : Fields) (set : Ty → Bool) (mk : Pred → Ty → VReg → VReg → Instr) : Option Row :=
  row (f.fmt == 0#3 && set f.t) (!(vpOK f.t f.d && vpOK f.t f.a)) (nz f.b || nz f.c || nz f.imm)
    (mk f.pred f.t (vOf f.d) (vOf f.a))

/-- D m, A v, B v/imm (compares). -/
def rCmp (f : Fields) (set : Ty → Bool) (mk : Pred → BitVec 3 → Ty → MReg → VReg → VSrc → Instr) : Option Row :=
  row ((f.fmt == 0#3 || f.fmt == 1#3) && set f.t)
    (!(mOK f.d && vpOK f.t f.a && (f.fmt == 1#3 || vpOK f.t f.b)))
    (nz f.c || (if f.fmt == 1#3 then nz f.b || f.viRes else nz f.imm))
    (mk f.pred (f.sub.extractLsb' 0 3) f.t (mOf f.d) (vOf f.a) f.vsrc)

/-- The SPACE of a MEM word (R241). -/
def Fields.space (f : Fields) : BitVec 2 := f.imm.extractLsb' 28 2
/-- The HINT of a MEM word. -/
def Fields.hint (f : Fields) : BitVec 3 := f.imm.extractLsb' 25 3
/-- The ORD of a MEM word. -/
def Fields.ord (f : Fields) : BitVec 2 := f.imm.extractLsb' 23 2
/-- The SCOPE of a MEM word. -/
def Fields.scope (f : Fields) : BitVec 3 := f.imm.extractLsb' 20 3
/-- The DISP of a MEM word. -/
def Fields.disp (f : Fields) : BitVec 20 := f.imm.extractLsb' 0 20
/-- The hint of a word whose HINT is legal. -/
def Fields.hintV (f : Fields) : Hint := Hint.ofCode (f.hint.extractLsb' 0 2)
/-- The order of a word. -/
def Fields.ordV (f : Fields) : Ord := Ord.ofCode f.ord
/-- The scope of a word whose SCOPE is legal. -/
def Fields.scopeV (f : Fields) : Scope := Scope.ofCode f.scope
/-- The address operand of a word. -/
def Fields.addr (f : Fields) : Addr := ⟨baseOf f.a, sOf f.b, f.disp⟩

/-- A MEM word: the SPACE test, which extension fields it uses, its ILLEGAL and RESERVED conditions (R241). -/
def rMem (f : Fields) (tyOK spaceOK uh uo us udisp lanes : Bool) (opsOK opsRes : Bool) (i : Instr) : Option Row :=
  row (f.fmt == 4#3 && tyOK)
    (!opsOK || !spaceOK || f.hint.getLsbD 2 || f.scope == 7#3)
    (opsRes || nz (f.imm.extractLsb' 30 2) || (!uh && nz f.hint) || (!uo && nz f.ord) || (!us && nz f.scope) ||
      (!udisp && nz f.disp) || (!lanes && f.masked))
    i

/-- An engine word: MEM format with IMM, MSK and MNEG zero (R244). -/
def rEng (f : Fields) (ud ua ub : Bool) (i : Instr) : Option Row :=
  row (f.fmt == 4#3 && f.ty == 0#4)
    ((ud && !sOK f.d) || (ua && !sOK f.a) || (ub && !sOK f.b) || f.space == 3#2 || nz f.space || f.hint.getLsbD 2 ||
      f.scope == 7#3)
    (f.masked || nz f.imm || (!ud && nz f.d) || (!ua && nz f.a) || (!ub && nz f.b) || nz f.c)
    i

/-- A matrix word (R242). -/
def rMx (f : Fields) (ill res : Bool) (i : Instr) : Option Row := row (f.fmt == 5#3 && f.ty == 0#4) ill res i

/-- XAF values 9-14 are ILLEGAL at decode (R242). -/
def xafOK (x : BitVec 4) : Bool := decide (x.toNat ≤ 8) || x == 15#4

/-- The rows 0x01-0x11 of the opcode map (R244). -/
def rowsScalar (f : Fields) : Option Row :=
  match f.opc.toNat, f.sub.toNat with
  | 0x01, 0 => rN f 2#3 0#4 true true true true false false false false false false .nop
  | 0x02, 0 => rS3 f Ty.isIS .sadd
  | 0x03, 0 => rS3 f Ty.isIS .ssub
  | 0x04, 0 => rS3 f Ty.isIS .smul
  | 0x04, 1 => rS3 f Ty.isIS .smulh
  | 0x05, 0 => rS3 f Ty.isIS .sdiv
  | 0x05, 1 => rS3 f Ty.isIS .srem
  | 0x06, 0 => rS3 f Ty.isBS .sand
  | 0x06, 1 => rS3 f Ty.isBS .sor
  | 0x06, 2 => rS3 f Ty.isBS .sxor
  | 0x06, 3 => rS3 f Ty.isBS .sandn
  | 0x07, 0 => rS3 f Ty.isBS .sshl
  | 0x07, 1 => rS3 f Ty.isBS .sshr
  | 0x07, 2 => rS3 f Ty.isBS .ssra
  | 0x07, 3 => rS3 f Ty.isBS .srot
  | 0x08, 0 => rS3 f Ty.isIS .smin
  | 0x08, 1 => rS3 f Ty.isIS .smax
  | 0x09, 0 => rS2 f Ty.isBS .sclz
  | 0x09, 1 => rS2 f Ty.isBS .spop
  | 0x09, 2 => rS2 f Ty.isBS .sctz
  | 0x09, 3 => rS2 f Ty.isBS .sbrev
  | 0x0a, 0 => row ((f.fmt == 2#3 || f.fmt == 3#3) && f.ty == 15#4) (!(sOK f.d && (f.fmt == 3#3 || sOK f.a)))
        (f.masked || nz f.b || nz f.c || (if f.fmt == 3#3 then nz f.a else nz f.imm))
        (.smov (sOf f.d) (if f.fmt == 3#3 then .imm f.imm else .reg (sOf f.a)))
  | 0x0a, 1 => rN f 3#3 15#4 (sOK f.d) true true true true false false false true false (.smovh (sOf f.d) f.imm)
  | 0x0b, 0 => rS2 f Ty.isSext .sext
  | 0x0c, 0 => row (f.fmt == 2#3 && f.t.isBfx) (decide ((f.imm.extractLsb' 0 6).toNat + (f.imm.extractLsb' 6 6).toNat + 1 > 64) || !(sOK f.d && sOK f.a))
        (f.masked || nz f.b || nz f.c || nz (f.imm.extractLsb' 12 20))
        (.sbfx f.t (sOf f.d) (sOf f.a) (f.imm.extractLsb' 0 6) (f.imm.extractLsb' 6 6))
  | 0x0c, 1 => row (f.fmt == 2#3 && f.ty == 15#4) (decide ((f.imm.extractLsb' 0 6).toNat + (f.imm.extractLsb' 6 6).toNat + 1 > 64) || !(sOK f.d && sOK f.a))
        (f.masked || nz f.b || nz f.c || nz (f.imm.extractLsb' 12 20))
        (.sbfi (sOf f.d) (sOf f.a) (f.imm.extractLsb' 0 6) (f.imm.extractLsb' 6 6))
  | 0x0d, 0 => row (f.fmt == 2#3 && f.ty == 15#4) (!(sOK f.d && sOK f.a && sOK f.b)) (f.masked || nz f.c || nz (f.imm.extractLsb' 3 29))
        (.slea (sOf f.d) (sOf f.a) (sOf f.b) (f.imm.extractLsb' 0 3))
  | 0x0e, 0 => row ((f.fmt == 2#3 || f.fmt == 3#3) && f.t.isIS) (!(sOK f.a && (f.fmt == 3#3 || sOK f.b)))
        (f.masked || nz f.d || nz f.c || (if f.fmt == 3#3 then nz f.b else nz f.imm)) (.scmp f.t (sOf f.a) f.ssrc)
  | 0x0f, 0 => row (f.fmt == 2#3 && f.ty == 15#4) (!(sOK f.d && sOK f.a && sOK f.b)) (f.masked || nz f.c || nz (f.imm.extractLsb' 4 28))
        (.ssel (sOf f.d) (sOf f.a) (sOf f.b) (f.imm.extractLsb' 0 4))
  | 0x10, 0 => rN f 2#3 15#4 (sOK f.d) (qOK f.a) (sOK f.b) true true true true false false false (.srd (sOf f.d) (qOf f.a) (sOf f.b))
  | 0x11, 0 => rN f 2#3 0#4 (sOK f.d) true true true true false false false false false (.sflgGet (sOf f.d))
  | 0x11, 1 => rN f 2#3 0#4 true (sOK f.a) true true false true false false false false (.sflgSet (sOf f.a))
  | _, _ => none

/-- The rows 0x20-0x37 of the opcode map (R244). -/
def rowsControl (f : Fields) : Option Row :=
  match f.opc.toNat, f.sub.toNat with
  | 0x20, 0 => rN f 6#3 0#4 true true true true false false false false true false (.br f.imm)
  | 0x21, _ => rN f 6#3 0#4 true true true true false false false false true false (.bcc f.sub f.imm)
  | 0x22, 0 => rN f 6#3 0#4 true (mOK f.a) true true false true false false true false (.bmz (mOf f.a) f.imm)
  | 0x22, 1 => rN f 6#3 0#4 true (mOK f.a) true true false true false false true false (.bmnz (mOf f.a) f.imm)
  | 0x23, 0 => row (f.fmt == 6#3 && f.ty == 0#4) false (f.masked || nz f.d || nz f.a || nz f.b || nz (f.c.extractLsb' 8 2))
        (.call (f.c.extractLsb' 0 8) f.imm)
  | 0x23, 1 => row (f.fmt == 6#3 && f.ty == 0#4) (!sOK f.a) (f.masked || nz f.d || nz f.b || nz (f.c.extractLsb' 8 2) || nz f.imm)
        (.calli (sOf f.a) (f.c.extractLsb' 0 8))
  | 0x24, 0 => rN f 6#3 0#4 true true true true false false false false false false .ret
  | 0x25, 0 => rN f 6#3 0#4 true true true true false false false false false false .exit
  | 0x26, 0 => rN f 6#3 0#4 true (sOK f.a) true true false true false false false false (.post (sOf f.a))
  | 0x27, 0 => rN f 6#3 0#4 (sOK f.d) (sOK f.a) true true true true false false false false (.join (sOf f.d) (sOf f.a))
  | 0x28, 0 => rN f 6#3 0#4 true true true true false false false false false false .yield
  | 0x29, 0 => rN f 6#3 0#4 true true true true false false false false false false .region
  | 0x2a, 0 => rN f 6#3 0#4 true (sOK f.a) (sOK f.b) true false true true false false false (.quota (sOf f.a) (sOf f.b))
  | 0x30, 0 => rN f 7#3 0#4 true true true true false false false false true (nz (f.imm.extractLsb' 16 16) || f.imm.extractLsb' 0 16 == 0xFFFF#16) (.trap (f.imm.extractLsb' 0 16))
  | 0x31, 0 => rN f 7#3 0#4 true true true true false false false false false false .rte
  | 0x32, 0 => row (f.fmt == 7#3 && f.ty == 15#4) (!(sOK f.d && sOK f.a)) (f.masked || nz f.b || nz f.c || nz (f.imm.extractLsb' 16 16))
        (.sysrd (sOf f.d) (sOf f.a) (f.imm.extractLsb' 0 16))
  | 0x33, 0 => row (f.fmt == 7#3 && f.ty == 15#4) (!(sOK f.a && sOK f.b)) (f.masked || nz f.d || nz f.c || nz (f.imm.extractLsb' 16 16))
        (.syswr (sOf f.a) (sOf f.b) (f.imm.extractLsb' 0 16))
  | 0x34, 0 => rN f 7#3 0#4 true (sOK f.a) true true false true false false false false (.rmack (sOf f.a))
  | 0x35, 0 => rN f 7#3 0#4 true (sOK f.a) (sOK f.b) (sOK f.c) false true true true false false (.pgpurge (sOf f.a) (sOf f.b) (sOf f.c))
  | 0x36, 0 => row (f.fmt == 7#3 && f.ty == 0#4) false (f.masked || nz f.d || nz f.a || nz f.b || nz f.c || nz (f.imm.extractLsb' 16 16))
        (.pause (f.imm.extractLsb' 0 16))
  | 0x37, 0 => rN f 7#3 0#4 true true true true false false false false false false .park
  | _, _ => none

/-- The rows 0x40-0x4d of the opcode map (R244). -/
def rowsVector (f : Fields) : Option Row :=
  match f.opc.toNat, f.sub.toNat with
  | 0x40, 0 => rV3 f true Ty.isIS .vadd
  | 0x41, 0 => rV3 f true Ty.isIS .vsub
  | 0x42, 0 => rV3 f true Ty.isIS .vmul
  | 0x42, 1 => rV3 f true Ty.isIS .vmulh
  | 0x43, 0 => rV4 f Ty.isIS .vmad
  | 0x44, 0 => rV3 f true Ty.isBS .vand
  | 0x44, 1 => rV3 f true Ty.isBS .vor
  | 0x44, 2 => rV3 f true Ty.isBS .vxor
  | 0x44, 3 => rV3 f true Ty.isBS .vandn
  | 0x45, 0 => rV3 f true Ty.isBS .vshl
  | 0x45, 1 => rV3 f true Ty.isBS .vshr
  | 0x45, 2 => rV3 f true Ty.isBS .vsra
  | 0x45, 3 => rV3 f true Ty.isBS .vrot
  | 0x46, 0 => rV3 f true Ty.isIS .vmin
  | 0x46, 1 => rV3 f true Ty.isIS .vmax
  | 0x47, 0 => rV2 f Ty.isI .vabs
  | 0x47, 1 => rV2 f Ty.isI .vneg
  | 0x48, 0 => rV2 f Ty.isBS .vclz
  | 0x48, 1 => rV2 f Ty.isBS .vpop
  | 0x49, 0 => row (f.fmt == 0#3 && f.t.isBS) (!(vpOK f.t f.d && vpOK f.t f.a && vpOK f.t f.b && mOK f.c)) (nz f.imm)
        (.vsel f.pred f.t (vOf f.d) (vOf f.a) (vOf f.b) (mOf f.c))
  | 0x4b, 0 => rV2 f Ty.isBS .vmov
  | 0x4b, 1 => row (f.fmt == 0#3 && f.t.isBS) (!(vpOK f.t f.d && sOK f.a)) (nz f.b || nz f.c || nz f.imm) (.vbcast f.pred f.t (vOf f.d) (sOf f.a))
  | 0x4b, 2 => row (f.fmt == 1#3 && f.t.isBS) (!vpOK f.t f.d) (nz f.a || nz f.b || nz f.c) (.vmovi f.pred f.t (vOf f.d) f.imm)
  | 0x4c, 0 => row (f.fmt == 0#3 && f.ty == 7#4) (!vOK f.d) (nz f.a || nz f.b || nz f.c || nz f.imm) (.vlane f.pred (vOf f.d))
  | 0x4d, 0 => rV3 f true Ty.isI32 .vadds
  | 0x4d, 1 => rV3 f true Ty.isI32 .vsubs
  | 0x4a, n => if n < 6 then rCmp f Ty.isIS .vcmp else none
  | _, _ => none

/-- The rows 0x60-0x6b of the opcode map (R244). -/
def rowsFloat (f : Fields) : Option Row :=
  match f.opc.toNat, f.sub.toNat with
  | 0x60, 0 => rV3 f true Ty.isFS .fadd
  | 0x61, 0 => rV3 f true Ty.isFS .fsub
  | 0x62, 0 => rV3 f true Ty.isFS .fmul
  | 0x63, 0 => rV4 f Ty.isFS .fma
  | 0x63, 1 => rV4 f Ty.isFS .fms
  | 0x63, 2 => rV4 f Ty.isFS .fnma
  | 0x63, 3 => rV4 f Ty.isFS .fnms
  | 0x64, 0 => rV3 f true Ty.isFS .fmin
  | 0x64, 1 => rV3 f true Ty.isFS .fmax
  | 0x64, 2 => rV3 f true Ty.isFS .fminnum
  | 0x64, 3 => rV3 f true Ty.isFS .fmaxnum
  | 0x65, 0 => rV2 f Ty.isFS .fabs
  | 0x65, 1 => rV2 f Ty.isFS .fneg
  | 0x65, 2 => rVB f Ty.isFS .fcopysign
  | 0x67, 0 => rV2 f Ty.isFS .fclass
  | 0x68, 0 => row (f.fmt == 0#3 && f.t.isFS) (!(vpOK f.t f.d && vpOK f.t f.a)) (nz f.b || nz f.c || nz (f.imm.extractLsb' 3 29))
        (.frnd f.pred f.t (vOf f.d) (vOf f.a) (f.imm.extractLsb' 0 3))
  | 0x69, 0 => rV2 f Ty.isSpecial .frcp
  | 0x69, 1 => rV2 f Ty.isSpecial .frsq
  | 0x69, 2 => rV2 f (fun t => t.isSpecial || t == .f64) .fsqrt
  | 0x69, 3 => rV2 f Ty.isSpecial .fexp2
  | 0x69, 4 => rV2 f Ty.isSpecial .flog2
  | 0x69, 5 => rV2 f Ty.isSpecial .fsin
  | 0x69, 6 => rV2 f Ty.isSpecial .fcos
  | 0x69, 7 => rV2 f Ty.isSpecial .ftanh
  | 0x6a, 0 => rVB f Ty.isF3264 .fdiv
  | 0x6b, 0 => row ((f.fmt == 0#3 || f.fmt == 1#3) && f.t.isFS) (!(vpOK f.t f.d && vpOK f.t f.a && (f.fmt == 1#3 || vOK f.b)))
        (nz f.c || (if f.fmt == 1#3 then nz f.b else nz f.imm)) (.fscale f.pred f.t (vOf f.d) (vOf f.a) f.vsrc)
  | 0x66, n => if n < 8 then rCmp f Ty.isFS .fcmp else none
  | _, _ => none

/-- The rows 0x80-0x8a of the opcode map (R244). -/
def rowsCollective (f : Fields) : Option Row :=
  match f.opc.toNat, f.sub.toNat with
  | 0x80, 0 => row (f.fmt == 0#3 && f.t.isCvt) (nz (f.imm.extractLsb' 4 28) || !((Ty.ofCode (f.imm.extractLsb' 0 4)).isCvt) || !(vpOK f.t f.d && vpOK (Ty.ofCode (f.imm.extractLsb' 0 4)) f.a)) (nz f.b || nz f.c)
        (.cvt f.pred f.t (Ty.ofCode (f.imm.extractLsb' 0 4)) (vOf f.d) (vOf f.a))
  | 0x81, 0 => row (f.fmt == 0#3 && f.t.isSpecial) (!(f.imm == 2#32 || f.imm == 3#32 || f.imm == 4#32) || !(vOK f.d && vOK f.a)) (nz f.b || nz f.c)
        (.cvtb f.pred f.t (f.imm.extractLsb' 0 4) (vOf f.d) (vOf f.a))
  | 0x82, 0 => row (f.fmt == 0#3 && f.t.isPack) (nz (f.imm.extractLsb' 4 28) || !((Ty.ofCode (f.imm.extractLsb' 0 4)).isPackSrc) || !(vOK f.d && vOK f.a && vOK f.b)) (nz f.c)
        (.pack f.pred f.t (Ty.ofCode (f.imm.extractLsb' 0 4)) (vOf f.d) (vOf f.a) (vOf f.b))
  | 0x83, 0 => row (f.fmt == 0#3 && f.t.isPack) (!((Ty.ofCode (f.imm.extractLsb' 0 4)).isUnpackDst) || !unpackPartOK f.t (f.imm.extractLsb' 4 2) || !(vOK f.d && vOK f.a))
        (nz f.b || nz f.c || nz (f.imm.extractLsb' 6 26)) (.unpack f.pred f.t (Ty.ofCode (f.imm.extractLsb' 0 4)) (f.imm.extractLsb' 4 2) (vOf f.d) (vOf f.a))
  | 0x84, 0 => row (f.fmt == 0#3 && f.t.isBS) (!(vpOK f.t f.d && vpOK f.t f.a && vOK f.b)) (nz f.c || nz f.imm)
        (.shflIdx f.pred f.t (vOf f.d) (vOf f.a) (vOf f.b))
  | 0x84, 1 => row ((f.fmt == 0#3 || f.fmt == 1#3) && f.t.isBS) (!(vpOK f.t f.d && vpOK f.t f.a && (f.fmt == 1#3 || sOK f.b)))
        (nz f.c || (if f.fmt == 1#3 then nz f.b else nz f.imm)) (.shflUp f.pred f.t (vOf f.d) (vOf f.a) f.nsrc)
  | 0x84, 2 => row ((f.fmt == 0#3 || f.fmt == 1#3) && f.t.isBS) (!(vpOK f.t f.d && vpOK f.t f.a && (f.fmt == 1#3 || sOK f.b)))
        (nz f.c || (if f.fmt == 1#3 then nz f.b else nz f.imm)) (.shflDn f.pred f.t (vOf f.d) (vOf f.a) f.nsrc)
  | 0x84, 3 => row ((f.fmt == 0#3 || f.fmt == 1#3) && f.t.isBS) (!(vpOK f.t f.d && vpOK f.t f.a && (f.fmt == 1#3 || sOK f.b)))
        (nz f.c || (if f.fmt == 1#3 then nz f.b else nz f.imm)) (.shflXor f.pred f.t (vOf f.d) (vOf f.a) f.nsrc)
  | 0x85, 0 => row (f.fmt == 0#3 && f.ty == 0#4) (!(mOK f.d && mOK f.a)) (nz f.b || nz f.c || nz f.imm) (.voteAll f.pred (mOf f.d) (mOf f.a))
  | 0x85, 1 => row (f.fmt == 0#3 && f.ty == 0#4) (!(mOK f.d && mOK f.a)) (nz f.b || nz f.c || nz f.imm) (.voteAny f.pred (mOf f.d) (mOf f.a))
  | 0x85, 2 => row (f.fmt == 0#3 && f.t.isBS) (!(mOK f.d && vpOK f.t f.a)) (nz f.b || nz f.c || nz f.imm) (.voteEq f.pred f.t (mOf f.d) (vOf f.a))
  | 0x85, 3 => row (f.fmt == 0#3 && f.ty == 0#4) (!(sOK f.d && mOK f.a)) (nz f.b || nz f.c || nz f.imm) (.voteBallot f.pred (sOf f.d) (mOf f.a))
  | 0x88, 0 => row (f.fmt == 0#3 && f.ty == 0#4) (!(mOK f.d && mOK f.a && mOK f.b)) (nz f.c || nz f.imm) (.mand f.pred (mOf f.d) (mOf f.a) (mOf f.b))
  | 0x88, 1 => row (f.fmt == 0#3 && f.ty == 0#4) (!(mOK f.d && mOK f.a && mOK f.b)) (nz f.c || nz f.imm) (.mor f.pred (mOf f.d) (mOf f.a) (mOf f.b))
  | 0x88, 2 => row (f.fmt == 0#3 && f.ty == 0#4) (!(mOK f.d && mOK f.a && mOK f.b)) (nz f.c || nz f.imm) (.mxor f.pred (mOf f.d) (mOf f.a) (mOf f.b))
  | 0x88, 3 => row (f.fmt == 0#3 && f.ty == 0#4) (!(mOK f.d && mOK f.a)) (nz f.b || nz f.c || nz f.imm) (.mnot f.pred (mOf f.d) (mOf f.a))
  | 0x89, 0 => row (f.fmt == 0#3 && f.ty == 0#4) (!(mOK f.d && mOK f.a)) (nz f.b || nz f.c || nz f.imm) (.mmovMask f.pred (mOf f.d) (mOf f.a))
  | 0x89, 1 => row (f.fmt == 0#3 && f.ty == 0#4) (!(mOK f.d && sOK f.a)) (nz f.b || nz f.c || nz f.imm) (.mmovFromScalar f.pred (mOf f.d) (sOf f.a))
  | 0x89, 2 => row (f.fmt == 0#3 && f.ty == 0#4) (!(sOK f.d && mOK f.a)) (nz f.b || nz f.c || nz f.imm) (.mmovToScalar f.pred (sOf f.d) (mOf f.a))
  | 0x8a, 0 => row (f.fmt == 0#3 && f.ty == 0#4) (!(sOK f.d && mOK f.a)) (nz f.b || nz f.c || nz f.imm) (.mcnt f.pred (sOf f.d) (mOf f.a))
  | 0x8a, 1 => row (f.fmt == 0#3 && f.ty == 0#4) (!(sOK f.d && mOK f.a)) (nz f.b || nz f.c || nz f.imm) (.mfirst f.pred (sOf f.d) (mOf f.a))
  | 0x86, n => if n < 6 then row (f.fmt == 0#3 && (RedOp.ofCode f.sub).tyOK f.t) (!(qOK f.d && vpOK f.t f.a)) (nz f.b || nz f.c || nz f.imm)
        (.reds f.pred (RedOp.ofCode f.sub) f.t (qOf f.d) (vOf f.a)) else none
  | 0x87, n => if n < 6 then row (f.fmt == 0#3 && (RedOp.ofCode f.sub).tyOK f.t) (!(vpOK f.t f.d && vpOK f.t f.a)) (nz f.b || nz f.c || nz (f.imm.extractLsb' 1 31))
        (.scan f.pred (RedOp.ofCode f.sub) f.t (f.imm.getLsbD 0) (vOf f.d) (vOf f.a)) else none
  | _, _ => none

/-- The rows 0xa0-0xb5 of the opcode map (R244).  A SCOPE or DISP that a row does not use must be zero: R241 says so of HINT and ORD alone there, and
for these fields it is the model's choice (log 67). -/
def rowsMem (f : Fields) : Option Row :=
  match f.opc.toNat, f.sub.toNat with
  | 0xa0, 0 => rMem f true (f.space == 0#2) true false true true true (vpOK f.t f.d && baseOK f.a && sOK f.b) (nz f.c)
        (.ld f.pred f.t (vOf f.d) f.addr f.hintV f.scopeV)
  | 0xa1, 0 => rMem f true (f.space == 0#2) true false true true true (vpOK f.t f.c && baseOK f.a && sOK f.b) (nz f.d)
        (.st f.pred f.t f.addr (vOf f.c) f.hintV f.scopeV)
  | 0xa2, 0 => rMem f f.t.isLds (f.space == 0#2) true false true true false (sOK f.d && sOK f.a && sOK f.b) (nz f.c)
        (.lds f.t (sOf f.d) (sOf f.a) (sOf f.b) f.disp f.hintV f.scopeV)
  | 0xa3, 0 => rMem f f.t.isLds (f.space == 0#2) true false true true false (sOK f.c && sOK f.a && sOK f.b) (nz f.d)
        (.sts f.t (sOf f.a) (sOf f.b) (sOf f.c) f.disp f.hintV f.scopeV)
  | 0xa4, 0 => rMem f f.t.isBS (f.space == 0#2) false false false true true (vpOK f.t f.d && sOK f.a) (nz f.b || nz f.c)
        (.ldl f.pred f.t (vOf f.d) (sOf f.a) f.disp)
  | 0xa5, 0 => rMem f f.t.isBS (f.space == 0#2) false false false true true (vpOK f.t f.c && sOK f.a) (nz f.b || nz f.d)
        (.stl f.pred f.t (sOf f.a) f.disp (vOf f.c))
  | 0xa6, 0 => rMem f (f.t == .b32 || f.t == .bf16 || f.t == .f16 || f.t == .i8 || f.t == .e4m3 || f.t == .e5m2 || f.t == .f32) (f.space == 0#2) true false true true true (taOK f.d && (taOf f.d).tyOK f.t && sOK f.a && sOK f.b) (nz f.c)
        (.mld f.pred f.t (taOf f.d) (sOf f.a) (sOf f.b) f.disp f.hintV f.scopeV)
  | 0xa7, 0 => rMem f (f.t == .b32 || f.t == .bf16 || f.t == .f16 || f.t == .i8 || f.t == .e4m3 || f.t == .e5m2 || f.t == .f32) (f.space == 0#2) true false true true true (taOK f.c && (taOf f.c).tyOK f.t && sOK f.a && sOK f.b) (nz f.d)
        (.mst f.pred f.t (sOf f.a) (sOf f.b) f.disp (taOf f.c) f.hintV f.scopeV)
  | 0xa8, 0 => rMem f (f.ty == 0#4) (f.space == 0#2) true false true true true (baseOK f.a && sOK f.b) (nz f.d || nz f.c)
        (.pld f.pred f.addr f.hintV f.scopeV)
  | 0xa9, 0 => rMem f true (f.space == 1#2) false false false true true (vpOK f.t f.d && baseOK f.a && sOK f.b) (nz f.c)
        (.ldpd f.pred f.t (vOf f.d) f.addr)
  | 0xaa, 0 => rMem f true (f.space == 1#2) false false false true true (vpOK f.t f.c && baseOK f.a && sOK f.b) (nz f.d)
        (.stpd f.pred f.t f.addr (vOf f.c))
  | 0xab, 0 => rMem f true (f.space == 2#2) false false false true true (vpOK f.t f.c && baseOK f.a && sOK f.b) (nz f.d)
        (.xst f.pred f.t f.addr (vOf f.c))
  | 0xac, 0 => rMem f true (f.space == 2#2) false false false false true (vpOK f.t f.c && sOK f.d && sOK f.a && sOK f.b) (false)
        (.mcst f.pred f.t (sOf f.d) (sOf f.a) (sOf f.b) (vOf f.c))
  | 0xad, 0 => rMem f (f.ty == 0#4) (f.space == 0#2) false false false false false (sOK f.d && sOK f.a) (nz f.b || nz f.c)
        (.gjoin (sOf f.d) (sOf f.a))
  | 0xad, 1 => rMem f (f.ty == 0#4) (f.space == 0#2) false false false false false (true) (nz f.a || nz f.b || nz f.c || nz f.d)
        (.gleave)
  | 0xae, 0 => rMem f (f.ty == 0#4) (f.space == 0#2) false false false false false (true) (nz f.a || nz f.b || nz f.c || nz f.d)
        (.gbar)
  | 0xb1, 0 => rMem f (f.ty == 0#4) (f.space == 0#2) false true true false false (f.ord != 0#2) (nz f.a || nz f.b || nz f.c || nz f.d)
        (.fence f.ordV f.scopeV)
  | 0xb2, 0 => rMem f (f.ty == 0#4) (f.space == 0#2) false false true true false (sOK f.d && decide ((f.disp.extractLsb' 0 6).toNat < barIds f.scopeV)) (nz f.a || nz f.b || nz f.c || nz (f.disp.extractLsb' 6 14))
        (.barSync (sOf f.d) f.scopeV (f.disp.extractLsb' 0 6))
  | 0xb2, 1 => rMem f (f.ty == 0#4) (f.space == 0#2) false false true true false (sOK f.d && decide ((f.disp.extractLsb' 0 6).toNat < barIds f.scopeV)) (nz f.a || nz f.b || nz f.c || nz (f.disp.extractLsb' 6 14))
        (.barArrive (sOf f.d) f.scopeV (f.disp.extractLsb' 0 6))
  | 0xb2, 2 => rMem f (f.ty == 0#4) (f.space == 0#2) false false true true false (sOK f.d && decide ((f.disp.extractLsb' 0 6).toNat < barIds f.scopeV)) (nz f.a || nz f.b || nz f.c || nz (f.disp.extractLsb' 6 14))
        (.barWait (sOf f.d) f.scopeV (f.disp.extractLsb' 0 6))
  | 0xb2, 3 => rMem f (f.ty == 0#4) (f.space == 0#2) false false true true false (sOK f.d && decide ((f.disp.extractLsb' 0 6).toNat < barIds f.scopeV)) (nz f.a || nz f.b || nz f.c || nz (f.disp.extractLsb' 6 14))
        (.barExcuse (sOf f.d) f.scopeV (f.disp.extractLsb' 0 6))
  | 0xb3, 0 => rMem f (f.ty == 0#4) (f.space == 0#2) false false true false false (sOK f.a && sOK f.b) (nz f.c || nz f.d)
        (.clean (sOf f.a) (sOf f.b) f.scopeV)
  | 0xb3, 1 => rMem f (f.ty == 0#4) (f.space == 0#2) false false true false false (sOK f.a && sOK f.b) (nz f.c || nz f.d)
        (.inval (sOf f.a) (sOf f.b) f.scopeV)
  | 0xb3, 2 => rMem f (f.ty == 0#4) (f.space == 0#2) false false true false false (sOK f.a && sOK f.b) (nz f.c || nz f.d)
        (.flush (sOf f.a) (sOf f.b) f.scopeV)
  | 0xb4, 0 => rMem f true (f.space == 0#2) true false true true true (vpOK f.t f.d && baseOK f.a && sOK f.b) (nz f.c)
        (.ldacq f.pred f.t (vOf f.d) f.addr f.hintV f.scopeV)
  | 0xb5, 0 => rMem f true (f.space == 0#2) true false true true true (vpOK f.t f.c && baseOK f.a && sOK f.b) (nz f.d)
        (.strel f.pred f.t f.addr (vOf f.c) f.hintV f.scopeV)
  | 0xaf, n => if n < 10 then rMem f ((AtomOp.ofCode f.sub).tyOK f.t) (!f.space.getLsbD 1) false true true true true (vpOK f.t f.d && vpOK f.t f.c && (AtomOp.ofCode f.sub != .cas || casOK f.t (vOf f.c)) && baseOK f.a && sOK f.b) (false)
        (.atom f.pred (AtomOp.ofCode f.sub) f.t (f.space.getLsbD 0) (vOf f.d) f.addr (vOf f.c) f.ordV f.scopeV) else none
  | 0xb0, n => if n < 10 then rMem f ((AtomOp.ofCode f.sub).tyOK f.t && AtomOp.ofCode f.sub != .xch && AtomOp.ofCode f.sub != .cas) (!f.space.getLsbD 1) false true true true true (vpOK f.t f.c && baseOK f.a && sOK f.b) (nz f.d)
        (.red f.pred (AtomOp.ofCode f.sub) f.t (f.space.getLsbD 0) f.addr (vOf f.c) f.ordV f.scopeV) else none
  | _, _ => none

/-- The rows 0xc0-0xc7 of the opcode map (R244). -/
def rowsMatrix (f : Fields) : Option Row :=
  match f.opc.toNat, f.sub.toNat with
  | 0xc0, 0 => rMx f (!xafOK (f.imm.extractLsb' 0 4) || !(aOK f.d && tOK f.a && tOK f.b && vOK f.c)) (nz (f.imm.extractLsb' 4 28))
        (.mma f.pred (f.imm.extractLsb' 0 4) (aOf f.d) (tOf f.a) (tOf f.b) (vOf f.c))
  | 0xc1, 0 => rMx f (!xafOK (f.imm.extractLsb' 0 4) || !(aOK f.d && tOK f.a && tOK f.b && vOK f.c)) (nz (f.imm.extractLsb' 4 28))
        (.mmb f.pred (f.imm.extractLsb' 0 4) (aOf f.d) (tOf f.a) (tOf f.b) (vOf f.c))
  | 0xc2, 0 => rMx f (!xafOK (f.imm.extractLsb' 0 4) || !(aOK f.d && tOK f.a && tOK f.b && vOK f.c)) (nz (f.imm.extractLsb' 12 20))
        (.mms f.pred (f.imm.extractLsb' 0 4) (f.imm.extractLsb' 4 8) (aOf f.d) (tOf f.a) (tOf f.b) (vOf f.c))
  | 0xc3, 0 => rMx f (!(tOK f.d && tOK f.a && vOK f.b && vOK f.c)) (nz f.imm) (.spcmp f.pred (tOf f.d) (tOf f.a) (vOf f.b) (vOf f.c))
  | 0xc4, 0 => rMx f (!(tOK f.d && tOK f.a)) (nz f.b || nz f.c || nz f.imm) (.mtrn f.pred (tOf f.d) (tOf f.a))
  | 0xc5, 0 => rMx f (!taOK f.d) (nz f.a || nz f.b || nz f.c || nz f.imm) (.mzero f.pred (taOf f.d))
  | 0xc6, 0 => rMx f (!(tOK f.d && aOK f.a && vOK f.c)) (nz f.b || nz f.imm) (.mcvt f.pred (tOf f.d) (aOf f.a) (vOf f.c))
  | 0xc7, 0 => rMx f (!(aOK f.d && aOK f.a && vOK f.b)) (nz f.c || nz f.imm) (.mscale f.pred (aOf f.d) (aOf f.a) (vOf f.b))
  | _, _ => none

/-- The rows 0xd0-0xdb of the opcode map (R244). -/
def rowsEngine (f : Fields) : Option Row :=
  match f.opc.toNat, f.sub.toNat with
  | 0xd0, 3 => rEng f false true false (.xcpTmpl (sOf f.a))
  | 0xd1, 0 => rEng f true false false (.xbatch (sOf f.d))
  | 0xd2, 0 => rEng f false true false (.xwait (sOf f.a))
  | 0xd3, 0 => rEng f false true true (.rinit (sOf f.a) (sOf f.b))
  | 0xd4, 0 => rEng f true true false (.rawait (sOf f.d) (sOf f.a))
  | 0xd5, 0 => rEng f false true true (.rrel (sOf f.a) (sOf f.b))
  | 0xd6, 0 => rEng f false true true (.rfill (sOf f.a) (sOf f.b))
  | 0xd7, 0 => rEng f false true false (.mvs (sOf f.a))
  | 0xd8, 0 => rEng f true true false (.cred (sOf f.d) (sOf f.a))
  | 0xd9, 0 => rEng f true true false (.cmc (sOf f.d) (sOf f.a))
  | 0xda, 0 => rEng f true true false (.cag (sOf f.d) (sOf f.a))
  | 0xdb, 0 => rEng f true true false (.rlq (sOf f.d) (sOf f.a))
  | 0xd0, n => if n < 3 then rEng f false true false (.xcp (XDim.ofCode f.sub) (sOf f.a)) else none
  | _, _ => none

/-- The row of the opcode map that a word names, applied to it.  A load or an atomic with SPACE 2 is ILLEGAL here (R241, R243, R311), where R122
has loads and atomics through `grp:` trap with PAD_BOUND: the model follows the checks at decode (log 64). -/
def decodeRow (f : Fields) : Option Row :=
  match (f.opc.extractLsb' 4 4).toNat with
  | 0x0 | 0x1 => rowsScalar f
  | 0x2 | 0x3 => rowsControl f
  | 0x4 => rowsVector f
  | 0x6 => rowsFloat f
  | 0x8 => rowsCollective f
  | 0xA | 0xB => rowsMem f
  | 0xC => rowsMatrix f
  | 0xD => rowsEngine f
  | _ => none

/-- Steps 2 and 3 of R243 on the fields of a word. -/
def decodeFields (f : Fields) : Except DecodeErr Instr :=
  match decodeRow f with
  | none => .error .illegal
  | some r => if r.ill then .error .illegal else if r.res then .error .reserved else .ok r.ins

/-- The instruction of a 96-bit word (R236-R244). -/
def decode (w : BitVec 96) : Except DecodeErr Instr := decodeFields (Fields.ofWord w)

/-- The host's question: the instruction in the 96 bits of `w`, bit 0 the least significant bit of byte 0 (R228). -/
def decodeTableWord (_nbits w : Nat) : Option Instr :=
  match decode (BitVec.ofNat 96 w) with
  | .ok i => some i
  | .error _ => none

/-! The encoder. -/

/-- Fields with everything zero but OPC, SUB, TY and FMT. -/
def Fields.mk0 (opc : BitVec 8) (sub ty : BitVec 4) (fmt : BitVec 3) : Fields :=
  ⟨opc, sub, ty, 0, 0, fmt, 0, 0, 0, 0, 0⟩

/-- Fields with a mask. -/
def Fields.withPred (f : Fields) (p : Pred) : Fields := { f with msk := p.m, mneg := BitVec.ofBool p.neg }

/-- D s, A s, B s/imm. -/
def eS3 (opc : BitVec 8) (sub : BitVec 4) (ty : Ty) (d a : SReg) : SSrc → Fields
  | .reg r => { Fields.mk0 opc sub ty.code 2 with d := sF d, a := sF a, b := sF r }
  | .imm v => { Fields.mk0 opc sub ty.code 3 with d := sF d, a := sF a, imm := v }

/-- D s, A s. -/
def eS2 (opc : BitVec 8) (sub : BitVec 4) (ty : Ty) (d a : SReg) : Fields :=
  { Fields.mk0 opc sub ty.code 2 with d := sF d, a := sF a }

/-- D v, A v, B v/imm under a mask. -/
def eV3 (opc : BitVec 8) (sub : BitVec 4) (p : Pred) (ty : Ty) (d a : VReg) : VSrc → Fields
  | .reg r => { (Fields.mk0 opc sub ty.code 0).withPred p with d := vF d, a := vF a, b := vF r }
  | .imm v => { (Fields.mk0 opc sub ty.code 1).withPred p with d := vF d, a := vF a, imm := v }

/-- D v, A v under a mask. -/
def eV2 (opc : BitVec 8) (sub : BitVec 4) (p : Pred) (ty : Ty) (d a : VReg) : Fields :=
  { (Fields.mk0 opc sub ty.code 0).withPred p with d := vF d, a := vF a }

/-- D v, A v, B v, C v under a mask. -/
def eV4 (opc : BitVec 8) (sub : BitVec 4) (p : Pred) (ty : Ty) (d a b c : VReg) : Fields :=
  { (Fields.mk0 opc sub ty.code 0).withPred p with d := vF d, a := vF a, b := vF b, c := vF c }

/-- D m, A v, B v/imm under a mask. -/
def eCmp (opc : BitVec 8) (rel : BitVec 3) (p : Pred) (ty : Ty) (d : MReg) (a : VReg) : VSrc → Fields
  | .reg r => { (Fields.mk0 opc (0#1 ++ rel) ty.code 0).withPred p with d := mF d, a := vF a, b := vF r }
  | .imm v => { (Fields.mk0 opc (0#1 ++ rel) ty.code 1).withPred p with d := mF d, a := vF a, imm := v }

/-- SHFL with a scalar or immediate count. -/
def eShfl (sub : BitVec 4) (p : Pred) (ty : Ty) (d a : VReg) : SSrc → Fields
  | .reg r => { (Fields.mk0 0x84 sub ty.code 0).withPred p with d := vF d, a := vF a, b := sF r }
  | .imm v => { (Fields.mk0 0x84 sub ty.code 1).withPred p with d := vF d, a := vF a, imm := v }

/-- The MEM extension (R241). -/
def memImm (space : BitVec 2) (h : Hint) (o : Ord) (s : Scope) (disp : BitVec 20) : BitVec 32 :=
  0#2 ++ space ++ (0#1 ++ h.code) ++ o.code ++ s.code ++ disp

/-- A MEM word with an address operand. -/
def eMem (opc : BitVec 8) (sub : BitVec 4) (p : Pred) (ty : BitVec 4) (d c : BitVec 10) (ad : Addr) (space : BitVec 2)
    (h : Hint) (o : Ord) (s : Scope) : Fields :=
  { (Fields.mk0 opc sub ty 4).withPred p with
      d := d, a := baseF ad.base, b := sF ad.index, c := c, imm := memImm space h o s ad.disp }

/-- An engine word. -/
def eEng (opc : BitVec 8) (sub : BitVec 4) (d a b : SReg) : Fields :=
  { Fields.mk0 opc sub 0 4 with d := sF d, a := sF a, b := sF b }

/-- No mask. -/
def noPred : Pred := ⟨0, false⟩

/-- The fields of an encoded instruction; the steps of the other agents have none (R236-R244). -/
def encodeFields : Instr → Option Fields
  | .sadd ty d a b => some (eS3 0x02 0 ty d a b)
  | .ssub ty d a b => some (eS3 0x03 0 ty d a b)
  | .smul ty d a b => some (eS3 0x04 0 ty d a b)
  | .smulh ty d a b => some (eS3 0x04 1 ty d a b)
  | .sdiv ty d a b => some (eS3 0x05 0 ty d a b)
  | .srem ty d a b => some (eS3 0x05 1 ty d a b)
  | .sand ty d a b => some (eS3 0x06 0 ty d a b)
  | .sor ty d a b => some (eS3 0x06 1 ty d a b)
  | .sxor ty d a b => some (eS3 0x06 2 ty d a b)
  | .sandn ty d a b => some (eS3 0x06 3 ty d a b)
  | .sshl ty d a b => some (eS3 0x07 0 ty d a b)
  | .sshr ty d a b => some (eS3 0x07 1 ty d a b)
  | .ssra ty d a b => some (eS3 0x07 2 ty d a b)
  | .srot ty d a b => some (eS3 0x07 3 ty d a b)
  | .smin ty d a b => some (eS3 0x08 0 ty d a b)
  | .smax ty d a b => some (eS3 0x08 1 ty d a b)
  | .nop => some (Fields.mk0 0x01 0 0 2)
  | .sclz ty d a => some (eS2 0x09 0 ty d a)
  | .spop ty d a => some (eS2 0x09 1 ty d a)
  | .sctz ty d a => some (eS2 0x09 2 ty d a)
  | .sbrev ty d a => some (eS2 0x09 3 ty d a)
  | .sext ty d a => some (eS2 0x0b 0 ty d a)
  | .smov d (.reg r) => some ({ Fields.mk0 0x0A 0 15 2 with d := sF d, a := sF r })
  | .smov d (.imm v) => some ({ Fields.mk0 0x0A 0 15 3 with d := sF d, imm := v })
  | .smovh d v => some ({ Fields.mk0 0x0A 1 15 3 with d := sF d, imm := v })
  | .sbfx ty d a pos l => some ({ eS2 0x0C 0 ty d a with imm := 0#20 ++ l ++ pos })
  | .sbfi d a pos l => some ({ eS2 0x0C 1 .b64 d a with imm := 0#20 ++ l ++ pos })
  | .slea d a b sh => some ({ eS2 0x0D 0 .b64 d a with b := sF b, imm := 0#29 ++ sh })
  | .scmp ty a (.reg r) => some ({ Fields.mk0 0x0E 0 ty.code 2 with a := sF a, b := sF r })
  | .scmp ty a (.imm v) => some ({ Fields.mk0 0x0E 0 ty.code 3 with a := sF a, imm := v })
  | .ssel d a b cond => some ({ eS2 0x0F 0 .b64 d a with b := sF b, imm := 0#28 ++ cond })
  | .srd d q b => some ({ Fields.mk0 0x10 0 15 2 with d := sF d, a := qF q, b := sF b })
  | .sflgGet d => some ({ Fields.mk0 0x11 0 0 2 with d := sF d })
  | .sflgSet a => some ({ Fields.mk0 0x11 1 0 2 with a := sF a })
  | .br v => some ({ Fields.mk0 0x20 0 0 6 with imm := v })
  | .bcc c v => some ({ Fields.mk0 0x21 c 0 6 with imm := v })
  | .bmz m v => some ({ Fields.mk0 0x22 0 0 6 with a := mF m, imm := v })
  | .bmnz m v => some ({ Fields.mk0 0x22 1 0 6 with a := mF m, imm := v })
  | .call sl v => some ({ Fields.mk0 0x23 0 0 6 with c := 0#2 ++ sl, imm := v })
  | .calli a sl => some ({ Fields.mk0 0x23 1 0 6 with a := sF a, c := 0#2 ++ sl })
  | .ret => some (Fields.mk0 0x24 0 0 6)
  | .exit => some (Fields.mk0 0x25 0 0 6)
  | .post a => some ({ Fields.mk0 0x26 0 0 6 with a := sF a })
  | .join d a => some ({ Fields.mk0 0x27 0 0 6 with d := sF d, a := sF a })
  | .yield => some (Fields.mk0 0x28 0 0 6)
  | .region => some (Fields.mk0 0x29 0 0 6)
  | .quota a b => some ({ Fields.mk0 0x2A 0 0 6 with a := sF a, b := sF b })
  | .trap c => some ({ Fields.mk0 0x30 0 0 7 with imm := 0#16 ++ c })
  | .rte => some (Fields.mk0 0x31 0 0 7)
  | .sysrd d a n => some ({ Fields.mk0 0x32 0 15 7 with d := sF d, a := sF a, imm := 0#16 ++ n })
  | .syswr a b n => some ({ Fields.mk0 0x33 0 15 7 with a := sF a, b := sF b, imm := 0#16 ++ n })
  | .rmack a => some ({ Fields.mk0 0x34 0 0 7 with a := sF a })
  | .pgpurge a b c => some ({ Fields.mk0 0x35 0 0 7 with a := sF a, b := sF b, c := sF c })
  | .pause n => some ({ Fields.mk0 0x36 0 0 7 with imm := 0#16 ++ n })
  | .park => some (Fields.mk0 0x37 0 0 7)
  | .vadd p ty d a b => some (eV3 0x40 0 p ty d a b)
  | .vsub p ty d a b => some (eV3 0x41 0 p ty d a b)
  | .vmul p ty d a b => some (eV3 0x42 0 p ty d a b)
  | .vmulh p ty d a b => some (eV3 0x42 1 p ty d a b)
  | .vand p ty d a b => some (eV3 0x44 0 p ty d a b)
  | .vor p ty d a b => some (eV3 0x44 1 p ty d a b)
  | .vxor p ty d a b => some (eV3 0x44 2 p ty d a b)
  | .vandn p ty d a b => some (eV3 0x44 3 p ty d a b)
  | .vshl p ty d a b => some (eV3 0x45 0 p ty d a b)
  | .vshr p ty d a b => some (eV3 0x45 1 p ty d a b)
  | .vsra p ty d a b => some (eV3 0x45 2 p ty d a b)
  | .vrot p ty d a b => some (eV3 0x45 3 p ty d a b)
  | .vmin p ty d a b => some (eV3 0x46 0 p ty d a b)
  | .vmax p ty d a b => some (eV3 0x46 1 p ty d a b)
  | .vadds p ty d a b => some (eV3 0x4d 0 p ty d a b)
  | .vsubs p ty d a b => some (eV3 0x4d 1 p ty d a b)
  | .fadd p ty d a b => some (eV3 0x60 0 p ty d a b)
  | .fsub p ty d a b => some (eV3 0x61 0 p ty d a b)
  | .fmul p ty d a b => some (eV3 0x62 0 p ty d a b)
  | .fmin p ty d a b => some (eV3 0x64 0 p ty d a b)
  | .fmax p ty d a b => some (eV3 0x64 1 p ty d a b)
  | .fminnum p ty d a b => some (eV3 0x64 2 p ty d a b)
  | .fmaxnum p ty d a b => some (eV3 0x64 3 p ty d a b)
  | .fscale p ty d a b => some (eV3 0x6b 0 p ty d a b)
  | .vmad p ty d a b c => some (eV4 0x43 0 p ty d a b c)
  | .fma p ty d a b c => some (eV4 0x63 0 p ty d a b c)
  | .fms p ty d a b c => some (eV4 0x63 1 p ty d a b c)
  | .fnma p ty d a b c => some (eV4 0x63 2 p ty d a b c)
  | .fnms p ty d a b c => some (eV4 0x63 3 p ty d a b c)
  | .vabs p ty d a => some (eV2 0x47 0 p ty d a)
  | .vneg p ty d a => some (eV2 0x47 1 p ty d a)
  | .vclz p ty d a => some (eV2 0x48 0 p ty d a)
  | .vpop p ty d a => some (eV2 0x48 1 p ty d a)
  | .vmov p ty d a => some (eV2 0x4b 0 p ty d a)
  | .fabs p ty d a => some (eV2 0x65 0 p ty d a)
  | .fneg p ty d a => some (eV2 0x65 1 p ty d a)
  | .fclass p ty d a => some (eV2 0x67 0 p ty d a)
  | .frcp p ty d a => some (eV2 0x69 0 p ty d a)
  | .frsq p ty d a => some (eV2 0x69 1 p ty d a)
  | .fsqrt p ty d a => some (eV2 0x69 2 p ty d a)
  | .fexp2 p ty d a => some (eV2 0x69 3 p ty d a)
  | .flog2 p ty d a => some (eV2 0x69 4 p ty d a)
  | .fsin p ty d a => some (eV2 0x69 5 p ty d a)
  | .fcos p ty d a => some (eV2 0x69 6 p ty d a)
  | .ftanh p ty d a => some (eV2 0x69 7 p ty d a)
  | .vsel p ty d a b c => some ({ eV2 0x49 0 p ty d a with b := vF b, c := mF c })
  | .vcmp p rel ty d a b => some (eCmp 0x4A rel p ty d a b)
  | .fcmp p rel ty d a b => some (eCmp 0x66 rel p ty d a b)
  | .vbcast p ty d a => some ({ (Fields.mk0 0x4B 1 ty.code 0).withPred p with d := vF d, a := sF a })
  | .vmovi p ty d v => some ({ (Fields.mk0 0x4B 2 ty.code 1).withPred p with d := vF d, imm := v })
  | .vlane p d => some ({ (Fields.mk0 0x4C 0 7 0).withPred p with d := vF d })
  | .fcopysign p ty d a b => some ({ eV2 0x65 2 p ty d a with b := vF b })
  | .frnd p ty d a mode => some ({ eV2 0x68 0 p ty d a with imm := 0#29 ++ mode })
  | .fdiv p ty d a b => some ({ eV2 0x6A 0 p ty d a with b := vF b })
  | .cvt p ty src d a => some ({ eV2 0x80 0 p ty d a with imm := 0#28 ++ src.code })
  | .cvtb p ty code d a => some ({ eV2 0x81 0 p ty d a with imm := 0#28 ++ code })
  | .pack p ty src d a b => some ({ eV2 0x82 0 p ty d a with b := vF b, imm := 0#28 ++ src.code })
  | .unpack p ty dst part d a => some ({ eV2 0x83 0 p ty d a with imm := 0#26 ++ part ++ dst.code })
  | .shflIdx p ty d a b => some ({ eV2 0x84 0 p ty d a with b := vF b })
  | .shflUp p ty d a b => some (eShfl 1 p ty d a b)
  | .shflDn p ty d a b => some (eShfl 2 p ty d a b)
  | .shflXor p ty d a b => some (eShfl 3 p ty d a b)
  | .voteAll p d a => some ({ (Fields.mk0 0x85 0 0 0).withPred p with d := mF d, a := mF a })
  | .voteAny p d a => some ({ (Fields.mk0 0x85 1 0 0).withPred p with d := mF d, a := mF a })
  | .voteEq p ty d a => some ({ (Fields.mk0 0x85 2 ty.code 0).withPred p with d := mF d, a := vF a })
  | .voteBallot p d a => some ({ (Fields.mk0 0x85 3 0 0).withPred p with d := sF d, a := mF a })
  | .reds p op ty d a => some ({ (Fields.mk0 0x86 op.code ty.code 0).withPred p with d := qF d, a := vF a })
  | .scan p op ty ex d a => some ({ eV2 0x87 op.code p ty d a with imm := 0#31 ++ BitVec.ofBool ex })
  | .mand p d a b => some ({ (Fields.mk0 0x88 0 0 0).withPred p with d := mF d, a := mF a, b := mF b })
  | .mor p d a b => some ({ (Fields.mk0 0x88 1 0 0).withPred p with d := mF d, a := mF a, b := mF b })
  | .mxor p d a b => some ({ (Fields.mk0 0x88 2 0 0).withPred p with d := mF d, a := mF a, b := mF b })
  | .mnot p d a => some ({ (Fields.mk0 0x88 3 0 0).withPred p with d := mF d, a := mF a })
  | .mmovMask p d a => some ({ (Fields.mk0 0x89 0 0 0).withPred p with d := mF d, a := mF a })
  | .mmovFromScalar p d a => some ({ (Fields.mk0 0x89 1 0 0).withPred p with d := mF d, a := sF a })
  | .mmovToScalar p d a => some ({ (Fields.mk0 0x89 2 0 0).withPred p with d := sF d, a := mF a })
  | .mcnt p d a => some ({ (Fields.mk0 0x8a 0 0 0).withPred p with d := sF d, a := mF a })
  | .mfirst p d a => some ({ (Fields.mk0 0x8a 1 0 0).withPred p with d := sF d, a := mF a })
  | .ld p ty d ad h sc => some (eMem 0xa0 0 p ty.code (vF d) 0 ad 0 h .relaxed sc)
  | .st p ty ad c h sc => some (eMem 0xa1 0 p ty.code 0 (vF c) ad 0 h .relaxed sc)
  | .lds ty d a b disp h sc => some (eMem 0xa2 0 noPred ty.code (sF d) 0 ⟨.s a, b, disp⟩ 0 h .relaxed sc)
  | .sts ty a b c disp h sc => some (eMem 0xa3 0 noPred ty.code 0 (sF c) ⟨.s a, b, disp⟩ 0 h .relaxed sc)
  | .ldl p ty d a disp => some (eMem 0xa4 0 p ty.code (vF d) 0 ⟨.s a, 0, disp⟩ 0 .none .relaxed .warp)
  | .stl p ty a disp c => some (eMem 0xa5 0 p ty.code 0 (vF c) ⟨.s a, 0, disp⟩ 0 .none .relaxed .warp)
  | .mld p ty d a b disp h sc => some (eMem 0xa6 0 p ty.code (taF d) 0 ⟨.s a, b, disp⟩ 0 h .relaxed sc)
  | .mst p ty a b disp c h sc => some (eMem 0xa7 0 p ty.code 0 (taF c) ⟨.s a, b, disp⟩ 0 h .relaxed sc)
  | .pld p ad h sc => some (eMem 0xa8 0 p 0 0 0 ad 0 h .relaxed sc)
  | .ldpd p ty d ad => some (eMem 0xa9 0 p ty.code (vF d) 0 ad 1 .none .relaxed .warp)
  | .stpd p ty ad c => some (eMem 0xaa 0 p ty.code 0 (vF c) ad 1 .none .relaxed .warp)
  | .xst p ty ad c => some (eMem 0xab 0 p ty.code 0 (vF c) ad 2 .none .relaxed .warp)
  | .mcst p ty d a b c => some (eMem 0xac 0 p ty.code (sF d) (vF c) ⟨.s a, b, 0⟩ 2 .none .relaxed .warp)
  | .gjoin d a => some (eMem 0xad 0 noPred 0 (sF d) 0 ⟨.s a, 0, 0⟩ 0 .none .relaxed .warp)
  | .gleave => some (eMem 0xad 1 noPred 0 0 0 ⟨.s 0, 0, 0⟩ 0 .none .relaxed .warp)
  | .gbar => some (eMem 0xae 0 noPred 0 0 0 ⟨.s 0, 0, 0⟩ 0 .none .relaxed .warp)
  | .atom p op ty pad d ad c o sc => some (eMem 0xaf op.code p ty.code (vF d) (vF c) ad (0#1 ++ BitVec.ofBool pad) .none o sc)
  | .red p op ty pad ad c o sc => some (eMem 0xb0 op.code p ty.code 0 (vF c) ad (0#1 ++ BitVec.ofBool pad) .none o sc)
  | .fence o sc => some (eMem 0xb1 0 noPred 0 0 0 ⟨.s 0, 0, 0⟩ 0 .none o sc)
  | .barSync d sc id => some (eMem 0xb2 0 noPred 0 (sF d) 0 ⟨.s 0, 0, 0#14 ++ id⟩ 0 .none .relaxed sc)
  | .barArrive d sc id => some (eMem 0xb2 1 noPred 0 (sF d) 0 ⟨.s 0, 0, 0#14 ++ id⟩ 0 .none .relaxed sc)
  | .barWait d sc id => some (eMem 0xb2 2 noPred 0 (sF d) 0 ⟨.s 0, 0, 0#14 ++ id⟩ 0 .none .relaxed sc)
  | .barExcuse d sc id => some (eMem 0xb2 3 noPred 0 (sF d) 0 ⟨.s 0, 0, 0#14 ++ id⟩ 0 .none .relaxed sc)
  | .clean a b sc => some (eMem 0xb3 0 noPred 0 0 0 ⟨.s a, b, 0⟩ 0 .none .relaxed sc)
  | .inval a b sc => some (eMem 0xb3 1 noPred 0 0 0 ⟨.s a, b, 0⟩ 0 .none .relaxed sc)
  | .flush a b sc => some (eMem 0xb3 2 noPred 0 0 0 ⟨.s a, b, 0⟩ 0 .none .relaxed sc)
  | .ldacq p ty d ad h sc => some (eMem 0xb4 0 p ty.code (vF d) 0 ad 0 h .relaxed sc)
  | .strel p ty ad c h sc => some (eMem 0xb5 0 p ty.code 0 (vF c) ad 0 h .relaxed sc)
  | .mma p x d a b c => some ({ (Fields.mk0 0xc0 0 0 5).withPred p with d := aF d, a := tF a, b := tF b, c := vF c, imm := 0#28 ++ x })
  | .mmb p x d a b c => some ({ (Fields.mk0 0xc1 0 0 5).withPred p with d := aF d, a := tF a, b := tF b, c := vF c, imm := 0#28 ++ x })
  | .mms p x mt d a b c => some ({ (Fields.mk0 0xc2 0 0 5).withPred p with d := aF d, a := tF a, b := tF b, c := vF c, imm := 0#20 ++ mt ++ x })
  | .spcmp p d a b c => some ({ (Fields.mk0 0xc3 0 0 5).withPred p with d := tF d, a := tF a, b := vF b, c := vF c })
  | .mtrn p d a => some ({ (Fields.mk0 0xc4 0 0 5).withPred p with d := tF d, a := tF a })
  | .mzero p d => some ({ (Fields.mk0 0xc5 0 0 5).withPred p with d := taF d })
  | .mcvt p d a c => some ({ (Fields.mk0 0xc6 0 0 5).withPred p with d := tF d, a := aF a, c := vF c })
  | .mscale p d a b => some ({ (Fields.mk0 0xc7 0 0 5).withPred p with d := aF d, a := aF a, b := vF b })
  | .xcp dim a => some (eEng 0xD0 dim.code 0 a 0)
  | .xcpTmpl a => some (eEng 0xD0 3 0 a 0)
  | .xbatch d => some (eEng 0xD1 0 d 0 0)
  | .xwait a => some (eEng 0xD2 0 0 a 0)
  | .rinit a b => some (eEng 0xD3 0 0 a b)
  | .rawait d a => some (eEng 0xD4 0 d a 0)
  | .rrel a b => some (eEng 0xD5 0 0 a b)
  | .rfill a b => some (eEng 0xD6 0 0 a b)
  | .mvs a => some (eEng 0xD7 0 0 a 0)
  | .cred d a => some (eEng 0xd8 0 d a 0)
  | .cmc d a => some (eEng 0xd9 0 d a 0)
  | .cag d a => some (eEng 0xda 0 d a 0)
  | .rlq d a => some (eEng 0xdb 0 d a 0)
  | _ => none

/-- The 96-bit word of an encoded instruction. -/
def encode (i : Instr) : Option (BitVec 96) := (encodeFields i).map Fields.toWord

/-- The constructor has an encoding. -/
def Instr.encoded (i : Instr) : Bool := (encodeFields i).isSome

end Sys2Proof
end

