-- ==== Sys2Proof/Machine/State.lean ====
section
/-!
DEFINITION. The state of the W36: every piece of state the spec names, as plain data.  INVENTORY.md lists each piece with its
rule and reset value.  Where the hardware holds a table with very many entries, the state lists the entries that are not
at their reset value, keyed by their number.
-/

namespace Sys2Proof.Machine

/-- Memory: rising addresses, no entry equal to the zero that an unlisted address reads as (log 1). -/
abbrev Memory := List Host.Cell

/-! ## Engine operations -/

/-- A range lock (R174): space, first and last line, write lock. -/
structure Lock where
  pad : Bool
  lo  : Nat
  hi  : Nat
  wr  : Bool
  deriving DecidableEq, Repr

/-- Copy descriptor (R351). -/
structure XDesc where
  src    : Word
  dst    : Word
  sstr1  : Word
  dstr1  : Word
  sstr2  : Word
  dstr2  : Word
  len    : Nat
  rows   : Nat
  planes : Nat
  spad   : Bool
  dpad   : Bool
  deriving DecidableEq, Repr

/-- MVS descriptor (R152) and its stack. -/
structure MDesc where
  wva  : Nat
  xva  : Nat
  yva  : Nat
  m    : Nat
  k    : Nat
  wstr : Nat
  wfmt : Nat
  xsrc : Bool
  ydst : Bool
  yfmt : Bool
  stack : Nat
  deriving DecidableEq, Repr

/-- Collective descriptor (R364) with the member that contributes. -/
structure CDesc where
  src   : Nat
  dst   : Nat
  len   : Nat
  count : Nat
  op    : Nat
  ty    : Nat
  whr   : Nat
  key   : Nat
  root  : Nat
  tmask : Word
  /-- the group of the issuing core or the job, and the member that contributes -/
  gid   : Nat
  member : Nat
  deriving DecidableEq, Repr

/-- What an engine operation does. -/
inductive OpDesc where
  | copy (x : XDesc)
  | mvs (m : MDesc)
  | cred (c : CDesc)
  | cmc (c : CDesc)
  | cag (c : CDesc)
  deriving DecidableEq, Repr

/-- An engine operation from its issue until its batch is released (R158, R174, R175). -/
structure EngOp where
  oid    : Nat
  desc   : OpDesc
  wid    : Nat
  core   : Nat
  part   : Nat
  ctx    : Nat
  asid   : BitVec 12
  launch : Nat
  user   : Bool
  prog   : Nat
  /-- status code of R350; 0 while it runs -/
  status : Nat
  /-- its locks are released; then its completion record is posted (R175) -/
  freed  : Bool
  posted : Bool
  batch  : Nat
  crec   : Nat
  jrec   : Nat
  locks  : List Lock
  /-- ring header place and claimed slot of a fill (R359) -/
  ring   : Option (Word × Nat)
  cmask  : Word
  /-- a fill by RFILL, as long as the slot that it claims (R360) -/
  fill   : Bool
  /-- completes at `.sys` (R175) -/
  sys    : Bool
  /-- started by a doorbell (R446) -/
  host   : Bool
  /-- held by a save of its context (R178) -/
  held   : Bool
  /-- a shoot-down asks it to stop (R35) -/
  stop   : Bool
  /-- bytes of the row of W in work that the stack engine has read (R154) -/
  row    : List Byte
  deriving DecidableEq, Repr

/-- What a waiting engine instruction keeps from its issue (R351, R352, R359-R361, R364): the operation as it was checked and, of one that waits at a
ring, its turn in the order of reaching the header's home and the header's place. -/
structure Hold where
  op   : Option EngOp
  turn : Nat
  head : Word
  deriving DecidableEq, Repr

/-! ## Warps -/

/-- States of a warp (R206).  `saved` is a warp whose context was saved and that holds no slot (R64). -/
inductive WState where
  | ready | running | parkedFault | parkedHarvest | kennel | suspended | killed | saved
  deriving DecidableEq, Repr

/-- A window line in the register cache or in the Kennel: line number in the window area, bytes, dirty (R52, R62). -/
structure WLine where
  idx   : Nat
  data  : LineData
  dirty : Bool
  deriving DecidableEq, Repr

/-- A warp's arrival state at one barrier level and id (R332). -/
structure BarSt where
  lvl   : Nat
  bid   : Nat
  phase : Nat
  open' : Bool
  exc   : Bool
  /-- kills of the launch already shown at a departure from this id -/
  seen  : Nat
  deriving DecidableEq, Repr

/-- A reorder-buffer entry: the PC of an issued instruction and whether it has completed (R201). -/
structure RobEntry where
  pc   : Word
  done : Bool
  deriving DecidableEq, Repr

/-- A fault record: the fields of R390. -/
structure FaultRec where
  cause : Nat
  wst   : Nat
  nxt   : Bool
  code  : Nat
  kind  : Nat
  ctx   : Nat
  asid  : BitVec 12
  pc    : Word
  va    : Word
  warp  : Word
  lanes : Word32
  seq   : Word32
  mapv  : Nat
  time  : Nat
  aux   : Word
  deriving DecidableEq, Repr

/-- A warp. -/
structure Warp where
  /-- identity of the warp in this model -/
  wid    : Nat
  /-- its state (R206), the state it returns to from the Kennel or a save, and the state it returns to from Suspended -/
  st     : WState
  back   : WState
  sback  : WState
  /-- partition, context, ASID -/
  part   : Nat
  ctx    : Nat
  asid   : BitVec 12
  /-- core, sub-core, slot (R275) -/
  core   : Nat
  sub    : Nat
  slot   : Nat
  /-- launch, posted, workgroup and warp index (R193, R194), record address of a posted warp -/
  launch : Nat
  posted : Bool
  wgid   : Nat
  widx   : Nat
  harvest : Bool
  /-- priority class 0-2 (R192) and record age (R192, R262) -/
  cls    : Nat
  age    : Nat
  /-- since when a ready instruction waits; promoted under R385 -/
  since  : Nat
  promo  : Bool
  /-- G16 and CHK of the header word (R196), trap vector and enables, progress class, declared levels, warps per workgroup -/
  g16    : Bool
  chk    : Bool
  tvec   : Word
  ten    : Word32
  prog   : Nat
  blv    : BitVec 4
  warps  : Nat
  /-- PC (R232) -/
  pc     : Word
  /-- s0-s63, m0-m15, q0-q3 (R58) -/
  sr     : Vector Word 64
  mr     : Vector Word32 16
  qr     : Vector (Word × BitVec 16) 4
  /-- flags (R58) -/
  z      : Bool
  n      : Bool
  c      : Bool
  v      : Bool
  /-- context image, window size, link depth, window base offset in lines (R48) -/
  img    : Nat
  imgIx  : Nat
  wres   : Nat
  depth  : Nat
  wbo    : Nat
  /-- view offsets and quota in lines (R48) -/
  vv     : Nat
  vt     : Nat
  va     : Nat
  ql     : Nat
  /-- the warp moved quota away and its lines beyond the new quota are evicted before others (R60) -/
  shed   : Bool
  /-- committed window lines in the register cache, most recently used first, and in the Kennel (R52, R63) -/
  lines  : List WLine
  kennel : List WLine
  /-- FMODE (R211) -/
  fmode  : Word32
  /-- TRP_PC, TRP_CAUSE, TRP_ADDR, TRP_LANES, trap level (R268) -/
  trpPc    : Word
  trpCause : Word
  trpAddr  : Word
  trpLanes : Word32
  tl       : Bool
  /-- region entry and restart count (R263, R398) -/
  regpc  : Word
  rcnt   : Nat
  /-- pending set, held batches with their operations, next batch number (R355) -/
  pend   : List Nat
  batches : List (Nat × List Nat)
  nbatch : Nat
  /-- standing KIND 0 record: its SEQ (0 none), its NEXT bit and cause, posted to the ring (R392) -/
  fseq   : Word32
  fnext  : Bool
  fcause : Nat
  /-- end of a PAUSE, waiting, part of a waiting instruction already done, reply of the gate -/
  pause  : Option Nat
  wait   : Bool
  mid    : Nat
  hold   : Option Hold
  reply  : Option (Nat × Nat)
  /-- barrier arrival states (R332) -/
  bars   : List BarSt
  /-- reorder buffer (R201) and the PC fetched next -/
  rob    : List RobEntry
  fpc    : Word
  deriving DecidableEq, Repr

/-! ## Cores -/

/-- A 64-byte line of an instruction cache (R230, R231). -/
structure ILine where
  part : Nat
  asid : BitVec 12
  ln   : Nat
  data : BitVec 512
  poi  : Bool
  deriving DecidableEq, Repr

/-- The leaf values a filled line keeps (R25). -/
structure Perm where
  rd  : Bool
  wr  : Bool
  ex  : Bool
  us  : Bool
  cls : Nat
  kd  : Nat
  deriving DecidableEq, Repr

/-- An L1 line (R92), with the leaf values and the physical address that it was filled or probed under (R25, R35). -/
structure L1Line where
  key   : LineKey
  data  : LineData
  valid : LineMask
  dirty : LineMask
  perm  : Perm
  pa    : Nat
  pin   : Bool
  poi   : Bool
  /-- the warp whose registers a line of the register aperture shows (R30) -/
  own   : Option Nat
  deriving DecidableEq, Repr

/-- A home-hint entry (R74). -/
structure HintEnt where
  key  : LineKey
  bank : Nat
  h    : Bool
  r    : Bool
  deriving DecidableEq, Repr

/-- The exchange state of a core (R117-R127): region size in bytes, phase parity, membership (group, index) with its workgroup, join
waiting, the core's copy of the membership, arrival at the group barrier, leaving, and a loss since the last release. -/
structure Exch where
  e       : Nat
  launch  : Nat
  wgid    : Nat
  ph      : Bool
  mem     : Option (Nat × Nat)
  join    : Option Nat
  copy    : List (Nat × Nat)
  arrived : Bool
  leaving : Bool
  lost    : Bool
  deriving DecidableEq, Repr

/-- A page of a scratchpad and the context it is granted to (R114, R116). -/
structure Grant where
  page   : Nat
  part   : Nat
  ctx    : Nat
  launch : Nat
  deriving DecidableEq, Repr

/-- A core. -/
structure Core where
  /-- instruction cache, most recently used first -/
  icache : List ILine
  /-- L1 lines, most recently used first (R92) -/
  l1     : List L1Line
  /-- home-hint cache, most recently used first (R74) -/
  hints  : List HintEnt
  /-- page grants, last holders, pages being returned by a revoked harvest context (R114, R200) -/
  grants : List Grant
  last   : List Grant
  ret    : List Grant
  /-- exchange state -/
  xch    : Exch
  /-- harvest contexts revoked and waiting for a grant, oldest first (R386) -/
  revoked : List (Nat × Nat)
  deriving DecidableEq, Repr

/-- An exchange or multicast store in flight (R118, R123). -/
structure XPkt where
  src   : Nat
  dst   : Nat
  ph    : Bool
  bytes : List (Nat × Byte)
  deriving DecidableEq, Repr

/-! ## The wafer-wide cache -/

/-- Roles of a bank line (R67). -/
inductive Role where
  | home | replica | victim
  deriving DecidableEq, Repr

/-- A line held in a bank (R67). -/
structure BLine where
  bank  : Nat
  way   : Nat
  key   : LineKey
  role  : Role
  age   : Nat
  pin   : Bool
  data  : LineData
  dirty : LineMask
  epoch : Nat
  perm  : Perm
  pa    : Nat
  poi   : Bool
  deriving DecidableEq, Repr

/-- States of a keystone directory entry (R72). -/
inductive DirSt where
  | home | replicated | migrating | pinned
  deriving DecidableEq, Repr

/-- A keystone directory entry (R72); an Invalid entry is not listed.  The list is in order of use, latest first. -/
structure DirEnt where
  anchor : Nat
  key    : LineKey
  st     : DirSt
  home   : Nat
  rmask  : List Nat
  vloc   : Nat
  vv     : Bool
  cpend  : Nat
  hist   : List Nat
  hcnt   : Nat
  cls    : Nat
  deriving DecidableEq, Repr

/-- An invalidation in flight to a bank (R82). -/
structure Inv where
  bank : Nat
  key  : LineKey
  deriving DecidableEq, Repr

/-- A count notice in flight to an anchor (R78). -/
structure Notice where
  key  : LineKey
  home : Nat
  ret  : Nat
  deriving DecidableEq, Repr

/-- A write held at the anchor of a migrating line (R77 event 3). -/
structure HeldWrite where
  core : Nat
  key  : LineKey
  mask : LineMask
  data : LineData
  deriving DecidableEq, Repr

/-- Bits set in a bank's second-touch filter (R91), and migration budget used in this window (R80). -/
structure BankWin where
  bank  : Nat
  bloom : List Nat
  used  : Nat
  deriving DecidableEq, Repr

/-- The wafer-wide cache. -/
structure Cache where
  lines   : List BLine
  dir     : List DirEnt
  invs    : List Inv
  acks    : List LineKey
  notices : List Notice
  held    : List HeldWrite
  win     : List BankWin
  deriving DecidableEq, Repr

/-! ## Memory gates -/

/-- A leaf entry of a gate translation cache (R21): level 0-2, page number at that level, the PTE. -/
structure GtcEnt where
  gate : Nat
  part : Nat
  asid : BitVec 12
  lvl  : Nat
  vpn  : Nat
  pte  : Word
  deriving DecidableEq, Repr

/-- A pointer entry of a walk cache: the level it was read at, the prefix of the VA, the next table (R21). -/
structure WcEnt where
  gate : Nat
  part : Nat
  asid : BitVec 12
  lvl  : Nat
  pfx  : Nat
  next : Nat
  deriving DecidableEq, Repr

/-- A walk in a slot or in the queue of a gate, with the warp that waits for it (R22). -/
structure Walk where
  gate : Nat
  key  : LineKey
  wid  : Nat
  deriving DecidableEq, Repr

/-- The memory gates. -/
structure Gates where
  gtc   : List GtcEnt
  wc    : List WcEnt
  slots : List Walk
  queue : List Walk
  deriving DecidableEq, Repr

/-! ## Stacks -/

/-- The tag of a DRAM line: key identity, version bit VB, key domain, poison (R141). -/
structure LineTag where
  line : Nat
  key  : Nat
  vb   : Bool
  kd   : Nat
  poi  : Bool
  deriving DecidableEq, Repr

/-- A command at a controller (R130, R132): a posted write or a read (`rd`).  One whose step waits for it stays here after its issue (`done`, at the
cc `at'`) until that step takes it.  `save` marks the commands of a context save and `held` those that stand on the request plane while the rate
changes (R150). -/
structure McCmd where
  stack : Nat
  addr  : Nat
  mask  : LineMask
  data  : LineData
  part  : Nat
  asid  : BitVec 12
  kd    : Nat
  poi   : Bool
  rd    : Bool
  done  : Bool
  save  : Bool
  held  : Bool
  at'   : Nat
  deriving DecidableEq, Repr

/-- The phase of a change of rate (R150): none, waiting for its drain, draining, training. -/
inductive RatePhase where
  | idle | pending | drain | training
  deriving DecidableEq, Repr

/-- A stack, its controller and its engine. -/
structure Stack where
  /-- MC_RATE (R149) -/
  cur    : Nat
  req    : Nat
  auto   : Bool
  busy   : Bool
  phase  : RatePhase
  target : Nat
  /-- SCRUB_CTL and the scrub position (R145) -/
  en     : Bool
  act    : Bool
  hours  : Nat
  pass   : Nat
  pos    : Nat
  /-- a pass has begun and not ended; the scrub had its line of this window (R137, R144) -/
  begun  : Bool
  scrubbed : Bool
  /-- ECC corrections of the last second as channel and time in ns (R149) -/
  corr   : List (Nat × Nat)
  /-- error log: entries by index, SCRUB_LOGP (R146) -/
  log    : List (Nat × BitVec 128)
  lost   : Nat
  rd     : Nat
  wr     : Nat
  /-- the rate code at the start of this window (R136, R151); MC_SHCNT, MC_SHECNT, usage of this window by entry (R136, R139) -/
  wcur   : Nat
  shcnt  : List (Nat × Nat)
  shecnt : List (Nat × Nat)
  used   : List (Nat × Nat)
  eused  : List (Nat × Nat)
  /-- operations queued at the stack engine (R154) -/
  queue  : List Nat
  deriving DecidableEq, Repr

/-! ## Collectives -/

/-- An open collective instance (R365); `gid` is the sharing group, or the job across wafers. -/
structure Coll where
  cid   : Nat
  part  : Nat
  whr   : Nat
  gid   : Nat
  key   : Nat
  len   : Nat
  op    : Nat
  ty    : Nat
  count : Nat
  root  : Nat
  cag   : Bool
  contribs : List (Nat × Nat × List Byte)
  bad   : Bool
  gone  : Bool
  deriving DecidableEq, Repr

/-! ## Groups and barriers -/

/-- A member of a sharing group: its index, its workgroup and the core that workgroup stands on (R120). -/
structure Member where
  ix   : Nat
  wg   : Nat
  core : Nat
  deriving DecidableEq, Repr

/-- A sharing group of a partition (R120): members, members whose GLEAVE has not retired, joining cores with the workgroup that joins, members
arrived, releases and revocations in flight. -/
structure Group where
  part    : Nat
  gid     : Nat
  asid    : BitVec 12
  launch  : Nat
  e       : Nat
  phase   : Nat
  members : List Member
  leaving : List Member
  joiners : List (Nat × Nat)
  arr     : List Nat
  rels    : List (Nat × Bool)
  revs    : List (Nat × Nat)
  deriving DecidableEq, Repr

/-- A barrier id of a level in one extent (R331, R332): arrivals of the open instance and excused warps as
256 * workgroup + index, releases so far (phase, XCORE, XWARP), kills of the launch already shown. -/
structure Bar where
  part   : Nat
  launch : Nat
  lvl    : Nat
  ext    : Nat
  bid    : Nat
  phase  : Nat
  arr    : List Nat
  exc    : List Nat
  rels   : List (Nat × Bool × Bool)
  seen   : Nat
  deriving DecidableEq, Repr

/-- An arrival or excusing on its way to a barrier tree (R332). -/
structure BarMsg where
  part   : Nat
  launch : Nat
  lvl    : Nat
  ext    : Nat
  bid    : Nat
  who    : Nat
  exc    : Bool
  deriving DecidableEq, Repr

/-! ## Launches and contexts -/

/-- Where a ready record comes from (R190): a launch's warp, or a posted record with its fields. -/
inductive RSrc where
  | launch (wgid widx : Nat)
  | posted (addr code frame arg : Nat)
  deriving DecidableEq, Repr

/-- A record in a ready queue (R192). -/
structure Ready where
  core   : Nat
  cls    : Nat
  stamp  : Nat
  part   : Nat
  ctx    : Nat
  launch : Nat
  src    : RSrc
  deriving DecidableEq, Repr

/-- Where a launch stands. -/
inductive LSt where
  | waitDep | waitRes | running
  deriving DecidableEq, Repr

/-- An accepted launch (R375-R384). -/
structure Launch where
  uid    : Nat
  lid    : Word
  part   : Nat
  ctx    : Nat
  asid   : BitVec 12
  queue  : Nat
  lrec   : LineData
  desc   : BitVec 512
  st     : LSt
  depc   : Nat
  /-- placement set in row-major order (R381) -/
  place  : List Nat
  /-- images in use, workgroup * 256 + index of exited or killed warps, warps not yet exited -/
  imgs   : List Nat
  gone   : List Nat
  left   : Nat
  /-- outstanding posted records with the core that runs each (R190) -/
  outst  : List (Nat × Nat)
  /-- kills so far: workgroup * 256 + index, and killed by the retirement of its core (R333) -/
  kills  : List (Nat × Bool)
  cin    : List (Nat × Nat)
  cout   : List (Nat × Nat)
  edges  : List Word
  failed : Bool
  started : Bool
  /-- launch-created warps whose records have reached a ready queue (R192) -/
  fed    : Nat
  /-- accepted with predecessors while its partition drained or was quiesced (R383, R408) -/
  late   : Bool
  /-- cores that were retired while the launch occupied them (R403) -/
  excused : List Nat
  deriving DecidableEq, Repr

/-- A saved core slot of a context (R395): its pages with their launches, its exchange state, the bytes of the pages by offset, and the lines
that the device wrote into the save area, by address. -/
structure SaveSlot where
  core  : Nat
  pages : List (Nat × Nat)
  xch   : Exch
  pad   : Memory
  lines : List (Nat × LineData)
  deriving DecidableEq, Repr

/-- A context of a partition (R390-R395, R405). -/
structure Ctx where
  en     : Bool
  fail   : Bool
  susp   : Bool
  bad    : Bool
  asid   : BitVec 12
  fqb    : Word
  lost   : Nat
  head   : Nat
  tail   : Nat
  seq    : Word32
  /-- records formed and not yet written (R391) -/
  waiting : List FaultRec
  save   : Word
  maprec : Word
  ackv   : Nat
  /-- the oldest unacknowledged rise: cycle count (R405) -/
  owes   : Option Nat
  mapSusp : Bool
  /-- a POST of CTX_MAPREC under a launch that waits for room in a ready queue (R192, R405) -/
  posting : Option Nat
  saved  : Bool
  /-- cycle count of the save -/
  savedAt : Nat
  slots  : List SaveSlot
  /-- a map event came while it was saved (R389) -/
  missed : Bool
  deriving DecidableEq, Repr

/-! ## Partitions -/

/-- States of a partition (R408). -/
inductive QSt where
  | running | draining | quiesced | reshaping
  deriving DecidableEq, Repr

/-- A partition, numbered by its lowest quarter. -/
structure Part where
  formed  : Bool
  quarters : List Nat
  version : Nat
  mapTime : Nat
  lastKind : Nat
  lastObj : Nat
  /-- bank map (R69, R70): banks dead when it was built, and buckets moved since -/
  mapDead : List Nat
  moves   : List (Nat × Nat)
  westFirst : Bool
  /-- GATE_ASTB, IVL in force and staged (R27, R28) -/
  astb    : Word
  count   : Nat
  split   : Nat
  ivlBad  : Bool
  ivl     : List Nat
  staged  : List Nat
  /-- WCC_MIG, WCC_RCT (R80, R88) -/
  mig     : Word32
  rct     : Vector Word32 16
  /-- MC_SHCTL, MC_SHARE (R134), values in force and values waiting with the window they start at (R135) -/
  mincap  : Nat
  shBad   : Bool
  share   : Vector Word32 64
  shInf   : Vector Word32 64
  shWait  : List (Nat × Nat × Word32)
  bind    : List (BitVec 12 × Nat)
  /-- KD_CTL (R142) and the identities of the keys in force -/
  kver    : Vector (BitVec 16) 16
  ebad    : List Nat
  keys    : Vector Nat 16
  /-- slice registers, values accepted and not yet in force, slice index (R387, R388) -/
  slc     : Word32
  slcBad  : Bool
  epoch   : Word
  gang    : Vector Word 8
  slcW    : Word32
  epochW  : Word
  gangW   : Vector Word 8
  slice   : Nat
  /-- PART_QCTL (R408) -/
  req     : Bool
  qbad    : Bool
  qst     : QSt
  ctxs    : Vector Ctx 64
  /-- system epochs of ASIDs (R95) and completions of acquires in the last sweep -/
  epochs  : List (BitVec 12 × Nat)
  /-- ASIDs into which the dispatcher mapped the resource map page, with the leaf that software's tables held there then (R11) -/
  maps    : List (BitVec 12 × Option Word)
  acqs    : List (BitVec 12 × Nat)
  /-- held decrements of DEPC and held cancellations by LID (R384); the cycle count from which a record may be accepted (R374) -/
  heldDec : List Word
  heldCan : List Word
  accFrom : Nat
  /-- records that had arrived by this cycle count were held by a commit (R433) -/
  heldTo  : Nat
  /-- packets refused at a closed seam, logged as uncorrectable network errors of this partition (R105) -/
  netErr  : Nat
  deriving DecidableEq, Repr

/-- A host work queue (R371). -/
structure WorkQ where
  base : Word
  en   : Bool
  /-- the last write was refused -/
  bad  : Bool
  /-- the queue was disabled for an overrun and has not been enabled since -/
  lapped : Bool
  asid : BitVec 12
  log2n : Nat
  tail : Nat
  head : Nat
  /-- arrivals in order: the cycle count, and the record of a launch packet (R373) -/
  arr  : List (Nat × Option LineData)
  deriving DecidableEq, Repr

/-- An engine channel (R445). -/
structure Chan where
  en   : Bool
  asid : BitVec 12
  core : Nat
  drop : Nat
  /-- doorbells waiting in order (R446), and the copy of the first when it was issued and waits -/
  bells : List Nat
  hold  : Option EngOp
  deriving DecidableEq, Repr

/-- A fabric port (R447). -/
structure Port where
  st    : Nat
  len   : Bool
  slv   : Bool
  fen   : Bool
  peer  : Nat
  pany  : Bool
  qbase : Nat
  drops : Nat
  qcnt  : Nat
  /-- cycle counts of failed trainings (R448) -/
  fails : List Nat
  deriving DecidableEq, Repr

/-- The wafer's resources and the partition controller's wafer registers (R403, R407, R409). -/
structure Wafer where
  shape    : BitVec 8
  shBad    : Bool
  why      : Nat
  busy     : Bool
  newShape : Option (BitVec 8)
  nbnd     : BitVec 4
  nbndBad  : Bool
  seams    : BitVec 4
  qown     : Vector Word 4
  deadCores : List Nat
  deadBanks : List Nat
  deadLinkE : List Nat
  deadLinkN : List Nat
  /-- routers of cores that were cut off, which forward nothing (R104) -/
  mute     : List Nat
  deriving DecidableEq, Repr

/-- The platform: host port device registers, boot, power, time (R444-R455). -/
structure Plat where
  on     : Bool
  cc     : Nat
  stage  : Nat
  auth   : BitVec 4
  clk    : Nat
  pcur   : Nat
  cbad   : Bool
  /-- throttled, and beyond the harvest warps (R455) -/
  thr    : Bool
  thr2   : Bool
  draw   : Nat
  boot   : Memory
  rollback : Nat
  fwVer  : Nat
  fwHash : BitVec 256
  /-- attestation: nonce, PNUM, request and done code, whether the request came before Ready, report (R453) -/
  nonce  : BitVec 256
  pnum   : Word32
  code   : Word32
  early  : Bool
  report : List Byte
  /-- time base: ns at a cycle count, the frequency that it holds (none: the wafer's own oscillator), offset still to slew, recent offsets,
  slave port (R450) -/
  tns    : Nat
  tcc    : Nat
  freq   : Option Nat
  slew   : Int
  offs   : List Int
  slave  : Option Nat
  shut   : Bool
  deriving DecidableEq, Repr

/-! ## The machine -/

/-- The state of the machine.  `cur`, `agenda`, `free`, `fresh`, `stall` and `hostRd` are the model's own fields (log 5): the warp
that executes, the inputs and steps of other agents to take next, a counter for free values, a counter for identities,
and what the last host read returned.  `stall` is the read command that a step in progress has to wait for; between steps there is none.
`ecc` lists the DRAM lines that hold bit errors, with whether ECC corrects them (R141). -/
structure State where
  plat   : Plat
  wafer  : Wafer
  parts  : Vector Part 4
  cores  : List (Nat × Core)
  warps  : List Warp
  cache  : Cache
  gates  : Gates
  hbm    : List (Nat × Stack)
  dram   : Memory
  tags   : List LineTag
  ecc    : List (Nat × Bool)
  mcq    : List McCmd
  stall  : Option McCmd
  host   : Memory
  pads   : Memory
  ops    : List EngOp
  copyq  : List (Nat × Nat)
  colls  : List Coll
  groups : List Group
  pkts   : List XPkt
  bars   : List Bar
  barq   : List BarMsg
  ready  : List Ready
  launches : List Launch
  queues : List (Nat × WorkQ)
  chans  : List (Nat × Chan)
  ports  : List (Nat × Port)
  stats  : List ((Nat × Nat × Nat × Nat) × (Nat × Nat × Nat))
  cur    : Option Nat
  agenda : List Instr
  free   : Nat
  fresh  : Nat
  hostRd : Option (LineData × Nat)
  deriving DecidableEq, Repr

/-! ## Outcomes that stop -/

/-- Faults.  All of them are stops of the model's own, raised where the machine has no such step: safe. -/
inductive Fault where
  /-- An encoded instruction was given to `exec` while no warp executes: no step of the machine is that. Safe. -/
  | noWarp
  /-- A step of another agent was given to `exec` in a state in which the spec says it does not occur (the object does not exist,
  or the event's condition does not hold). Safe. -/
  | notEnabled
  /-- The module has no power (R454, R455); only POWER_ON is a step of it. Safe. -/
  | powerOff
  deriving DecidableEq, Repr

/-- Refusals. -/
inductive Refusal where
  /-- The model gives the instruction no meaning yet; raised only by the arms of `exec`. Safe. -/
  | notModelled (mnemonic : String)
  deriving DecidableEq, Repr

/-! ## Reset -/

/-- No exchange region (R117). -/
def Exch.none : Exch :=
  { e := 0, launch := 0, wgid := 0, ph := false, mem := .none, join := .none, copy := [], arrived := false,
    leaving := false, lost := false }

/-- A core after power-on. -/
def Core.init : Core :=
  { icache := [], l1 := [], hints := [], grants := [], last := [], ret := [], xch := Exch.none, revoked := [] }

/-- A stack after power-on (R145, R146, R149). -/
def Stack.init : Stack :=
  { cur := 0, req := 0, auto := true, busy := false, phase := .idle, target := 0, en := true, act := false, hours := 8, pass := 0,
    pos := 0, begun := false, scrubbed := false, corr := [], wcur := 0, log := [], lost := 0, rd := 0, wr := 0, shcnt := [], shecnt := [], used := [], eused := [],
    queue := [] }

/-- A context that is not resident (R391, R393). -/
def Ctx.init : Ctx :=
  { en := false, fail := false, susp := false, bad := false, asid := 0, fqb := 0, lost := 0, head := 0, tail := 0, seq := 1,
    waiting := [], save := 0, maprec := 0, ackv := 0, owes := none, mapSusp := false, posting := none, saved := false, savedAt := 0, slots := [], missed := false }

/-- A partition before it is formed, every register at its reset value. -/
def Part.init (p : Nat) : Part :=
  { formed := false, quarters := [p], version := 0, mapTime := 0, lastKind := 0, lastObj := 0, mapDead := [], moves := [],
    westFirst := false, astb := 0, count := 0, split := 0, ivlBad := false, ivl := [], staged := [],
    mig := 0x80000020, rct := Vector.replicate 16 0x0001FFFF, mincap := 230, shBad := false,
    share := Vector.replicate 64 0, shInf := Vector.replicate 64 0, shWait := [], bind := [],
    kver := Vector.replicate 16 0, ebad := [], keys := Vector.ofFn (fun k => 16 * p + k.val),
    slc := 100, slcBad := false, epoch := 0, gang := Vector.replicate 8 0, slcW := 100, epochW := 0,
    gangW := Vector.replicate 8 0, slice := 0, req := false, qbad := false, qst := .running,
    ctxs := Vector.replicate 64 Ctx.init, epochs := [], maps := [], acqs := [], heldDec := [], heldCan := [], accFrom := 0, heldTo := 0, netErr := 0 }

/-- A work queue after power-on (R371). -/
def WorkQ.init : WorkQ :=
  { base := 0, en := false, bad := false, lapped := false, asid := 0, log2n := 0, tail := 0, head := 0, arr := [] }

/-- An engine channel after power-on (R445). -/
def Chan.init : Chan := { en := false, asid := 0, core := 0, drop := 0, bells := [], hold := none }

/-- A fabric port after power-on (R447). -/
def Port.init : Port :=
  { st := 0, len := false, slv := false, fen := false, peer := 0, pany := true, qbase := 0, drops := 0, qcnt := 0, fails := [] }

/-- The wafer's registers after power-on (R407, R409); the live sets are known only after stage 0x03 (log 4). -/
def Wafer.init : Wafer :=
  { shape := 0xE4, shBad := false, why := 0, busy := false, newShape := none, nbnd := 0, nbndBad := false, seams := 0,
    qown := #v[0xFFFF, 0xFFFF0000, 0xFFFF00000000, 0xFFFF000000000000],
    deadCores := [], deadBanks := [], deadLinkE := [], deadLinkN := [], mute := [] }

/-- The platform at power-on: stage 0x01, cycle count and time 0 (R107, R450, R451). -/
def Plat.init : Plat :=
  { on := true, cc := 0, stage := 0x01, auth := 0, clk := 0, pcur := 0, cbad := false, thr := false, thr2 := false, draw := 0, boot := [],
    rollback := 0, fwVer := 0, fwHash := 0, nonce := 0, pnum := 0, code := 0, early := false, report := [], tns := 0, tcc := 0, freq := none, slew := 0,
    offs := [], slave := none, shut := false }

/-- An empty wafer-wide cache. -/
def Cache.init : Cache := { lines := [], dir := [], invs := [], acks := [], notices := [], held := [], win := [] }

/-- Empty gates. -/
def Gates.init : Gates := { gtc := [], wc := [], slots := [], queue := [] }

/-- The machine at power-on, before any bring-up stage has ended (R451). -/
def State.reset : State :=
  { plat := Plat.init, wafer := Wafer.init, parts := #v[Part.init 0, Part.init 1, Part.init 2, Part.init 3],
    cores := [], warps := [], cache := Cache.init, gates := Gates.init, hbm := [], dram := [], tags := [], ecc := [], mcq := [], stall := none,
    host := [], pads := [], ops := [], copyq := [], colls := [], groups := [], pkts := [], bars := [], barq := [], ready := [],
    launches := [], queues := [], chans := [], ports := [], stats := [], cur := none, agenda := [], free := 0, fresh := 64,
    hostRd := none }

/-- The values a warp starts with (R194, R268, R355), before its place, program and image are set. -/
def Warp.init : Warp :=
  { wid := 0, st := .ready, back := .running, sback := .running, part := 0, ctx := 0, asid := 0, core := 0, sub := 0, slot := 0, launch := 0,
    posted := false, wgid := 0, widx := 0, harvest := false, cls := 1, age := 0, since := 0, promo := false, g16 := false,
    chk := false, tvec := 0, ten := 0, prog := 0, blv := 0, warps := 1, pc := 0, sr := Vector.replicate 64 0,
    mr := (Vector.replicate 16 0).set 0 0xFFFFFFFF, qr := Vector.replicate 4 (0, 0), z := false, n := false, c := false,
    v := false, img := 0, imgIx := 0, wres := 0, depth := 0, wbo := 0, vv := 0, vt := 0, va := 0, ql := 32, shed := false, lines := [],
    kennel := [], fmode := 0, trpPc := 0, trpCause := 0, trpAddr := 0, trpLanes := 0, tl := false, regpc := 0, rcnt := 0,
    pend := [], batches := [], nbatch := 1, fseq := 0, fnext := false, fcause := 0, pause := none, wait := false, mid := 0,
    hold := none, reply := none, bars := [], rob := [], fpc := 0 }

end Sys2Proof.Machine
end

