-- ==== Sys2Proof/Machine/Basic.lean ====
section
/-!
DEFINITION. Accessors of the state, memories of bytes, time, the program counter, fault records and what a kill or the failure
of a context does: everything that needs no memory access.
-/

namespace Sys2Proof.Machine

/-! ## Memories -/

/-- The byte at an address; an unlisted address reads zero (log 1). -/
def Memory.get : Memory → Nat → Byte
  | [], _ => 0
  | (a, b) :: m, k => if k < a then 0 else if k = a then b else Memory.get m k

/-- Sets the byte at an address, keeping the canonical form. -/
def Memory.set : Memory → Nat → Byte → Memory
  | [], k, v => if v = 0 then [] else [(k, v)]
  | (a, b) :: m, k, v =>
    if k < a then (if v = 0 then (a, b) :: m else (k, v) :: (a, b) :: m)
    else if k = a then (if v = 0 then m else (k, v) :: m)
    else (a, b) :: Memory.set m k v

/-- Addresses strictly rising from a bound, no zero entry. -/
def Memory.wfFrom : Nat → Memory → Bool
  | _, [] => true
  | n, (a, b) :: m => decide (n ≤ a) && b != 0 && Memory.wfFrom (a + 1) m

/-- The canonical form. -/
def Memory.wf (m : Memory) : Bool := Memory.wfFrom 0 m

/-- `n` bytes from an address. -/
def Memory.getN (m : Memory) (a : Nat) : Nat → List Byte
  | 0 => []
  | n + 1 => Memory.get m a :: Memory.getN m (a + 1) n

/-- Writes bytes from an address on. -/
def Memory.setL (m : Memory) (a : Nat) : List Byte → Memory
  | [] => m
  | b :: bs => Memory.setL (Memory.set m a b) (a + 1) bs

/-- Little-endian number of bytes (R49, R208). -/
def leNat : List Byte → Nat
  | [] => 0
  | b :: bs => b.toNat + 256 * leNat bs

/-- The low `n` bytes of a number, little-endian. -/
def toBytes (v : Nat) : Nat → List Byte
  | 0 => []
  | n + 1 => BitVec.ofNat 8 v :: toBytes (v / 256) n

/-- Byte `k` of a line. -/
def LineData.byte (d : LineData) (k : Nat) : Byte := d.extractLsb' (8 * k) 8

/-- A line with the bits of a byte mask taken from `new`. -/
def maskBits (m : LineMask) : LineData :=
  (List.range 128).foldl (fun acc k => if m.getLsbD k then acc ||| (0xFF#1024 <<< (8 * k)) else acc) 0

/-- The bytes of `new` where the mask is set, else those of `old`. -/
def mergeLine (m : LineMask) (old new : LineData) : LineData :=
  if m = BitVec.allOnes 128 then new
  else
    let b := maskBits m
    (new &&& b) ||| (old &&& ~~~b)

/-- The mask of `n` bytes from byte `k` of a line. -/
def spanMask (k n : Nat) : LineMask := (BitVec.ofNat 128 (2 ^ n - 1)) <<< k

/-- The line at an aligned address of a memory. -/
def Memory.line (m : Memory) (a : Nat) : LineData := BitVec.ofNat 1024 (leNat (m.getN a 128))

/-- Merges a line into a memory by its byte mask. -/
def Memory.setLine (m : Memory) (a : Nat) (mask : LineMask) (d : LineData) : Memory :=
  (List.range 128).foldl (fun acc k => if mask.getLsbD k then Memory.set acc (a + k) (LineData.byte d k) else acc) m

/-! ## Tables keyed by number -/

/-- Entry `k` of a table whose unlisted entries are at their reset value. -/
def tget {α : Type} (t : List (Nat × α)) (k : Nat) (dflt : α) : α :=
  match t.find? (fun e => e.1 == k) with
  | some e => e.2
  | none => dflt

/-- Sets entry `k`. -/
def tset {α : Type} (t : List (Nat × α)) (k : Nat) (v : α) : List (Nat × α) :=
  (k, v) :: t.filter (fun e => !(e.1 == k))

/-- The core numbered 36 * y + x. -/
def State.core (s : State) (k : Nat) : Core := tget s.cores k Core.init
/-- Changes a core. -/
def State.updCore (s : State) (k : Nat) (f : Core → Core) : State := { s with cores := tset s.cores k (f (s.core k)) }
/-- A stack. -/
def State.stack (s : State) (k : Nat) : Stack := tget s.hbm k Stack.init
/-- Changes a stack. -/
def State.updStack (s : State) (k : Nat) (f : Stack → Stack) : State := { s with hbm := tset s.hbm k (f (s.stack k)) }
/-- The partition with a number. -/
def State.part (s : State) (p : Nat) : Part := (s.parts[p]?).getD (Part.init 0)
/-- Changes a partition. -/
def State.updPart (s : State) (p : Nat) (f : Part → Part) : State :=
  { s with parts := s.parts.setIfInBounds p (f (s.part p)) }
/-- A context of a partition. -/
def State.ctx (s : State) (p c : Nat) : Ctx := ((s.part p).ctxs[c]?).getD Ctx.init
/-- Changes a context. -/
def State.updCtx (s : State) (p c : Nat) (f : Ctx → Ctx) : State :=
  s.updPart p (fun q => { q with ctxs := q.ctxs.setIfInBounds c (f (s.ctx p c)) })
/-- A work queue. -/
def State.queue (s : State) (q : Nat) : WorkQ := tget s.queues q WorkQ.init
/-- Changes a work queue. -/
def State.updQueue (s : State) (q : Nat) (f : WorkQ → WorkQ) : State := { s with queues := tset s.queues q (f (s.queue q)) }
/-- A channel. -/
def State.chan (s : State) (c : Nat) : Chan := tget s.chans c Chan.init
/-- Changes a channel. -/
def State.updChan (s : State) (c : Nat) (f : Chan → Chan) : State := { s with chans := tset s.chans c (f (s.chan c)) }
/-- A fabric port. -/
def State.port (s : State) (p : Nat) : Port := tget s.ports p Port.init
/-- Changes a port. -/
def State.updPort (s : State) (p : Nat) (f : Port → Port) : State := { s with ports := tset s.ports p (f (s.port p)) }

/-- The warp with an identity. -/
def State.warp? (s : State) (wid : Nat) : Option Warp := s.warps.find? (fun w => w.wid == wid)
/-- The warp that executes. -/
def State.curWarp (s : State) : Option Warp := s.cur.bind s.warp?
/-- Replaces the warp of the same identity. -/
def State.setWarp (s : State) (w : Warp) : State :=
  { s with warps := s.warps.map (fun x => if x.wid == w.wid then w else x) }
/-- Removes a warp. -/
def State.dropWarp (s : State) (wid : Nat) : State := { s with warps := s.warps.filter (fun w => !(w.wid == wid)) }
/-- Changes every warp that meets a condition. -/
def State.updWarps (s : State) (p : Warp → Bool) (f : Warp → Warp) : State :=
  { s with warps := s.warps.map (fun w => if p w then f w else w) }

/-- The launch with an identity. -/
def State.launch? (s : State) (uid : Nat) : Option Launch := s.launches.find? (fun l => l.uid == uid)
/-- Changes a launch. -/
def State.updLaunch (s : State) (uid : Nat) (f : Launch → Launch) : State :=
  { s with launches := s.launches.map (fun l => if l.uid == uid then f l else l) }
/-- The engine operation with an identity. -/
def State.op? (s : State) (oid : Nat) : Option EngOp := s.ops.find? (fun o => o.oid == oid)
/-- Changes an engine operation. -/
def State.updOp (s : State) (oid : Nat) (f : EngOp → EngOp) : State :=
  { s with ops := s.ops.map (fun o => if o.oid == oid then f o else o) }
/-- A sharing group of a partition. -/
def State.group? (s : State) (p gid : Nat) : Option Group := s.groups.find? (fun g => g.part == p && g.gid == gid)
/-- Changes a sharing group. -/
def State.updGroup (s : State) (p gid : Nat) (f : Group → Group) : State :=
  { s with groups := s.groups.map (fun g => if g.part == p && g.gid == gid then f g else g) }

/-! ## Wafer geometry (R1, R34, R66) -/

/-- Column of a core. -/
def coreX (c : Nat) : Nat := c % 36
/-- Row of a core. -/
def coreY (c : Nat) : Nat := c / 36
/-- Core at a column and row. -/
def coreAt (x y : Nat) : Nat := 36 * y + x
/-- Reticle of a core (R1). -/
def coreRet (c : Nat) : Nat := 6 * (coreY c / 6) + coreX c / 6
/-- Quad of a core (R1). -/
def coreQuad (c : Nat) : Nat := 18 * (coreY c / 2) + coreX c / 2
/-- Quarter of a reticle (R1). -/
def retQuarter (r : Nat) : Nat := (if r % 6 < 3 then 0 else 1) + (if r / 6 < 3 then 0 else 2)
/-- Reticle of a bank (R66). -/
def bankRet (b : Nat) : Nat := b / 96
/-- Core at whose router a bank stands (R66). -/
def bankCore (b : Nat) : Nat :=
  let r := bankRet b
  let l := (b % 96) % 36
  coreAt (6 * (r % 6) + l % 6) (6 * (r / 6) + l / 6)
/-- Quarter that owns a stack (R34): segments 0-2 and 21-23 are Q0's. -/
def stackQuarter (k : Nat) : Nat := if k < 6 then 0 else if k < 18 then 1 else if k < 30 then 3 else if k < 42 then 2 else 0
/-- Mesh hops between two cores. -/
def hops (a b : Nat) : Nat :=
  ((coreX a - coreX b) + (coreX b - coreX a)) + ((coreY a - coreY b) + (coreY b - coreY a))

/-- The partition that holds a quarter, by PART_SHAPE (R407). -/
def State.partOfQ (s : State) (q : Nat) : Nat := (s.wafer.shape.extractLsb' (2 * q) 2).toNat
/-- The partition that a core lies in. -/
def State.partOfCore (s : State) (c : Nat) : Nat := s.partOfQ (retQuarter (coreRet c))
/-- The partition that owns a stack. -/
def State.partOfStack (s : State) (k : Nat) : Nat := s.partOfQ (stackQuarter k)
/-- A core is live (R403). -/
def State.coreLive (s : State) (c : Nat) : Bool := decide (c < 1296) && !s.wafer.deadCores.contains c
/-- A bank is live (R403). -/
def State.bankLive (s : State) (b : Nat) : Bool := decide (b < 3456) && !s.wafer.deadBanks.contains b
/-- Reticles of a partition, ascending. -/
def Part.reticles (p : Part) : List Nat := (List.range 36).filter (fun r => p.quarters.contains (retQuarter r))
/-- Live cores of a partition in ascending order. -/
def State.liveCores (s : State) (p : Nat) : List Nat :=
  (List.range 1296).filter (fun c => s.partOfCore c == p && s.coreLive c)

/-! ## Time (R107, R450) -/

/-- Nanoseconds that a number of ticks counts for: 5 for every 7 under the wafer's own oscillator; once a port has been slave, the frequency that its
master gave last, a free value (log 6). -/
def Plat.nsOf (k : Plat) (ticks : Nat) : Nat :=
  match k.freq with
  | none => ticks * 5 / 7
  | some i => ticks * Config.ptpRate i / 2 ^ 32

/-- IEEE 1588 time in ns: what the frequency held gives from the last correction, and the offset still to slew at up to 200 ppm (log 6). -/
def State.timeNs (s : State) : Nat :=
  let d := s.plat.nsOf (s.plat.cc - s.plat.tcc)
  let m := d * 200 / 1000000
  match s.plat.slew with
  | .ofNat k => s.plat.tns + d + min k m
  | .negSucc k => s.plat.tns + d - min (k + 1) m

/-! ## The program counter (R232, R233) -/

/-- LINE of a PC. -/
def pcLine (pc : Word) : BitVec 50 := pc.extractLsb' 6 50
/-- SLOT of a PC. -/
def pcSlot (pc : Word) : Nat := (pc.extractLsb' 0 3).toNat
/-- The PC of a line and slot. -/
def mkPc (line : BitVec 50) (slot : Nat) : Word := 0#8 ++ line ++ 0#3 ++ BitVec.ofNat 3 slot
/-- The next slot in program order (R232). -/
def nextSlot (pc : Word) : Word :=
  if pcSlot pc = 4 then mkPc (pcLine pc + 1) 0 else mkPc (pcLine pc) (pcSlot pc + 1)
/-- A well-formed PC (R234). -/
def pcOK (pc : Word) : Bool :=
  pc.extractLsb' 56 8 == 0#8 && pc.extractLsb' 3 3 == 0#3 && decide (pcSlot pc < 5)
/-- The target of a displacement in slots (R233). -/
def branchTarget (pc : Word) (d : Word32) : Word :=
  let n : Int := (pcSlot pc : Int) + d.toInt
  mkPc (BitVec.ofInt 50 (((pcLine pc).toNat : Int) + n.fdiv 5)) (n.fmod 5).toNat

/-! ## Warp identity and fault records -/

/-- Supervisor level (R249). -/
def Warp.sup (w : Warp) : Bool := w.asid == 0#12

/-- WARP_ID (R275). -/
def Warp.id (w : Warp) : Word :=
  BitVec.ofBool w.sup ++ BitVec.ofBool w.harvest ++ BitVec.ofBool w.tl ++ BitVec.ofBool w.posted ++
    BitVec.ofNat 6 w.ctx ++ w.asid ++ BitVec.ofNat 16 w.core ++ BitVec.ofNat 4 w.sub ++ BitVec.ofNat 3 w.slot ++
    0#11 ++ BitVec.ofNat 8 (if w.posted then 0xFF else w.widx)

/-- The cached line that holds a VA of a warp's ASID. -/
def Warp.key (w : Warp) (va : Nat) : LineKey := { part := w.part, asid := w.asid, ln := va % 2 ^ 56 / 128 }

/-- The flags as TRP_CAUSE.FLG and SFLG.get give them: Z N C V (R254, R268). -/
def Warp.flags (w : Warp) : BitVec 4 :=
  BitVec.ofBool w.z ++ BitVec.ofBool w.n ++ BitVec.ofBool w.c ++ BitVec.ofBool w.v

/-- Sets the flags from Z N C V. -/
def Warp.setFlags (w : Warp) (f : BitVec 4) : Warp :=
  { w with z := f.getLsbD 3, n := f.getLsbD 2, c := f.getLsbD 1, v := f.getLsbD 0 }

/-- A trap: cause, walk status, faulting address, per-lane mask, TRAP code, and NEXT (R265-R268). -/
structure Trap where
  cause : Nat
  wst   : Nat := 0
  va    : Word := 0
  lanes : Word32 := 0
  code  : Nat := 0
  nxt   : Bool := false
  deriving DecidableEq, Repr

/-- Forms a record of a context: SEQ counts from 1 and skips 0 (R390).  A KIND 2-4 record that finds the ring full and 16
records waiting is discarded and counted in LOST (R391). -/
def Ctx.form (k : Ctx) (r : FaultRec) : Ctx × Word32 :=
  let size := (k.fqb.extractLsb' 0 4).toNat
  let cap := if k.fqb = 0 then 0 else if size = 12 then 65535 else 2 ^ (size + 4)
  let full := decide ((k.tail + 65536 - k.head) % 65536 ≥ cap)
  if r.kind ≥ 2 && full && decide (k.waiting.length ≥ 16) then ({ k with lost := min (k.lost + 1) 0xFFFF }, k.seq)
  else
    ({ k with waiting := k.waiting ++ [{ r with seq := k.seq }], seq := if k.seq = BitVec.allOnes 32 then 1 else k.seq + 1 },
      k.seq)

/-- A record of a context and not of a warp: KIND 2-4 (R390). -/
def State.postCtx (s : State) (p c kind cause wst : Nat) (va aux : Word) : State :=
  let k := s.ctx p c
  s.updCtx p c (fun k' => (k'.form
    { cause := cause, wst := wst, nxt := false, code := 0, kind := kind, ctx := c, asid := k.asid, pc := 0, va := va,
      warp := BitVec.allOnes 64, lanes := 0, seq := 0, mapv := (s.part p).version, time := s.timeNs, aux := aux }).1)

/-- The record of a warp, KIND 0 or 1 (R390). -/
def State.warpRec (s : State) (w : Warp) (kind : Nat) (t : Trap) (aux : Word) : FaultRec :=
  { cause := t.cause, wst := t.wst, nxt := t.nxt, code := t.code, kind := kind, ctx := w.ctx, asid := w.asid, pc := w.pc,
    va := t.va, warp := w.id, lanes := t.lanes, seq := 0, mapv := (s.part w.part).version, time := s.timeNs, aux := aux }

/-- Parks a warp with a KIND 0 record (R266, R390): it goes to Parked-fault and the record stands. -/
def State.park (s : State) (w : Warp) (t : Trap) : State :=
  let (k, q) := (s.ctx w.part w.ctx).form (s.warpRec w 0 t 0)
  (s.updCtx w.part w.ctx (fun _ => k)).setWarp
    { w with st := .parkedFault, fseq := q, fnext := t.nxt, fcause := t.cause, wait := false, mid := 0, hold := none, pause := none, rob := [] }

/-- The extent of a barrier level for a core and workgroup: workgroup, quad, reticle or partition (R186). -/
def barExtent (lvl core wgid : Nat) : Nat :=
  match lvl with
  | 1 => wgid
  | 2 => coreQuad core
  | 3 => coreRet core
  | _ => 0

/-- What a kill does beyond the warp (R401): its launch counts it as gone and shows ABANDONED at barriers; where the core's exchange region is its
workgroup's, its group shows the loss (R127, R330), and open collectives of the group end (R365). -/
def State.killEffects (s : State) (w : Warp) (byCore : Bool) : State :=
  let s := s.updLaunch w.launch (fun l =>
    { l with gone := if w.posted then l.gone else (256 * w.wgid + w.widx) :: l.gone,
             kills := if w.posted then l.kills else l.kills ++ [(256 * w.wgid + w.widx, byCore)], left := l.left - 1 })
  let x := (s.core w.core).xch
  if w.posted || x.e == 0 || x.launch != w.launch || x.wgid != w.wgid then s
  else
    let s := s.updCore w.core (fun c => { c with xch := { c.xch with lost := true } })
    match x.mem with
    | some (gid, _) => { s with colls := s.colls.map (fun x =>
        if x.part == w.part && x.whr == 0 && x.gid == gid then { x with gone := true } else x) }
    | none => s

/-- Kills a warp (R400, R401): it goes to Killed and a KIND 1 record is formed unless its context was failed or released. -/
def State.kill (s : State) (w : Warp) (t : Trap) (byCore report : Bool) : State :=
  if w.st = .killed then s
  else
    let s := if report then
        s.updCtx w.part w.ctx (fun k => (k.form (s.warpRec w 1 t (if t.cause = 0x12 then w.regpc else 0))).1)
      else s
    (s.killEffects w byCore).setWarp { w with st := .killed, wait := false, mid := 0, hold := none, pause := none, rob := [], fseq := 0 }

/-- Kills every warp that meets a condition. -/
def State.killAll (s : State) (p : Warp → Bool) (t : Trap) (byCore report : Bool) : State :=
  (s.warps.filter p).foldl (fun s w => s.kill w t byCore report) s

/-- The contexts of a partition that hold an ASID. -/
def State.ctxsOf (s : State) (p : Nat) (asid : BitVec 12) : List Nat :=
  (List.range 64).filter (fun c => (s.ctx p c).en && (s.ctx p c).asid == asid)

/-- Ends every outstanding engine operation of a context with ERROR (R184). -/
def State.failOps (s : State) (p c : Nat) : State :=
  { s with ops := s.ops.map (fun o => if o.part == p && o.ctx == c && o.status == 0 then { o with status := 5 } else o) }

/-- Fails a context (R184): its warps go to Killed, its operations end with ERROR, its launches will complete with STATUS 2, and their
outstanding records are abandoned (R190). -/
def State.failCtx (s : State) (p c : Nat) : State :=
  let s := s.updCtx p c (fun k => { k with fail := true, posting := none })
  let s := s.killAll (fun w => w.part == p && w.ctx == c) { cause := 0x13 } false false
  let s := s.failOps p c
  { s with launches := s.launches.map (fun l => if l.part == p && l.ctx == c then { l with failed := true, outst := [] } else l),
           ready := s.ready.filter (fun r => !(r.part == p && r.ctx == c)) }

/-- An orphan write-back of a context (R184): a KIND 2 record with PERM and PERM_WR, and the context is failed. -/
def State.orphan (s : State) (p c : Nat) (va : Word) : State :=
  if (s.ctx p c).fail then s else (s.postCtx p c 2 0x07 9 va 0).failCtx p c

/-- Fails the contexts of an ASID with a KIND 2 record (R184, R395). -/
def State.failAsid (s : State) (p : Nat) (asid : BitVec 12) (cause wst : Nat) (va : Word) : State :=
  (s.ctxsOf p asid).foldl (fun s c => if (s.ctx p c).fail then s else (s.postCtx p c 2 cause wst va 0).failCtx p c) s

end Sys2Proof.Machine
end

