-- ==== Sys2Proof/Machine/Anchor.lean ====
section
/-!
DEFINITION. Anchors and the bank map (R66-R71), and the apertures that are read by whole lines: the resource map page (R403) and the error
logs (R30, R146).
-/

namespace Sys2Proof.Machine

/-! ## Where a line stands -/

/-- BUCKET (R68). -/
def keyBucket (k : LineKey) : Nat :=
  ((k.ln % 4096) ^^^ (k.ln / 2 ^ 12 % 4096) ^^^ (k.ln / 2 ^ 24 % 4096) ^^^ (k.ln / 2 ^ 36 % 4096) ^^^ (k.ln / 2 ^ 48 % 2) ^^^
    k.asid.toNat) % 4096

/-- Live banks of a partition in the order of R70, given the banks dead when the map was built. -/
def bankList (rets dead : List Nat) : List Nat :=
  ((List.range 96).flatMap (fun b => rets.map (fun r => 96 * r + b))).filter (fun g => !dead.contains g)

/-- The bank that the bank map names for a bucket (R69, R70): the entry moved since (R97), else entry k mod n of the list. -/
def Part.bankOf (q : Part) (b : Nat) : Nat :=
  match q.moves.find? (fun e => e.1 == b) with
  | some e => e.2
  | none =>
    if q.mapDead = [] then
      let n := q.reticles.length
      let i := b % (96 * n)
      96 * q.reticles.getD (i % n) 0 + i / n
    else
      let l := bankList q.reticles q.mapDead
      l.getD (b % l.length) 0

/-- A line's anchor bank. -/
def State.anchor (s : State) (k : LineKey) : Nat := (s.part k.part).bankOf (keyBucket k)

/-- PB of a reticle for a line (R71). -/
def State.placeBank (s : State) (ret : Nat) (k : LineKey) : Option Nat :=
  ((List.range 96).map (fun i => 96 * ret + ((keyBucket k) % 96 + i) % 96)).find? (fun b => s.bankLive b)

/-- Set of a line in a bank (R66). -/
def keySet (k : LineKey) : Nat := (k.ln % 1024) ^^^ (k.asid.toNat % 1024)
/-- Set of a line in a directory. -/
def keyDirSet (k : LineKey) : Nat := (k.ln % 2048) ^^^ (k.asid.toNat % 2048)

/-! ## Routes (R103-R105, R409) -/

/-- Column of a quarter. -/
def quarterX (q : Nat) : Nat := q % 2
/-- Row of a quarter. -/
def quarterY (q : Nat) : Nat := q / 2

/-- The route tables lead from a quarter to another: both lie in one partition and the route of R103, along x and then along y, crosses no closed
seam (R409).  Under the west-first turn model a route to the east may also turn first (R104). -/
def State.routed (s : State) (a b : Nat) : Bool :=
  let along (y : Nat) : Bool := quarterX a == quarterX b || s.wafer.nbnd.getLsbD y
  let across (x : Nat) : Bool := quarterY a == quarterY b || s.wafer.nbnd.getLsbD (2 + x)
  a == b || (s.partOfQ a == s.partOfQ b &&
    ((along (quarterY a) && across (quarterX b)) ||
     ((s.part (s.partOfQ a)).westFirst && decide (quarterX a < quarterX b) && across (quarterX a) && along (quarterY b))))

/-- A request and its reply have routes between two quarters: a reply goes along y and then along x, the request's way back (R103). -/
def State.linked (s : State) (a b : Nat) : Bool := s.routed a b && (!(s.part (s.partOfQ a)).westFirst || s.routed b a)

/-- Quarter of a core. -/
def coreQuarter (c : Nat) : Nat := retQuarter (coreRet c)

/-! ## The resource map page (R403) -/

/-- Byte `o` of a bit array. -/
def bitsByte (f : Nat → Bool) (o : Nat) : Nat :=
  (List.range 8).foldl (fun acc i => if f (8 * o + i) then acc + 2 ^ i else acc) 0

/-- A core lies in a partition. -/
def State.inPart (s : State) (p c : Nat) : Bool := decide (c < 1296) && s.partOfCore c == p

/-- A core is live in a partition. -/
def State.mapCore (s : State) (p c : Nat) : Bool := s.inPart p c && s.coreLive c
/-- A bank is live in a partition. -/
def State.mapBank (s : State) (p b : Nat) : Bool :=
  decide (b < 3456) && s.partOfQ (retQuarter (bankRet b)) == p && s.bankLive b
/-- The link east of a core is live and inside the partition. -/
def State.mapLinkE (s : State) (p c : Nat) : Bool :=
  decide (coreX c < 35) && s.inPart p c && s.inPart p (c + 1) && !s.wafer.deadLinkE.contains c
/-- The link north of a core is live and inside the partition. -/
def State.mapLinkN (s : State) (p c : Nat) : Bool :=
  s.inPart p c && s.inPart p (c + 36) && !s.wafer.deadLinkN.contains c
/-- Quarters of a partition as a mask. -/
def State.qmask (s : State) (p : Nat) : Nat :=
  (List.range 4).foldl (fun acc q => if s.partOfQ q = p then acc + 2 ^ q else acc) 0

/-- REACH: which wafers of the job the fabric reaches through the partition's ports; the topology is the pod's (log 30). -/
def State.reach (s : State) (p : Nat) : Word :=
  Config.reach (((List.range 128).filter (fun k => s.partOfQ (k / 32) == p)).map (fun k => (k, (s.port k).st)))

/-- Byte `o` of the resource map page of a partition (R403). -/
def State.mapByte (s : State) (p o : Nat) : Nat :=
  let q := s.part p
  if o < 8 then q.version / 2 ^ (8 * o) % 256
  else if o < 0x10 then q.mapTime / 2 ^ (8 * (o - 8)) % 256
  else if o = 0x10 then s.wafer.shape.toNat
  else if o = 0x11 then s.qmask p
  else if o < 0x14 then ((List.range 1296).filter (s.mapCore p)).length / 2 ^ (8 * (o - 0x12)) % 256
  else if o < 0x16 then ((List.range 3456).filter (s.mapBank p)).length / 2 ^ (8 * (o - 0x14)) % 256
  else if o = 0x16 then ((List.range 48).filter (fun k => s.partOfStack k == p && (s.stack k).cur != 3)).length
  else if o = 0x18 then q.lastKind % 256
  else if o = 0x1A then q.lastObj % 256
  else if o = 0x1B then q.lastObj / 256 % 256
  else if 0x40 ≤ o ∧ o < 0xE2 then bitsByte (s.mapCore p) (o - 0x40)
  else if 0x100 ≤ o ∧ o < 0x2B0 then bitsByte (s.mapBank p) (o - 0x100)
  else if 0x300 ≤ o ∧ o < 0x3A2 then bitsByte (s.mapLinkE p) (o - 0x300)
  else if 0x3C0 ≤ o ∧ o < 0x462 then bitsByte (s.mapLinkN p) (o - 0x3C0)
  else if 0x480 ≤ o ∧ o < 0x4B0 then
    if s.partOfStack (o - 0x480) = p then 128 + (s.stack (o - 0x480)).cur else 0
  else if 0x4C0 ≤ o ∧ o < 0x540 then
    if s.partOfQ ((o - 0x4C0) / 32) = p then (s.port (o - 0x4C0)).st else 0
  else if 0x540 ≤ o ∧ o < 0x548 then ((s.reach p).extractLsb' (8 * (o - 0x540)) 8).toNat
  else if 0x580 ≤ o ∧ o < 0x622 then
    bitsByte (fun c => s.inPart p c && s.launches.any (fun l => l.part == p && l.st == .running && l.excused.contains c)) (o - 0x580)
  else if 0x1000 ≤ o ∧ o < 0x3000 then (q.bankOf ((o - 0x1000) / 2)) / 256 ^ ((o - 0x1000) % 2) % 256
  else 0

/-- A line of the resource map page. -/
def State.mapLine (s : State) (p o : Nat) : LineData :=
  BitVec.ofNat 1024 (leNat ((List.range 128).map (fun i => BitVec.ofNat 8 (s.mapByte p (o + i)))))

/-! ## Apertures read by whole lines (R30) -/

/-- A line of the error-log ring of a stack (R146). -/
def Stack.logLine (k : Stack) (o : Nat) : LineData :=
  (List.range 8).foldl (fun (acc : LineData) i =>
    acc ||| (BitVec.zeroExtend 1024 (tget k.log (o / 16 + i) (0 : BitVec 128)) <<< (128 * i))) 0

/-- A line of the map page or of the error logs; every other aperture reads zero at this width. -/
def State.aperLine (s : State) (p off : Nat) : LineData :=
  let o := off / 128 * 128
  if 0x2000000 ≤ o ∧ o < 0x2010000 then s.mapLine p (o - 0x2000000)
  else if 0x2010000 ≤ o ∧ o < 0x2040000 then
    let k := (o - 0x2010000) / 4096
    if s.partOfStack k = p then (s.stack k).logLine (o % 4096) else 0
  else 0

/-- An aperture of plain bytes, which its readers get by whole lines: the map page and the error logs (R30, R404). -/
def plainAper (off : Nat) : Bool := decide (0x2000000 ≤ off) && decide (off < 0x2040000)

end Sys2Proof.Machine
end

