-- ==== Sys2Proof/Machine/Phys.lean ====
section
/-!
DEFINITION. Physical memory: the interleave (R29-R33), the memory controllers with their tags, shares and error logs (R130-R147), and
page walks at the memory gates (R12-R26).
-/

namespace Sys2Proof.Machine

/-- Actions on the state. -/
abbrev SM := StateM State

/-- What a physical address names (R29). -/
inductive PaKind where
  | dram (stk loc : Nat)
  | host (a : Nat)
  | aper (off : Nat)
  | none
  deriving DecidableEq, Repr

/-- A GiB. -/
def gib : Nat := 2 ^ 30

/-- Routes a physical address of a partition (R29-R33). -/
def Part.route (q : Part) (pa : Nat) : PaKind :=
  match pa / 2 ^ 50 with
  | 0 =>
    if pa < q.count * q.split * gib then
      let g := pa / 4096
      .dram (q.ivl.getD (g % q.count) 0) ((g / q.count) * 4096 + pa % 4096)
    else .none
  | 1 =>
    let stk := (pa / 2 ^ 36) % 64
    let off := pa % 2 ^ 36
    if off < (64 - q.split) * gib && (q.ivl.take q.count).contains stk then .dram stk (q.split * gib + off) else .none
  | 2 => .host (pa % 2 ^ 50)
  | _ => .aper (pa % 2 ^ 50)

/-- The share entry that counts a command of an ASID; 64 for unshared traffic (R134, R139). -/
def Part.shareOf (q : Part) (asid : BitVec 12) : Nat :=
  match q.bind.find? (fun e => e.1 == asid) with
  | some (_, n) => if ((q.shInf[n]?).getD 0).getLsbD 31 then n else 64
  | none => 64

/-- Adds to a counter of a table. -/
def bump (t : List (Nat × Nat)) (k n : Nat) : List (Nat × Nat) := tset t k ((tget t k 0 + n) % 2 ^ 64)

/-- Accounts `n` line commands of an entry at a stack (R132, R137, R139). -/
def countEntry (stk e n : Nat) : SM Unit :=
  modify fun s => s.updStack stk (fun k => { k with shcnt := bump k.shcnt e n, used := bump k.used e n })

/-! ## Error logs (R146, R147) -/

/-- Corrections that lie less than a second back. -/
def recentCorr (now : Nat) (cs : List (Nat × Nat)) : List (Nat × Nat) := cs.filter (fun e => decide (now < e.2 + 1000000000))

/-- Writes an error-log entry (R146, R147); a correction also counts on its channel (R149). -/
def logErr (stk ty loc kd : Nat) (demand : Bool) : SM Unit :=
  modify fun s =>
    s.updStack stk (fun k =>
      let e : BitVec 128 := BitVec.ofNat 64 s.timeNs ++ BitVec.ofNat 3 ty ++ Config.channel (loc / 128) ++ BitVec.ofNat 16 k.pass ++
        BitVec.ofNat 4 kd ++ BitVec.ofNat 29 (loc / 128) ++ BitVec.ofBool demand ++ 0#6
      let k := { k with log := tset k.log k.wr e, wr := (k.wr + 1) % 256,
                        corr := if ty = 1 then ((Config.channel (loc / 128)).toNat, s.timeNs) :: recentCorr s.timeNs k.corr else k.corr }
      if k.wr = k.rd then { k with lost := min (k.lost + 1) 0xFFFF, rd := (k.rd + 1) % 256 } else k)

/-! ## Lines of DRAM (R131, R140-R144) -/

/-- Number of a DRAM line over all stacks. -/
def lineNo (stk loc : Nat) : Nat := stk * 2 ^ 29 + loc / 128

/-- The key of a key domain of a partition (R140). -/
def Part.key (q : Part) (kd : Nat) : Nat := (q.keys[kd]?).getD 0

/-- VB of a slot's older version at a stack (R144): the version of every slot is the number of passes completed. -/
def Stack.oldVb (k : Stack) : Bool := decide (k.pass % 2 = 1)
/-- VB of a write to a stack: the next version from the start of a pass on. -/
def Stack.newVb (k : Stack) : Bool := k.oldVb ^^ k.begun

/-- The bit errors that a line holds: none, or whether ECC corrects them. -/
def State.eccOf (s : State) (stk loc : Nat) : Option Bool := (s.ecc.find? (fun e => e.1 == lineNo stk loc)).map (fun e => e.2)

/-- Why a read of a line under a key domain gives poisoned data (R141): 0 when it does not, else the log TYPE.  ECC comes first, then poison,
then the tag under the version that VB names.  A line that nothing has written counts as written under the keys of formation (log 1).  The model keeps
no PA with a tag: a line read under another PA after an interleave commit passes, the model's choice between R141 and R411 (log 65). -/
def State.lineBad (s : State) (p kd stk loc : Nat) : Nat :=
  if s.eccOf stk loc = some false then 2
  else
    match s.tags.find? (fun t => t.line == lineNo stk loc) with
    | some t =>
      if t.poi then 4
      else if t.key = (s.part p).key kd ∧ ((s.stack stk).begun ∨ t.vb = (s.stack stk).oldVb) then 0 else 3
    | none => if (s.part p).key kd = 16 * stackQuarter stk + kd then 0 else 3

/-- Sets the tag of a line that is written: under the version in force for writes, and without bit errors. -/
def setTag (stk loc key kd : Nat) (poi : Bool) : SM Unit :=
  modify fun s =>
    let t : LineTag := { line := lineNo stk loc, key := key, vb := (s.stack stk).newVb, kd := kd, poi := poi }
    { s with tags := t :: s.tags.filter (fun t => !(t.line == lineNo stk loc)), ecc := s.ecc.filter (fun e => e.1 != lineNo stk loc) }

/-- Reads a line at its stack: logs what ECC corrects and why the data is poisoned, if it is (R141, R146). -/
def checkLine (p kd stk loc : Nat) (demand : Bool) : SM Nat := do
  let s ← get
  if s.eccOf stk loc = some true then logErr stk 1 loc kd demand
  let bad := s.lineBad p kd stk loc
  if bad ≠ 0 then logErr stk bad loc kd demand
  pure bad

/-- What a write command costs in line commands (R132): nothing at a dead stack or without bytes, 2 for a merge. -/
def State.mcCost (s : State) (c : McCmd) : Nat :=
  if (s.stack c.stack).cur = 3 || (c.mask = 0 && !c.poi && !c.rd) then 0 else if c.rd || c.mask == BitVec.allOnes 128 then 1 else 2

/-- What a write command does to its line (R131, R133). -/
def mcWrite (c : McCmd) : SM Unit := do
  let s ← get
  if (s.stack c.stack).cur = 3 then logErr c.stack 5 c.addr c.kd true
  else if c.mask = 0 && !c.poi then pure ()
  else do
    let bad ← (if c.mask == BitVec.allOnes 128 then pure 0 else checkLine (s.partOfStack c.stack) c.kd c.stack c.addr true)
    setTag c.stack c.addr ((s.part (s.partOfStack c.stack)).key c.kd) c.kd (c.poi || bad ≠ 0)
    if bad = 0 then modify fun s => { s with dram := s.dram.setLine (c.stack * 2 ^ 36 + c.addr) c.mask c.data }

/-! ## The command queue (R130, R136, R137, R150) -/

/-- Lines per window at a rate code (R148). -/
def rateCap (code : Nat) : Nat :=
  match code with
  | 0 => 18750 | 1 => 14062 | 2 => 9375 | _ => 0

/-- The limit that a field of 1/256 gives, at the rate of the window's start (R136). -/
def shareLimit (v : Word32) (lo code : Nat) : Nat := (v.extractLsb' lo 9).toNat * rateCap code / 256

/-- The number in the place of a partition's that marks a command of the host. -/
def hostPart : Nat := 4

/-- The share entry of a command; 64 for unshared traffic, to which host commands belong (R139). -/
def State.entryOf (s : State) (c : McCmd) : Nat := if c.part = hostPart then 64 else (s.part c.part).shareOf c.asid

/-- The commands in the queue of a stack's controller, oldest first: 256 at most, the rest wait on the request plane, as those do that come
while the rate changes (R130, R150). -/
def State.mcQueue (s : State) (k : Nat) : List McCmd :=
  (s.mcq.filter (fun c => c.stack == k && !c.done && !(c.held && (s.stack k).phase == .drain))).take 256

/-- The commands of a queue that may issue: none passes a read of its line that was issued and not yet taken, so that the read returns the line as
it stood at its issue (R131). -/
def State.mcOpen (s : State) (k : Nat) : List McCmd :=
  (s.mcQueue k).filter (fun c => !s.mcq.any (fun x => x.rd && x.done && x.stack == k && x.addr == c.addr))

/-- The commands waiting at a stack whose entry has used less than the limit in a field of its share register. -/
def State.under (s : State) (k lo : Nat) : List McCmd :=
  (s.mcOpen k).filter (fun c =>
    let e := s.entryOf c
    decide (e < 64) && decide (tget (s.stack k).used e 0 < shareLimit (((s.part c.part).shInf[e]?).getD 0) lo (s.stack k).wcur))

/-- The commands of unshared traffic waiting at a stack. -/
def State.unshared (s : State) (k : Nat) : List McCmd := (s.mcOpen k).filter (fun c => s.entryOf c == 64)

/-- SELECT (R137); the scrub's line is a step of its own.  Nothing issues in training (R150), and a dead stack takes its commands in order
(R133). -/
def State.mcSelect (s : State) (k : Nat) : Option McCmd :=
  if (s.stack k).phase = .training then none
  else if (s.stack k).cur = 3 then (s.mcOpen k).head?
  else
    match s.under k 0 with
    | c :: _ => some c
    | [] =>
      match s.under k 9 with
      | c :: _ => some c
      | [] => (s.unshared k).head?

/-- A step waits for the command: a read, or a write of the host. -/
def McCmd.awaited (c : McCmd) : Bool := c.rd || c.part == hostPart

/-- Issues a command of a queue (R137): it is counted, and a write changes its line.  One that a step waits for stays, marked as issued. -/
def mcIssue (c : McCmd) : SM Unit := do
  let s ← get
  if s.mcCost c ≠ 0 then countEntry c.stack (s.entryOf c) (s.mcCost c)
  modify fun s => { s with mcq := if c.awaited then s.mcq.map (fun x => if x == c then { x with done := true, at' := s.plat.cc } else x)
                                  else s.mcq.erase c }
  if c.rd then pure () else mcWrite c

/-- Reads that were issued and that no step took within three windows are forgotten: their reader has gone. -/
def State.dropReads (s : State) : State :=
  { s with mcq := s.mcq.filter (fun c => !(c.rd && c.done && decide (c.at' + 4200 ≤ s.plat.cc))) }

/-- Issues commands of a stack in the order of SELECT until a condition holds, at most `n`; whether it came to hold. -/
def mcRun (k : Nat) (stop : State → Bool) : Nat → SM Bool
  | 0 => do pure (stop (← get))
  | n + 1 => do
    let s ← get
    if stop s then pure true
    else
      match s.mcSelect k with
      | none => pure false
      | some c => do
        mcIssue c
        mcRun k stop n

/-- Puts a command into the queue of its stack; while the rate changes it is held on the request plane. -/
def mcPut (c : McCmd) : SM Unit :=
  modify fun s => { s with mcq := s.mcq ++ [{ c with held := (s.stack c.stack).phase == .drain || (s.stack c.stack).phase == .training }] }

/-- A command as its step made it, whatever has become of it in the queue. -/
def McCmd.plain (c : McCmd) : McCmd := { c with done := false, save := false, held := false, at' := 0 }

/-- A command that its step waits for is issued (R131, R137): what SELECT puts before it goes first.  A step whose command may not be issued now has
to wait for it. -/
def mcAwait (c : McCmd) : SM Unit := do
  let s ← get
  if !s.mcq.any (fun x => x.plain == c.plain) then mcPut c
  let out (s : State) : Option McCmd := s.mcq.find? (fun x => x.done && x.plain == c.plain)
  let s ← get
  let ok ← mcRun c.stack (fun s => (out s).isSome) (s.mcq.length + 1)
  modify fun s =>
    match ok, out s with
    | true, some x => { s with mcq := s.mcq.erase x }
    | _, _ => { s with stall := some c }

/-- A read of a line. -/
def readCmd (stk loc p : Nat) (asid : BitVec 12) : McCmd :=
  { stack := stk, addr := loc, mask := 0, data := 0, part := p, asid := asid, kd := 0, poi := false, rd := true, done := false, save := false,
    held := false, at' := 0 }

/-- A read command is issued. -/
def mcRead (stk loc : Nat) (p : Nat) (asid : BitVec 12) : SM Unit := mcAwait (readCmd stk loc p asid)

/-- A step ran into a read that must wait (R137): its effects do not stand. -/
def State.stalled (s t : State) : Option McCmd :=
  match s.stall with
  | none => t.stall
  | some _ => none

/-- What a step waits for that has no route to where it must go, or whose partition is reshaped: the number of its stack is none of a stack's
(R105, R409, R433; log 50). -/
def noRoute : McCmd := readCmd 48 0 0 0

/-- A request goes from a quarter to another and its reply comes back; while no route leads there its step waits (R409). -/
def carry (a b : Nat) : SM Unit := modify fun s => if s.linked a b || s.stall.isSome then s else { s with stall := some noRoute }

/-- A request of a partition waits at its core while the partition is reshaped (R433). -/
def shapeWait (p : Nat) : SM Unit :=
  modify fun s => if (s.part p).qst != .reshaping || s.stall.isSome then s else { s with stall := some noRoute }

/-- Changes of rate that wait for their drain at the stacks of a partition are cancelled by a save: the commands held are released, and the changes
start again when it has ended (R150). -/
def State.cancelDrains (s : State) (p : Nat) : State :=
  let hit (k : Nat) : Bool := s.partOfStack k == p && (s.stack k).phase == .drain
  { s with mcq := s.mcq.map (fun c => { c with held := c.held && !hit c.stack }),
           hbm := s.hbm.map (fun e => (e.1, { e.2 with phase := if hit e.1 then .pending else e.2.phase })) }

/-- A state in which a command waits in its queue; a save that waits for it has begun, and cancels changes of rate. -/
def State.waitingFor (s : State) (c : McCmd) : State :=
  if c.stack = 48 then s
  else
    let s := if c.save then s.cancelDrains (s.partOfStack c.stack) else s
    if s.mcq.any (fun x => x.plain == c.plain) then
      { s with mcq := s.mcq.map (fun x => if x.plain == c.plain then { x with save := x.save || c.save } else x) }
    else (mcPut c |>.run s).2

/-- Does something unless it must wait for a read; then nothing happens but that the read stands in its queue. -/
def attempt (m : SM Unit) : SM Unit := do
  let s ← get
  let t := (m.run s).2
  match s.stalled t with
  | some c => set (s.waitingFor c)
  | none => set t

/-- The writes that wait at the stacks of a partition are issued in the order of SELECT (R137, R410 step 1); a step waits for those that may not
be issued now. -/
def mcDrain (p : Nat) : SM Unit := do
  let s ← get
  let mine (s : State) (c : McCmd) : Bool := !c.awaited && s.partOfStack c.stack == p
  (((s.mcq.filter (mine s)).map (fun c => c.stack)).eraseDups).forM (fun k => do
    let s ← get
    let _ ← mcRun k (fun s => !s.mcq.any (fun c => mine s c && c.stack == k)) (s.mcq.length + 1)
    pure ())
  modify fun s => match s.mcq.find? (mine s) with
    | some c => { s with stall := some c }
    | none => s

/-- The writes of an ASID that a condition on the line chooses are issued as far as the shares allow (R94): whether none is left. -/
def mcFlush (p : Nat) (asid : BitVec 12) : SM Bool := do
  let s ← get
  let mine (c : McCmd) : Bool := !c.rd && c.part == p && c.asid == asid
  let ks := ((s.mcq.filter mine).map (fun c => c.stack)).eraseDups
  ks.forM (fun k => do
    let s ← get
    let _ ← mcRun k (fun s => !s.mcq.any (fun c => mine c && c.stack == k)) (s.mcq.length + 1)
    pure ())
  let s ← get
  pure (!s.mcq.any mine)

/-- A DRAM line under a key domain as it stands: data and whether it is poisoned (R131, R133, R141). -/
def dramLine (p : Nat) (kd stk loc : Nat) : SM (LineData × Bool) := do
  let s ← get
  if (s.stack stk).cur = 3 then pure (0, true)
  else do
    let bad ← checkLine p kd stk loc true
    pure (s.dram.line (stk * 2 ^ 36 + loc), bad ≠ 0)

/-- Reads a DRAM line as a channel command (R132). -/
def dramRead (p : Nat) (asid : BitVec 12) (kd stk loc : Nat) : SM (LineData × Bool) := do
  mcRead stk loc p asid
  dramLine p kd stk loc

/-- Reads the line at a physical address (R29); a line that no stack of the partition holds gives a free value, and an aperture
what it gives at this width (R30). -/
def physRead (p : Nat) (asid : BitVec 12) (kd pa : Nat) : SM (LineData × Bool) := do
  let s ← get
  match (s.part p).route (pa / 128 * 128) with
  | .dram stk loc => dramRead p asid kd stk loc
  | .host a => pure (s.host.line a, false)
  | .none => do
    set { s with free := s.free + 1 }
    pure (Config.noMemory s.free, false)
  | .aper off => pure (s.aperLine p off, false)

/-- Writes bytes of the line at a physical address: a command that the controller takes (R130), or bytes of host memory. -/
def physWrite (p : Nat) (asid : BitVec 12) (kd pa : Nat) (mask : LineMask) (d : LineData) (poi : Bool) : SM Unit := do
  let s ← get
  match (s.part p).route (pa / 128 * 128) with
  | .dram stk loc =>
    mcPut { stack := stk, addr := loc, mask := mask, data := d, part := p, asid := asid, kd := kd, poi := poi, rd := false, done := false,
            save := false, held := false, at' := 0 }
  | .host a => set { s with host := s.host.setLine a mask d }
  | _ => pure ()

/-! ## Page walks -/

/-- Kinds of access for the permission check (R23). -/
inductive Acc where
  | load | store | atomic | fetch
  deriving DecidableEq, Repr

/-- The walk status of a failed check against a leaf, in the order PERM_RD, PERM_WR, PERM_EX, PERM_US; 0 when it passes (R23, R24). -/
def Perm.check (m : Perm) (a : Acc) (user : Bool) : Nat :=
  if (a == .load || a == .atomic) && !m.rd then 8
  else if (a == .store || a == .atomic) && !m.wr then 9
  else if a == .fetch && !m.ex then 10
  else if (user && !m.us) || (!user && a == .fetch && m.us) then 11
  else 0

/-- The trap cause of a walk status: XLATE or PERM (R24). -/
def wstCause (w : Nat) : Nat := if w ≥ 8 then 0x07 else 0x06

/-- The permissions, class and key domain of a leaf (R14). -/
def ptePerm (e : Word) : Perm :=
  { rd := e.getLsbD 2, wr := e.getLsbD 3, ex := e.getLsbD 4, us := e.getLsbD 5, cls := (e.extractLsb' 6 4).toNat,
    kd := (e.extractLsb' 17 4).toNat }

/-- Lowest VA bit that a level's index uses (R12). -/
def lvlShift (l : Nat) : Nat :=
  match l with
  | 0 => 16 | 1 => 21 | 2 => 30 | 3 => 39 | _ => 48

/-- Index bits of a level (R12). -/
def lvlBits (l : Nat) : Nat :=
  match l with
  | 0 => 5 | 1 => 9 | 2 => 9 | 3 => 9 | _ => 8

/-- A leaf at a level is malformed (R15). -/
def leafBad (e : Word) (l : Nat) : Bool :=
  let pfn := (e.extractLsb' 28 36).toNat
  let ps := (e.extractLsb' 21 2).toNat
  e.extractLsb' 23 5 != 0#5 || decide (ps ≠ l) ||
    (l == 1 && decide (pfn % 32 ≠ 0)) || (l == 2 && decide (pfn % 2 ^ 14 ≠ 0)) ||
    (!e.getLsbD 10 && e.extractLsb' 11 6 != 0#6) || (e.getLsbD 10 && decide (pfn / 2 ^ 20 ≠ 0))

/-- A table lies in interleaved device memory (R17). -/
def Part.tableOK (q : Part) (pa : Nat) : Bool := decide (pa < q.count * q.split * gib)

/-- A request of a reticle goes to the stack that holds a physical address of its partition. -/
def carryMem (ret p pa : Nat) : SM Unit := do
  let s ← get
  match (s.part p).route (pa / 128 * 128) with
  | .dram stk _ => carry (retQuarter ret) (stackQuarter stk)
  | _ => pure ()

/-- The number that stands for no gate, under which the tables are walked to see what they hold. -/
def noGate : Nat := 36

/-- One 8-byte entry of a table, read by a gate under key domain 0 (R19); none when it is poisoned. -/
def readEntry (gate p : Nat) (asid : BitVec 12) (pa : Nat) : SM (Option Word) := do
  if gate < noGate then carryMem gate p pa
  let (d, poi) ← physRead p asid 0 pa
  pure (if poi then none else some (d.extractLsb' (8 * (pa % 128)) 64))

/-- Keeps at most `n` entries of a kind, dropping the last: the one that was put in longest ago.  Which entry a full gate cache drops is the
model's choice (R21 does not say; log 57). -/
def capLast {α : Type} (p : α → Bool) (n : Nat) (l : List α) : List α :=
  if (l.filter p).length > n then
    let r := l.reverse
    (r.eraseIdx (r.findIdx p)).reverse
  else l

/-- Walks from a table at a level down to a leaf (R12-R15): the leaf and its level, or a walk status. -/
def walkDown (gate p : Nat) (asid : BitVec 12) (va : Nat) : Nat → Nat → SM (Except Nat (Word × Nat))
  | l, table => do
    let s ← get
    if !(s.part p).tableOK table then pure (.error 4)
    else
      let ix := (va / 2 ^ lvlShift l) % 2 ^ lvlBits l
      match ← readEntry gate p asid (table + 8 * ix) with
      | none => pure (.error 6)
      | some e =>
        if !e.getLsbD 0 then pure (.error 1)
        else if e.getLsbD 1 then
          match l with
          | 0 => pure (.error 3)
          | l' + 1 =>
            let next := (e.extractLsb' 8 44).toNat * 256
            if e.extractLsb' 52 12 != 0#12 || e.extractLsb' 2 6 != 0#6 || (l' != 0 && decide (next % 4096 ≠ 0)) then
              pure (.error 3)
            else do
              let s ← get
              if l ≥ 2 && (s.part p).tableOK next then
                let w : WcEnt := { gate := gate, part := p, asid := asid, lvl := l, pfx := va / 2 ^ lvlShift l, next := next }
                modify fun s =>
                  let wc := capLast (fun w => w.gate == gate) 512 (w :: s.gates.wc)
                  { s with gates := { s.gates with wc := wc } }
              walkDown gate p asid va l' next
        else if l ≥ 3 then pure (.error 3)
        else if leafBad e l then pure (.error 3)
        else pure (.ok (e, l))

/-- A walk (R15, R16, R21): from the deepest pointer of the walk cache, else from the ASID table.  While GATE_ASTB.EN = 0 it ends with
ASID_INVALID also when COUNT = 0, where R31 says that every walk ends with PA_RANGE: the model's choice (log 57). -/
def walk (gate p : Nat) (asid : BitVec 12) (va : Nat) : SM (Except Nat (Word × Nat)) := do
  let s ← get
  let q := s.part p
  let hit (l : Nat) := s.gates.wc.find? (fun w =>
    w.gate == gate && w.part == p && w.asid == asid && w.lvl == l && w.pfx == va / 2 ^ lvlShift l)
  if !q.astb.getLsbD 0 then pure (.error 2)
  else
    match hit 2, hit 3, hit 4 with
    | some w, _, _ => walkDown gate p asid va 1 w.next
    | none, some w, _ => walkDown gate p asid va 2 w.next
    | none, none, some w => walkDown gate p asid va 3 w.next
    | none, none, none =>
      let ea := (q.astb.extractLsb' 15 37).toNat * 2 ^ 15 + 8 * asid.toNat
      if !q.tableOK ea then pure (.error 4)
      else
        match ← readEntry gate p asid ea with
        | none => pure (.error 6)
        | some e =>
          if !e.getLsbD 0 then pure (.error 2)
          else if e.extractLsb' 52 12 != 0#12 || e.extractLsb' 1 10 != 0#10 then pure (.error 3)
          else walkDown gate p asid va 4 ((e.extractLsb' 11 41).toNat * 2048)

/-- A translated address with what its leaf grants. -/
structure Leaf where
  pa   : Nat
  perm : Perm
  /-- the leaf has AFF = 1 (R14) -/
  aff  : Bool := false
  deriving DecidableEq, Repr

/-- The physical address a leaf gives, with its range checks (R31, R33). -/
def leafPa (q : Part) (e : Word) (l va : Nat) : Except Nat Leaf :=
  let off := (e.extractLsb' 28 36).toNat * 2 ^ 16 + va % 2 ^ lvlShift l
  if e.getLsbD 10 then
    let stk := (e.extractLsb' 11 6).toNat
    let a := off % 2 ^ 36
    if a < (64 - q.split) * gib && (q.ivl.take q.count).contains stk then .ok { pa := 2 ^ 50 + stk * 2 ^ 36 + a, perm := ptePerm e, aff := true }
    else .error 4
  else if off < 2 ^ 50 && !(off < q.count * q.split * gib) then .error 4
  else .ok { pa := off, perm := ptePerm e }

/-- VA of the resource map page (R11). -/
def mapPageVa : Nat := 0x00FFFFFFFFFF0000

/-- The leaf of the resource map page: Rd and Us, the map aperture (R11, R30). -/
def mapLeaf (va : Nat) : Leaf :=
  { pa := 3 * 2 ^ 50 + 0x2000000 + va % 65536, perm := { rd := true, wr := false, ex := false, us := true, cls := 0, kd := 0 } }

/-- Something lies on the resource map page. -/
def onMapPage (va : Nat) : Bool := va / 65536 == mapPageVa / 65536

/-- The leaf that software's own tables hold for an address, by a walk with no gate cache (log 28). -/
def State.tableLeaf (s : State) (p : Nat) (asid : BitVec 12) (va : Nat) : Option Word :=
  match ((walk noGate p asid va).run s).1 with
  | .ok (e, _) => some e
  | .error _ => none

/-- The dispatcher's mapping of the resource map page stands in an ASID (R11): it was made at a launch, and software has mapped nothing else there
since (log 28). -/
def State.mapStands (s : State) (p : Nat) (asid : BitVec 12) : Bool :=
  match (s.part p).maps.find? (fun e => e.1 == asid) with
  | none => false
  | some e => let now := s.tableLeaf p asid mapPageVa; now == none || now == e.2

/-- The entries of a gate's translation cache that hold a page. -/
def GtcEnt.holds (e : GtcEnt) (gate p : Nat) (asid : BitVec 12) (va : Nat) : Bool :=
  e.gate == gate && e.part == p && e.asid == asid && e.vpn == va / 2 ^ lvlShift e.lvl

/-- A gate forgets a page: neither cache holds a failed translation, and a request that faulted is walked again (R21). -/
def gateForget (gate p : Nat) (asid : BitVec 12) (va : Nat) : SM Unit :=
  modify fun s => { s with gates := { s.gates with gtc := s.gates.gtc.filter (fun e => !e.holds gate p asid va) } }

/-- A walk whose leaf the translation cache keeps in place of what it held of the page, if it gives an address (R15, R21, R26). -/
def walkFill (gate p : Nat) (asid : BitVec 12) (va : Nat) : SM (Except Nat (Word × Nat)) := do
  let r ← walk gate p asid va
  gateForget gate p asid va
  match r with
  | .error w => pure (.error w)
  | .ok (e, l) => do
    let s ← get
    match leafPa (s.part p) e l va with
    | .error w => pure (.error w)
    | .ok _ => do
      let ent : GtcEnt := { gate := gate, part := p, asid := asid, lvl := l, vpn := va / 2 ^ lvlShift l, pte := e }
      modify fun s => { s with gates := { s.gates with gtc := capLast (fun (x : GtcEnt) => x.gate == gate) 16384 (ent :: s.gates.gtc) } }
      pure (.ok (e, l))

/-! ## Walks in flight (R22) -/

/-- The VA of a line. -/
def keyVa (k : LineKey) : Nat := k.ln * 128

/-- The lowest VA bit of the page that holds an address: of its leaf as the tables stand, else of a 64 KiB page. -/
def State.pageShift (s : State) (p : Nat) (asid : BitVec 12) (va : Nat) : Nat :=
  match ((walk noGate p asid va).run s).1 with
  | .ok (_, l) => lvlShift l
  | .error _ => 16

/-- A walk is for the page of an ASID that holds an address. -/
def State.walkOn (s : State) (a : Walk) (gate p : Nat) (asid : BitVec 12) (va : Nat) : Bool :=
  a.gate == gate && a.key.part == p && a.key.asid == asid &&
    (let n := s.pageShift p asid va
     keyVa a.key / 2 ^ n == va / 2 ^ n)

/-- Two walks are for one page of an ASID. -/
def State.samePage (s : State) (a b : Walk) : Bool := s.walkOn a b.gate b.key.part b.key.asid (keyVa b.key)

/-- Walks of a gate that hold a slot: those that joined an earlier one hold none. -/
def State.slotWalks (s : State) : List Walk → List Walk
  | [] => []
  | x :: xs => x :: (s.slotWalks xs).filter (fun y => !s.samePage y x)

/-- All 1,024 walk slots of a gate are busy. -/
def State.slotsBusy (s : State) (gate : Nat) : Bool :=
  decide ((s.slotWalks (s.gates.slots.filter (fun x => x.gate == gate))).length ≥ 1024)

/-- The gate answers a warp: the line, and a walk status. -/
def replyTo (k : Walk) (wst : Nat) : SM Unit :=
  modify fun s => s.updWarps (fun w => w.wid == k.wid) (fun w => { w with reply := some (k.key.ln, wst) })

/-- A walk in flight ends: what joined it takes its result. -/
def endWalk (k : Walk) : SM (Except Nat (Word × Nat)) := do
  let s ← get
  let ks := s.gates.slots.filter (fun x => s.samePage x k)
  let r ← walkFill k.gate k.key.part k.key.asid (keyVa k.key)
  modify fun s => { s with gates := { s.gates with slots := s.gates.slots.filter (fun x => !ks.contains x) } }
  ks.forM (fun x => replyTo x (match r with
    | .ok _ => 0
    | .error w => w))
  pure r

/-- Every walk of a gate that holds a slot or waits in its queue ends, in their order. -/
def endWalks (gate : Nat) : SM Unit := do
  let s ← get
  let ks := (s.gates.slots ++ s.gates.queue).filter (fun (x : Walk) => x.gate == gate)
  set { s with gates := { s.gates with slots := s.gates.slots ++ s.gates.queue.filter (fun (x : Walk) => x.gate == gate),
                                       queue := s.gates.queue.filter (fun (x : Walk) => x.gate != gate) } }
  ks.forM (fun k => do
    let s ← get
    if s.gates.slots.contains k then do
      let _ ← endWalk k
      pure ())

/-- A miss of the translation cache (R21, R22): it joins a walk in flight for its page and takes its result; while every slot is busy it comes
after the walks before it; else it is walked.  The walk ends within the step that needs it (log 10). -/
def gateMiss (gate p : Nat) (asid : BitVec 12) (va : Nat) : SM (Except Nat (Word × Nat)) := do
  let s ← get
  match s.gates.slots.find? (fun x => s.walkOn x gate p asid va) with
  | some k => endWalk k
  | none => do
    if s.slotsBusy gate then endWalks gate
    walkFill gate p asid va

/-- Translation at a gate (R20-R22, R26): the translation cache, else a walk; `force` always walks. -/
def translate (gate p : Nat) (asid : BitVec 12) (va : Nat) (force : Bool) : SM (Except Nat Leaf) := do
  let s ← get
  if onMapPage va && s.mapStands p asid then pure (.ok (mapLeaf va))
  else
    match (if force then none else s.gates.gtc.find? (fun e => e.holds gate p asid va)) with
    | some e =>
      match leafPa (s.part p) e.pte e.lvl va with
      | .ok f => pure (.ok f)
      | .error w => do
        gateForget gate p asid va
        pure (.error w)
    | none =>
      match ← (if force then walkFill gate p asid va else gateMiss gate p asid va) with
      | .error w => pure (.error w)
      | .ok (e, l) => do
        let s ← get
        pure (leafPa (s.part p) e l va)

/-- Translation with the permission check of an access (R23); a request that fails is forgotten (R21). -/
def gateLeaf (gate p : Nat) (asid : BitVec 12) (va : Nat) (a : Acc) (user : Bool) : SM (Except Nat Leaf) := do
  match ← translate gate p asid va false with
  | .error w => pure (.error w)
  | .ok f =>
    let w := f.perm.check a user
    if w = 0 then pure (.ok f)
    else do
      gateForget gate p asid va
      pure (.error w)

/-- A page is probed for an access: its walk status, 0 when it is granted; where only Wr is missing the page is walked again (R26). -/
def gateProbe (gate p : Nat) (asid : BitVec 12) (va : Nat) (a : Acc) (user : Bool) : SM Nat := do
  match ← gateLeaf gate p asid va a user with
  | .ok _ => pure 0
  | .error 9 => do
    match ← translate gate p asid va true with
    | .error w => pure w
    | .ok f =>
      let w := f.perm.check a user
      if w ≠ 0 then gateForget gate p asid va
      pure w
  | .error w => pure w

end Sys2Proof.Machine
end

