-- ==== Sys2Proof/Machine/Cache.lean ====
section
/-!
DEFINITION. The wafer-wide cache: the keystone directory and its events (R72-R77), the placement
engine (R78-R80), replicas and collapse (R81-R84), replacement and classes (R85-R91), epochs (R95).
-/

namespace Sys2Proof.Machine

/-! ## Classes, entries and copies -/

/-- The replacement-class register of a class of a partition (R88). -/
def State.rct (s : State) (p cls : Nat) : Word32 := ((s.part p).rct[cls]?).getD 0
/-- REPL of a class. -/
def State.clsRepl (s : State) (p cls : Nat) : Bool := (s.rct p cls).getLsbD 25
/-- IAGE of a class. -/
def State.clsAge (s : State) (p cls : Nat) : Nat := ((s.rct p cls).extractLsb' 16 2).toNat
/-- WPOL of a class (R90). -/
def State.clsPol (s : State) (p cls : Nat) : Nat := ((s.rct p cls).extractLsb' 22 2).toNat
/-- The class never allocates: WPOL = 2 or no ways (R89, R90). -/
def State.clsNoAlloc (s : State) (p cls : Nat) : Bool := s.clsPol p cls == 2 || (s.rct p cls).extractLsb' 0 16 == 0#16

/-- The system epoch of an ASID (R95). -/
def State.epochOf (s : State) (k : LineKey) : Nat :=
  match (s.part k.part).epochs.find? (fun e => e.1 == k.asid) with
  | some e => e.2
  | none => 0

/-- The directory entry of a line. -/
def State.dirEnt (s : State) (k : LineKey) : Option DirEnt := s.cache.dir.find? (fun e => e.key == k)
/-- Puts an entry at the head of the directory list: it is the one used last. -/
def putDir (e : DirEnt) : SM Unit :=
  modify fun s => { s with cache := { s.cache with dir := e :: s.cache.dir.filter (fun x => !(x.key == e.key)) } }
/-- Removes the entry of a line. -/
def delDir (k : LineKey) : SM Unit :=
  modify fun s => { s with cache := { s.cache with dir := s.cache.dir.filter (fun x => !(x.key == k)) } }
/-- A copy or home of a line in a bank. -/
def State.bankLine (s : State) (b : Nat) (k : LineKey) : Option BLine := s.cache.lines.find? (fun l => l.bank == b && l.key == k)
/-- Changes the lines of a bank that hold a key. -/
def updBank (b : Nat) (k : LineKey) (f : BLine → BLine) : SM Unit :=
  modify fun s =>
    { s with cache := { s.cache with lines := s.cache.lines.map (fun l => if l.bank == b && l.key == k then f l else l) } }
/-- Removes the bank lines that meet a condition. -/
def dropBank (p : BLine → Bool) : SM Unit :=
  modify fun s => { s with cache := { s.cache with lines := s.cache.lines.filter (fun l => !p l) } }

/-! ## Ways of a line -/

/-- A core's request for a line goes to its anchor. -/
def carryAnchor (core : Nat) (k : LineKey) : SM Unit := do
  let s ← get
  carry (coreQuarter core) (retQuarter (bankRet (s.anchor k)))

/-- Reads a line of memory for the anchor's reticle. -/
def memRead (k : LineKey) (kd pa : Nat) : SM (LineData × Bool) := do
  let s ← get
  carryMem (bankRet (s.anchor k)) k.part pa
  physRead k.part k.asid kd pa

/-- Writes bytes of a line of memory for the anchor's reticle. -/
def memWrite (k : LineKey) (kd pa : Nat) (mask : LineMask) (d : LineData) (poi : Bool) : SM Unit := do
  let s ← get
  carryMem (bankRet (s.anchor k)) k.part pa
  physWrite k.part k.asid kd pa mask d poi

/-! ## Write-backs -/

/-- Writes a home's dirty bytes to the physical address recorded at its fill (R25).  A checked write-back whose leaf no longer
grants Wr, is no longer valid or names another frame is an orphan: dropped, and the context failed (R184). -/
def writeBack (l : BLine) (checked : Bool) : SM Unit := do
  if l.dirty = 0 then pure ()
  else
    let s ← get
    let ok ←
      if checked then
        match ← translate (bankRet (s.anchor l.key)) l.key.part l.key.asid (keyVa l.key) false with
        | .ok f => pure (f.perm.wr && f.pa == l.pa)
        | .error _ => pure false
      else pure true
    if ok then memWrite l.key l.perm.kd l.pa l.dirty l.data l.poi
    else modify fun s => s.failAsid l.key.part l.key.asid 0x07 9 (BitVec.ofNat 64 (keyVa l.key))

/-- Writes back and removes the home, every copy and the entry of a line: events 8 and 10 of R77. -/
def removeLine (k : LineKey) (checked : Bool) : SM Unit := do
  let s ← get
  match s.dirEnt k with
  | none => dropBank (fun l => l.key == k)
  | some e =>
    match s.bankLine e.home k with
    | some l => writeBack l checked
    | none => pure ()
    dropBank (fun l => l.key == k)
    delDir k

/-- Event 11 of R77: the dirty bytes of a home go to memory and the home stays, clean. -/
def cleanLine (k : LineKey) : SM Unit := do
  let s ← get
  match s.dirEnt k with
  | none => pure ()
  | some e =>
    match s.bankLine e.home k with
    | some l => do
      writeBack l true
      updBank e.home k (fun l => { l with dirty := 0 })
    | none => pure ()

/-- Event 7 of R77: a replica or victim replica leaves its bank. -/
def copyEvicted (b : Nat) (k : LineKey) : SM Unit := do
  dropBank (fun l => l.bank == b && l.key == k)
  let s ← get
  match s.dirEnt k with
  | none => pure ()
  | some e =>
    let e := if e.vv && e.vloc == b then { e with vv := false } else { e with rmask := e.rmask.erase (bankRet b) }
    let e := if e.st == .replicated && e.rmask == [] then { e with st := .home } else e
    modify fun s => { s with cache := { s.cache with dir := s.cache.dir.map (fun x => if x.key == k then e else x) } }

/-- A line that stands in a bank and may not be chosen as a victim because it migrates (R79). -/
def State.migrating (s : State) (k : LineKey) (b : Nat) : Bool :=
  match s.dirEnt k with
  | some e => e.st == .migrating && (e.home == b || e.vloc == b)
  | none => false

/-- Chooses and frees a way of a bank for a new line of a class (R85); none when the class may fill no way. -/
def allocWay (b : Nat) (k : LineKey) (cls : Nat) : SM (Option Nat) := do
  let s ← get
  let inSet := s.cache.lines.filter (fun l => l.bank == b && (keySet l.key) == (keySet k))
  let cand := (List.range 16).filter (fun w => (s.rct k.part cls).getLsbD w &&
    inSet.all (fun l => l.way != w || (!l.pin && !s.migrating l.key b)))
  match cand.find? (fun w => inSet.all (fun l => l.way != w)) with
  | some w => pure (some w)
  | none =>
    let held := inSet.filter (fun l => cand.contains l.way)
    let top := held.foldl (fun m l => max m l.age) 0
    match cand.find? (fun w => held.any (fun l => l.way == w && l.age == top)) with
    | none => pure none
    | some w => do
      match held.find? (fun l => l.way == w) with
      | some v => if v.role == .home then removeLine v.key true else copyEvicted b v.key
      | none => pure ()
      modify fun s => { s with cache := { s.cache with lines := s.cache.lines.map (fun l =>
        if l.bank == b && (keySet l.key) == (keySet k) && cand.contains l.way then { l with age := l.age + (3 - top) } else l) } }
      pure (some w)

/-- Adds a line to a bank. -/
def addBank (l : BLine) : SM Unit := modify fun s => { s with cache := { s.cache with lines := l :: s.cache.lines } }

/-- Makes room in the directory set of a new entry (R73); false when every way is Pinned or Migrating. -/
def dirRoom (k : LineKey) : SM Bool := do
  let s ← get
  let a := s.anchor k
  let inSet := s.cache.dir.filter (fun e => e.anchor == a && (keyDirSet e.key) == (keyDirSet k))
  if inSet.length < 16 then pure true
  else
    match inSet.reverse.find? (fun e => e.st == .home || e.st == .replicated) with
    | some e => do removeLine e.key true; pure true
    | none => pure false

/-! ## Counted accesses and migration -/

/-- Migration budget used at a bank in this window (R80). -/
def State.budget (s : State) (b : Nat) : Nat :=
  match s.cache.win.find? (fun w => w.bank == b) with
  | some w => w.used
  | none => 0

/-- Changes a bank's window record. -/
def updWin (b : Nat) (f : BankWin → BankWin) : SM Unit :=
  modify fun s =>
    let w := (s.cache.win.find? (fun w => w.bank == b)).getD { bank := b, bloom := [], used := 0 }
    { s with cache := { s.cache with win := f w :: s.cache.win.filter (fun w => !(w.bank == b)) } }

/-- Records a counted access and tests the migration trigger (R78, R80). -/
def countAcc (k : LineKey) (ret : Nat) : SM Unit := do
  let s ← get
  match s.dirEnt k with
  | none => pure ()
  | some e =>
    let hist := (ret :: e.hist).take 8
    let trig := decide (e.hcnt = 7)
    let e := { e with hist := hist, hcnt := min 7 (e.hcnt + 1) }
    let mig := (s.part k.part).mig
    let lim := (mig.extractLsb' 0 8).toNat
    let tgt := s.placeBank ret k
    let r := hist.find? (fun r => decide ((hist.filter (fun x => x == r)).length ≥ 7))
    match r with
    | some ρ =>
      match (if ρ = ret then tgt else s.placeBank ρ k) with
      | some t =>
        if trig && e.st == .home && ρ != bankRet e.home && mig.getLsbD 31 && decide (s.budget e.home < lim) &&
            decide (s.budget t < lim) then do
          if e.vv then dropBank (fun l => l.bank == e.vloc && l.key == k && l.role == .victim)
          updWin e.home (fun w => { w with used := w.used + 1 })
          updWin t (fun w => { w with used := w.used + 1 })
          putDir { e with st := .migrating, vv := false, vloc := t }
        else putDir e
      | none => putDir e
    | none => putDir e

/-- The banks that RMASK and VLOC name and that have not been sent an invalidation before (R82). -/
def State.copyBanks (s : State) (e : DirEnt) : List Nat :=
  (s.cache.lines.filter (fun l => l.key == e.key && !s.cache.invs.any (fun i => i.bank == l.bank && i.key == e.key) &&
    ((l.role == .replica && e.rmask.contains (bankRet l.bank)) || (l.role == .victim && e.vv && l.bank == e.vloc)))).map (fun l => l.bank)

/-- Sends an invalidation to every bank that RMASK and VLOC name (R82): step 2 of a collapse. -/
def collapse (k : LineKey) : SM Unit := do
  let s ← get
  match s.dirEnt k with
  | none => pure ()
  | some e =>
    let bs := s.copyBanks e
    modify fun s => { s with cache := { s.cache with invs := s.cache.invs ++ bs.map (fun b => { bank := b, key := k }) } }
    putDir { e with rmask := [], vv := false, cpend := e.cpend + bs.length, st := if e.st == .replicated then .home else e.st }

/-- A bank takes an invalidation: it drops its copy and acknowledges (R82 step 3). -/
def takeInv (i : Inv) : SM Unit := do
  dropBank (fun l => l.bank == i.bank && l.key == i.key && l.role != .home)
  modify fun s => { s with cache := { s.cache with acks := s.cache.acks ++ [i.key] } }

/-- The anchor takes an acknowledgement. -/
def takeAck (k : LineKey) : SM Unit :=
  modify fun s => { s with cache := { s.cache with dir := s.cache.dir.map (fun e =>
    if e.key == k then { e with cpend := e.cpend - 1 } else e) } }

/-- Every outstanding invalidation of lines that meet a condition is taken and acknowledged (R83). -/
def drainInvs (p : LineKey → Bool) : SM Unit := do
  let s ← get
  set { s with cache := { s.cache with invs := s.cache.invs.filter (fun i => !p i.key) } }
  (s.cache.invs.filter (fun i => p i.key)).forM takeInv
  let s ← get
  set { s with cache := { s.cache with acks := s.cache.acks.filter (fun k => !p k) } }
  (s.cache.acks.filter p).forM takeAck

/-- Applies written bytes at a home that is not Migrating (R77 event 3, R82, R90).  A hit sets the line's age to 0; the write that built the home
leaves the age it was filled with (R85). -/
def homeApply (ret : Nat) (k : LineKey) (mask : LineMask) (d : LineData) (hit : Bool) : SM Unit := do
  let s ← get
  match s.dirEnt k with
  | none => pure ()
  | some e =>
    updBank e.home k (fun l =>
      { l with data := mergeLine mask l.data d, dirty := l.dirty ||| mask, age := if hit then 0 else l.age,
               poi := l.poi && mask != BitVec.allOnes 128 })
    if e.vv || e.rmask != [] then collapse k
    if s.clsPol k.part e.cls == 1 || s.clsPol k.part e.cls == 2 then cleanLine k
    if e.st == .home || e.st == .replicated then countAcc k ret

/-- A reply of a bank installs or refreshes the requester's home hint (R74). -/
def setHint (core : Nat) (k : LineKey) (b : Nat) (h r : Bool) : SM Unit :=
  modify fun s => s.updCore core (fun c =>
    let e : HintEnt := { key := k, bank := b, h := h, r := r }
    { c with hints := (e :: c.hints.filter (fun x => !(x.key == k))).take 256 })

/-- Event 5 of R77: a migration ends (R79).  The target takes the line as a new home of its class, or the migration is abandoned when it finds no
way. -/
def moveHome (k : LineKey) : SM Unit := do
  let s ← get
  match s.dirEnt k with
  | none => pure ()
  | some e =>
    if e.st != .migrating then pure ()
    else
      match s.bankLine e.home k with
      | none => delDir k
      | some l => do
        match ← allocWay e.vloc k e.cls with
        | some w => do
          dropBank (fun x => x.bank == e.home && x.key == k)
          addBank { l with bank := e.vloc, way := w, age := s.clsAge k.part e.cls }
          putDir { e with st := .home, home := e.vloc, vloc := 0, hist := [], hcnt := 0 }
        | none => do
          updWin e.home (fun w => { w with used := w.used - 1 })
          updWin e.vloc (fun w => { w with used := w.used - 1 })
          putDir { e with st := .home, vloc := 0 }

/-- A migration ends, and the writes held meanwhile are taken and acknowledged in their order (R74, R77). -/
def migrationEnd (k : LineKey) : SM Unit := do
  moveHome k
  let s ← get
  set { s with cache := { s.cache with held := s.cache.held.filter (fun h => !(h.key == k)) } }
  (s.cache.held.filter (fun h => h.key == k)).forM (fun h => do
    homeApply (coreRet h.core) k h.mask h.data true
    let s ← get
    match s.dirEnt k with
    | some e => setHint h.core k e.home true (s.clsRepl k.part e.cls)
    | none => pure ())

/-- Ends a running migration of a line before an action that waits for it. -/
def settle (k : LineKey) : SM Unit := do
  let s ← get
  match s.dirEnt k with
  | some e => if e.st == .migrating then migrationEnd k else pure ()
  | none => pure ()

/-! ## Reads and writes at the anchor -/

/-- The offset in the aperture region of a physical address (R29, R30). -/
def aperOf (pa : Nat) : Option Nat := if pa / 2 ^ 50 = 3 then some (pa % 2 ^ 50) else none

/-- What a read of a line returns: bytes, poison, stored permissions, and the aperture that the address names. -/
structure Fill where
  data : LineData
  poi  : Bool
  perm : Perm
  pa   : Nat
  aper : Option Nat
  deriving DecidableEq, Repr

/-- What kind of read reaches the cache: replicate request, `.strm`, pin request, counted (R78, R81, R86, R87). -/
structure ReadKind where
  repl : Bool := false
  strm : Bool := false
  pin  : Bool := false
  cnt  : Bool := true

/-- Bits of the second-touch filter for a line (R91). -/
def bloomBits (k : LineKey) : List Nat :=
  let a := k.asid.toNat
  let va := (keyVa k)
  let f (lo : Nat) := va / 2 ^ lo % 4096
  let rot (x n : Nat) := (x * 2 ^ n + x / 2 ^ (12 - n)) % 4096
  let rev (x : Nat) := (List.range 12).foldl (fun acc i => acc + (x / 2 ^ i % 2) * 2 ^ (11 - i)) 0
  [f 7 ^^^ f 31 ^^^ a, f 13 ^^^ f 37 ^^^ rot a 4, rev (f 7) ^^^ f 19 ^^^ f 44 ^^^ rot a 8]

/-- Step 1 of R76: the second-touch filter of the class (R91); false for a first touch, whose bits are then set. -/
def secondTouch (k : LineKey) (cls : Nat) : SM Bool := do
  let s ← get
  if !(s.rct k.part cls).getLsbD 24 then pure true
  else
    let b := s.anchor k
    let bits := bloomBits k
    let old := ((s.cache.win.find? (fun w => w.bank == b)).map (fun w => w.bloom)).getD []
    if bits.all (fun x => old.contains x) then pure true
    else do
      updWin b (fun w => { w with bloom := w.bloom ++ bits.filter (fun x => !w.bloom.contains x) })
      pure false

/-- A pin request is admitted at a home bank (R86). -/
def State.pinOK (s : State) (b : Nat) (k : LineKey) (cls : Nat) : Bool :=
  (s.rct k.part cls).getLsbD 26 &&
    decide ((s.cache.lines.filter (fun l => l.bank == b && (keySet l.key) == (keySet k) && l.pin)).length < 8)

/-- Builds a home for a line at the requester's reticle from a translated address; none when it is not allocated. -/
def allocHome (ret : Nat) (k : LineKey) (f : Leaf) (age : Nat) : SM (Option BLine) := do
  let s ← get
  match s.placeBank ret k with
  | none => pure none
  | some b => do
    if ← dirRoom k then
      match ← allocWay b k f.perm.cls with
      | none => pure none
      | some w => do
        let (d, poi) ← memRead k f.perm.kd f.pa
        let s ← get
        let l : BLine := { bank := b, way := w, key := k, role := .home, age := age, pin := false, data := d, dirty := 0,
                           epoch := s.epochOf k, perm := f.perm, pa := f.pa, poi := poi }
        addBank l
        putDir { anchor := s.anchor k, key := k, st := .home, home := b, rmask := [], vloc := 0, vv := false, cpend := 0,
                 hist := [], hcnt := 0, cls := f.perm.cls }
        pure (some l)
    else pure none

/-- A stale home is filled again under the current leaf after its dirty bytes went to memory; its copies are dropped (R95).  A leaf that now names
an aperture leaves no line in the cache (R30, R76). -/
def refreshHome (k : LineKey) : SM (Except Nat Unit) := do
  let s ← get
  match s.dirEnt k with
  | none => pure (.ok ())
  | some e =>
    match s.bankLine e.home k with
    | none => pure (.ok ())
    | some l =>
      if l.epoch = s.epochOf k then pure (.ok ())
      else do
        writeBack l false
        match ← translate (bankRet (s.anchor k)) k.part k.asid (keyVa k) false with
        | .error w => do dropBank (fun x => x.key == k); delDir k; pure (.error w)
        | .ok f => do
          if f.pa / 2 ^ 50 = 3 then do
            dropBank (fun x => x.key == k)
            delDir k
          else do
            let (d, poi) ← memRead k f.perm.kd f.pa
            dropBank (fun x => x.key == k && x.role != .home)
            updBank e.home k (fun l => { l with data := d, poi := poi, dirty := 0, epoch := s.epochOf k, perm := f.perm, pa := f.pa })
            putDir { e with rmask := [], vv := false, cls := f.perm.cls, st := if e.st == .replicated then .home else e.st }
          pure (.ok ())

/-- A write to a line held without Wr: the page is walked again, and a leaf that grants Wr gives it to every copy (R26). -/
def upgrade (k : LineKey) : SM (Except Nat Leaf) := do
  let s ← get
  match ← translate (bankRet (s.anchor k)) k.part k.asid (keyVa k) true with
  | .error w => pure (.error w)
  | .ok f =>
    if f.perm.wr then do
      let g (m : Perm) : Perm := { m with wr := true }
      modify fun s =>
        let cs := s.cores.map (fun (n, c) => (n, { c with l1 := c.l1.map (fun l => if l.key == k then { l with perm := g l.perm } else l) }))
        let bl := s.cache.lines.map (fun l => if l.key == k then { l with perm := g l.perm } else l)
        { s with cores := cs, cache := { s.cache with lines := bl } }
      pure (.ok f)
    else pure (.error 9)

/-- The leaf of a line that no bank holds, for an access: through the gate, with the upgrade of R26 when only Wr is missing. -/
def missLeaf (k : LineKey) (a : Acc) (user : Bool) : SM (Except Nat Leaf) := do
  let s ← get
  let g := bankRet (s.anchor k)
  match ← gateLeaf g k.part k.asid (keyVa k) a user with
  | .ok f => pure (.ok f)
  | .error 9 => do
    match ← upgrade k with
    | .error w => pure (.error w)
    | .ok f =>
      let w := f.perm.check a user
      if w = 0 then pure (.ok f)
      else do
        gateForget g k.part k.asid (keyVa k)
        pure (.error w)
  | .error w => pure (.error w)

/-- Checks stored permissions, with the upgrade of R26 when only Wr is missing. -/
def checkStored (k : LineKey) (m : Perm) (a : Acc) (user : Bool) : SM (Except Nat Unit) := do
  let w := m.check a user
  if w = 0 then pure (.ok ())
  else if w = 9 then
    match ← upgrade k with
    | .error w => pure (.error w)
    | .ok _ =>
      let w := Perm.check { m with wr := true } a user
      pure (if w = 0 then .ok () else .error w)
  else pure (.error w)

/-- Bytes of a line under the writes of a core that wait at the anchor while the line migrates: the core reads what it wrote (R77, R162). -/
def State.ownWrites (s : State) (core : Nat) (k : LineKey) (d : LineData) : LineData :=
  (s.cache.held.filter (fun h => h.core == core && h.key == k)).foldl (fun d h => mergeLine h.mask d h.data) d

/-- A read served from a bank line: its age becomes 0 and the requester's hint names the bank. -/
def serve (core : Nat) (l : BLine) : SM (Except Nat Fill) := do
  carry (coreQuarter core) (retQuarter (bankRet l.bank))
  updBank l.bank l.key (fun x => { x with age := 0 })
  let s ← get
  setHint core l.key l.bank (l.role == .home) (s.clsRepl l.key.part l.perm.cls)
  pure (.ok { data := s.ownWrites core l.key l.data, poi := l.poi, perm := l.perm, pa := l.pa, aper := none })

/-- A line becomes Pinned (event 9 of R77). -/
def pinHome (b : Nat) (k : LineKey) : SM Unit := do
  updBank b k (fun x => { x with pin := true })
  let s ← get
  match s.dirEnt k with
  | some e => putDir { e with st := .pinned }
  | none => pure ()

/-- A home for a missed line when R76 allocates one: a second touch of a class that allocates, and no aperture. -/
def missHome (ret : Nat) (k : LineKey) (f : Leaf) (strm : Bool) : SM (Option BLine) := do
  let second ← secondTouch k f.perm.cls
  let s ← get
  if second && !s.clsNoAlloc k.part f.perm.cls && f.pa / 2 ^ 50 != 3 then allocHome ret k f (if strm then 3 else s.clsAge k.part f.perm.cls)
  else pure none

/-- A read that finds no entry at the anchor (R76). -/
def readMiss (core : Nat) (k : LineKey) (a : Acc) (user : Bool) (rk : ReadKind) : SM (Except Nat Fill) := do
  match ← missLeaf k a user with
  | .error w => pure (.error w)
  | .ok f => do
    match ← missHome (coreRet core) k f rk.strm with
    | none =>
      let (d, poi) ← memRead k f.perm.kd f.pa
      pure (.ok { data := d, poi := poi, perm := f.perm, pa := f.pa, aper := aperOf f.pa })
    | some l => do
      let s ← get
      if rk.pin && s.pinOK l.bank k f.perm.cls then pinHome l.bank k
      if !rk.strm then countAcc k (coreRet core)
      setHint core k l.bank true (s.clsRepl k.part f.perm.cls)
      pure (.ok { data := l.data, poi := l.poi, perm := l.perm, pa := l.pa, aper := none })

/-- A replica of a home is placed on a reticle (event 2 of R77), unless its bank finds no way. -/
def placeReplica (ret : Nat) (k : LineKey) (h : BLine) (cls : Nat) : SM Unit := do
  let s ← get
  match s.placeBank ret k with
  | none => pure ()
  | some b => do
    match ← allocWay b k cls with
    | none => pure ()
    | some w => do
      addBank { h with bank := b, way := w, role := .replica, age := max (s.clsAge k.part cls) 2, pin := false, dirty := 0 }
      let s ← get
      match s.dirEnt k with
      | some e => putDir { e with st := .replicated, rmask := ret :: e.rmask }
      | none => pure ()

/-- A read at the anchor: R76 when there is no entry, else events 1, 2 and 9 of R77. -/
def anchorRead (core : Nat) (k : LineKey) (a : Acc) (user : Bool) (rk : ReadKind) : SM (Except Nat Fill) := do
  carryAnchor core k
  let ret := coreRet core
  match ← refreshHome k with
  | .error w => pure (.error w)
  | .ok _ =>
  let s ← get
  match s.dirEnt k with
  | none => readMiss core k a user rk
  | some e => do
    putDir e
    match s.bankLine e.home k with
    | none => do delDir k; pure (.error 1)
    | some h => do
      match ← checkStored k h.perm a user with
      | .error w => pure (.error w)
      | .ok _ =>
        let s ← get
        let live := e.st == .home || e.st == .replicated
        let on (r : Role) := s.cache.lines.find? (fun l => l.key == k && l.role == r && bankRet l.bank == ret)
        if rk.pin && live && s.pinOK e.home k e.cls then do
          collapse k
          drainInvs (fun x => x == k)
          pinHome e.home k
          serve core h
        else
          match (if live && e.rmask.contains ret then on .replica else none), (if live && e.vv then on .victim else none) with
          | some l, _ => serve core l
          | none, some l => serve core l
          | none, none => do
            if (rk.repl || s.clsRepl k.part e.cls) && !rk.strm && live && bankRet e.home != ret && e.cpend == 0 then
              placeReplica ret k h e.cls
            let r ← serve core h
            if live && rk.cnt && !rk.strm then countAcc k ret
            pure r

/-- A read that leaves the L1 (R75): to the bank the hint names when that bank holds the line, else to the anchor. -/
def wcRead (core : Nat) (k : LineKey) (a : Acc) (user : Bool) (rk : ReadKind) : SM (Except Nat Fill) := do
  let s ← get
  let c := s.core core
  match c.hints.find? (fun h => h.key == k) with
  | none => anchorRead core k a user rk
  | some h =>
    let rk := { rk with repl := rk.repl || h.r }
    match s.bankLine h.bank k with
    | none => anchorRead core k a user rk
    | some l =>
      let other := rk.repl && bankRet h.bank != coreRet core
      if other || rk.pin || l.epoch ≠ s.epochOf k || (a != .load && a != .fetch) || l.perm.check a user ≠ 0 then
        anchorRead core k a user rk
      else do
        if l.role == .home && rk.cnt && !rk.strm then
          modify fun s =>
            let n : Notice := { key := k, home := h.bank, ret := coreRet core }
            { s with cache := { s.cache with notices := s.cache.notices ++ [n] } }
        serve core l

/-- The anchor takes a count notice (R78): dropped when the entry has no such home or is not Home or Replicated. -/
def takeNotice (n : Notice) : SM Unit := do
  let s ← get
  match s.dirEnt n.key with
  | some e => if (e.st == .home || e.st == .replicated) && e.home == n.home then countAcc n.key n.ret else pure ()
  | none => pure ()

/-- A write that reaches the anchor (R75-R77 event 3).  `wait` ends a running migration first, as a writer that waits for its
acknowledgement sees it; else the write is held at the anchor.  A write that finds no entry and whose page no longer grants
it is an orphan write-back; one that is not allocated is merged into memory (R76). -/
def anchorWrite (core : Nat) (k : LineKey) (mask : LineMask) (d : LineData) (wait strm : Bool) : SM Unit := do
  carryAnchor core k
  let ret := coreRet core
  if wait then settle k
  let _ ← refreshHome k
  let s ← get
  match s.dirEnt k with
  | some e =>
    if e.st == .migrating then
      let h : HeldWrite := { core := core, key := k, mask := mask, data := d }
      set { s with cache := { s.cache with held := s.cache.held ++ [h] } }
    else do
      homeApply ret k mask d true
      setHint core k e.home true (s.clsRepl k.part e.cls)
  | none => do
    match ← translate (bankRet (s.anchor k)) k.part k.asid (keyVa k) false with
    | .error _ => modify fun s => s.failAsid k.part k.asid 0x07 9 (BitVec.ofNat 64 (keyVa k))
    | .ok f =>
      if !f.perm.wr then modify fun s => s.failAsid k.part k.asid 0x07 9 (BitVec.ofNat 64 (keyVa k))
      else do
        match ← missHome ret k f strm with
        | some l => do
          homeApply ret k mask d false
          let s ← get
          setHint core k l.bank true (s.clsRepl k.part f.perm.cls)
        | none => if f.pa / 2 ^ 50 = 3 then pure () else memWrite k f.perm.kd f.pa mask d false

/-- Permission for a store that misses (R315): the stored permission of a line that a bank holds under the current epoch (R95), else the gate's
leaf, with the upgrade of R26; also the line's physical address and the aperture that the page names.  A bank's reply names it in the core's hint
(R74). -/
def probeStore (core : Nat) (k : LineKey) (a : Acc) (user : Bool) : SM (Except Nat (Perm × Nat × Option Nat)) := do
  carryAnchor core k
  match ← refreshHome k with
  | .error w => pure (.error w)
  | .ok _ =>
  let s ← get
  match (s.dirEnt k).bind (fun e => s.bankLine e.home k) with
  | some l => do
    match ← checkStored k l.perm a user with
    | .error w => pure (.error w)
    | .ok _ => do
      let s ← get
      setHint core k l.bank true (s.clsRepl k.part l.perm.cls)
      pure (.ok ({ l.perm with wr := l.perm.wr || a != .load }, l.pa, none))
  | none => do
    match ← missLeaf k a user with
    | .error w => pure (.error w)
    | .ok f => pure (.ok (f.perm, f.pa, aperOf f.pa))

/-- An atomic at the home (R77 event 3, R93): the line is read and changed in one step.  An atomic that changes no byte is an access, counted
like the others, and no write: no copy collapses. -/
def homeAtomic (core : Nat) (k : LineKey) (user : Bool) (f : LineData → LineData × LineMask) : SM (Except Nat Fill) := do
  carryAnchor core k
  let ret := coreRet core
  settle k
  match ← refreshHome k with
  | .error w => pure (.error w)
  | .ok _ =>
  let s ← get
  match s.dirEnt k with
  | some e => do
    putDir e
    match s.bankLine e.home k with
    | none => do delDir k; pure (.error 1)
    | some h => do
      match ← checkStored k h.perm .atomic user with
      | .error w => pure (.error w)
      | .ok _ => do
        let (d, m) := f h.data
        if h.poi || mergeLine m h.data d = h.data then do
          updBank e.home k (fun x => { x with age := 0 })
          if e.st == .home || e.st == .replicated then countAcc k ret
        else homeApply ret k m d true
        let s ← get
        setHint core k e.home true (s.clsRepl k.part e.cls)
        pure (.ok { data := h.data, poi := h.poi, perm := h.perm, pa := h.pa, aper := none })
  | none => do
    match ← missLeaf k .atomic user with
    | .error w => pure (.error w)
    | .ok g => do
      match ← missHome ret k g false with
      | some l => do
        let (d, m) := f l.data
        if l.poi || mergeLine m l.data d = l.data then countAcc k ret else homeApply ret k m d false
        let s ← get
        setHint core k l.bank true (s.clsRepl k.part g.perm.cls)
        pure (.ok { data := l.data, poi := l.poi, perm := g.perm, pa := g.pa, aper := none })
      | none =>
        if g.pa / 2 ^ 50 = 3 then pure (.ok { data := 0, poi := false, perm := g.perm, pa := g.pa, aper := some (g.pa % 2 ^ 50) })
        else do
          let (x, poi) ← memRead k g.perm.kd g.pa
          let (d, m) := f x
          if !poi && mergeLine m x d != x then memWrite k g.perm.kd g.pa m d false
          pure (.ok { data := x, poi := poi, perm := g.perm, pa := g.pa, aper := none })

/-- Every home of an ASID whose line meets a condition writes its dirty bytes to memory and stays, clean (R94 at `.sys`). -/
def sysClean (p : Nat) (asid : BitVec 12) (cond : Nat → Bool) : SM Unit := do
  let s ← get
  let ks := (s.cache.lines.filter (fun l => l.key.part == p && l.key.asid == asid && l.role == .home && cond l.key.ln)).map (fun l => l.key)
  ks.forM (fun k => do settle k; cleanLine k)

/-- Advances the system epoch of an ASID (R95). -/
def bumpEpoch (p : Nat) (asid : BitVec 12) : SM Unit :=
  modify fun s =>
    s.updPart p (fun q =>
      let e := ((q.epochs.find? (fun e => e.1 == asid)).map (fun e => e.2)).getD 0
      { q with epochs := (asid, (e + 1) % 256) :: q.epochs.filter (fun e => !(e.1 == asid)),
               acqs := (asid, s.plat.cc) :: q.acqs.filter (fun e => decide (s.plat.cc < e.2 + 16384)) })

/-- 128 system acquires of the ASID have completed within the last 16,384 cc (R95). -/
def State.acqFull (s : State) (p : Nat) (asid : BitVec 12) : Bool :=
  decide (((s.part p).acqs.filter (fun e => e.1 == asid && decide (s.plat.cc < e.2 + 16384))).length ≥ 128)

end Sys2Proof.Machine
end

