-- ==== Sys2Proof/Machine/L1.lean ====
section
/-!
DEFINITION. A core's L1 (R92), the accesses of one line through it, atomics at the home (R93), releases and acquires (R94, R95), and
the cache actions over ranges.
-/

namespace Sys2Proof.Machine

/-- A line of a core's L1. -/
def State.l1Line (s : State) (core : Nat) (k : LineKey) : Option L1Line := (s.core core).l1.find? (fun l => l.key == k)

/-- Set of a line in an L1: VA[15:7] (log 7). -/
def l1Set (k : LineKey) : Nat := k.ln % 512

/-- Puts a line in the L1 at the position used last, or with `.strm` at the one used least. -/
def putL1 (core : Nat) (l : L1Line) (strm : Bool) : SM Unit :=
  modify fun s => s.updCore core (fun c =>
    let rest := c.l1.filter (fun x => !(x.key == l.key))
    { c with l1 := if strm then rest ++ [l] else l :: rest })

/-- Removes a line of the L1. -/
def dropL1 (core : Nat) (p : L1Line → Bool) : SM Unit :=
  modify fun s => s.updCore core (fun c => { c with l1 := c.l1.filter (fun l => !p l) })

/-- The live bank nearest to a core's router, ties to the lower id, in the core's partition (R84). -/
def State.nearBank (s : State) (core : Nat) : Option Nat :=
  let p := s.partOfCore core
  let bs := (s.part p).reticles.flatMap (fun r => (List.range 96).map (fun i => 96 * r + i))
  (bs.filter s.bankLive).foldl (fun best b =>
    match best with
    | none => some b
    | some x => if hops (bankCore b) core < hops (bankCore x) core then some b else some x) none

/-- The invalidations on their way to a bank for a line arrive before what the anchor sends there next. -/
def landInvs (b : Nat) (k : LineKey) : SM Unit := do
  let s ← get
  let mine (i : Inv) : Bool := i.bank == b && i.key == k
  set { s with cache := { s.cache with invs := s.cache.invs.filter (fun i => !mine i) } }
  (s.cache.invs.filter mine).forM takeInv

/-- The victim replica of a line is placed in a bank as the line stands at its home, and an earlier one is dropped; a bank with no way for it, or
that holds the line in another role, takes none. -/
def placeVictim (b : Nat) (k : LineKey) (cls : Nat) (h : BLine) : SM Unit := do
  landInvs b k
  let s ← get
  let l (w : Nat) : BLine := { h with bank := b, way := w, role := .victim, age := max (s.clsAge k.part cls) 2, pin := false, dirty := 0 }
  match s.bankLine b k with
  | some old => if old.role == .victim then updBank b k (fun x => l x.way)
  | none => do
    match ← allocWay b k cls with
    | none => pure ()
    | some w => do
      dropBank (fun x => x.key == k && x.role == .victim)
      addBank (l w)
      let s ← get
      match s.dirEnt k with
      | some e => putDir { e with vv := true, vloc := b }
      | none => pure ()

/-- A victim replica for a line that an L1 evicts (R84, event 6 of R77). -/
def victimReplica (core : Nat) (k : LineKey) : SM Unit := do
  let s ← get
  match s.dirEnt k with
  | none => pure ()
  | some e =>
    let ret := coreRet core
    let held := s.cache.lines.any (fun l => l.key == k && bankRet l.bank == ret)
    if !(e.st == .home || e.st == .replicated) || held then pure ()
    else
      match s.nearBank core, s.bankLine e.home k with
      | some b, some h => do
        placeVictim b k e.cls h
        let s ← get
        if (s.bankLine b k).any (fun l => l.role == .victim) then setHint core k b false (s.clsRepl k.part e.cls)
      | _, _ => pure ()

/-- The L1 evicts a line (R92, R84): its dirty bytes go to the home, then a victim replica may be made. -/
def evictL1 (core : Nat) (l : L1Line) (wait : Bool) : SM Unit := do
  dropL1 core (fun x => x.key == l.key)
  if l.dirty ≠ 0 then anchorWrite core l.key l.dirty l.data wait false
  victimReplica core l.key

/-- Makes room in the L1 set of a line: evicts the least recently used unpinned line, else the least recently used (R92). -/
def l1Room (core : Nat) (k : LineKey) : SM Unit := do
  let s ← get
  let inSet := (s.core core).l1.filter (fun l => l1Set l.key == l1Set k && l.key != k)
  if inSet.length < 12 then pure ()
  else
    match inSet.reverse.find? (fun l => !l.pin) with
    | some l => evictL1 core l true
    | none =>
      match inSet.reverse.head? with
      | some l => evictL1 core l true
      | none => pure ()

/-- What an access to one line gives: its bytes, or the aperture it names with the bytes of it that the L1 holds and the warp whose registers
they show (R30). -/
structure LineRes where
  data : LineData
  poi  : Bool
  aper : Option Nat
  held : LineMask := 0
  own  : Option Nat := none
  deriving DecidableEq, Repr

/-- Hints of a load as they reach the caches: bypass the L1's clean bytes (R172), `.pin`, `.strm`, `.repl`, and served from memory
without allocation (`.strm` at `.sys` or `.pod`, R87). -/
structure LoadKind where
  beyond : Bool := false
  pin    : Bool := false
  strm   : Bool := false
  repl   : Bool := false
  mem    : Bool := false

/-- Bytes that a core's L1 keeps of a line when the line is read again: its dirty bytes, and all that a pinned line holds (R92, R96). -/
def L1Line.keeps (l : L1Line) : LineMask := if l.pin then l.valid else l.dirty

/-- Bytes that lie over others of a line, each with its poison: a line covered whole has the poison of what covers it (R400). -/
def coverLine (mask : LineMask) (top base : LineData × Bool) : LineData × Bool :=
  (mergeLine mask base.1 top.1, if mask = BitVec.allOnes 128 then top.2 else base.2 || (mask != 0 && top.2))

/-- A line as a core's L1 keeps it over what the caches beyond hold. -/
def State.overL1 (s : State) (core : Nat) (k : LineKey) (d : LineData × Bool) : LineData × Bool :=
  match s.l1Line core k with
  | some l => coverLine l.keeps (l.data, l.poi) d
  | none => d

/-- Bytes of a line under the writes of a core that wait at the anchor while the line migrates, with its poison. -/
def State.underHeld (s : State) (core : Nat) (k : LineKey) (d : LineData × Bool) : LineData × Bool :=
  (s.cache.held.filter (fun h => h.core == core && h.key == k)).foldl (fun d h => coverLine h.mask (h.data, false) d) d

/-- Bytes of a line from memory or an aperture with no allocation: dirty bytes that the home or this core's L1 holds are the current ones, and
what the L1 held before is not read again after them (R87, R96, R162, R165). -/
def loadUncached (core : Nat) (k : LineKey) (a : Acc) (user : Bool) : SM (Except Nat LineRes) := do
  carryAnchor core k
  drainInvs (fun x => x == k)
  let s ← get
  match ← gateLeaf (bankRet (s.anchor k)) k.part k.asid (keyVa k) a user with
  | .error w => pure (.error w)
  | .ok f =>
    let r ← memRead k f.perm.kd f.pa
    match aperOf f.pa with
    | some o => pure (.ok { data := r.1, poi := false, aper := some o })
    | none => do
      let s ← get
      let r := match (s.dirEnt k).bind (fun e => s.bankLine e.home k) with
        | some h => coverLine h.dirty (h.data, h.poi) r
        | none => r
      let (d, poi) := s.overL1 core k (s.underHeld core k r)
      modify fun s => s.updCore core (fun c =>
        { c with l1 := (c.l1.map (fun l => if l.key == k then { l with valid := l.keeps } else l)).filter (fun l => l.key != k || l.valid != 0) })
      pure (.ok { data := d, poi := poi, aper := none })

/-- A line that a load pins in the L1: a set takes it while it holds fewer than 6 pinned lines (R87). -/
def State.l1Pin (s : State) (core : Nat) (k : LineKey) (pin : Bool) : Bool :=
  pin && decide (((s.core core).l1.filter (fun x => l1Set x.key == l1Set k && x.pin)).length < 6)

/-- The L1 takes a line from beyond it and merges it under the bytes it keeps (R92); a line of a register aperture is taken without bytes, which
the accesses bring one by one (R30, R42). -/
def fillL1 (core : Nat) (k : LineKey) (a : Acc) (user : Bool) (lk : LoadKind) : SM (Except Nat LineRes) := do
  match ← wcRead core k a user { repl := lk.repl, strm := lk.strm, pin := lk.pin } with
  | .error w => pure (.error w)
  | .ok f => do
    l1Room core k
    let s ← get
    match f.aper with
    | some o => do
      let held : LineMask := if plainAper o then BitVec.allOnes 128 else 0
      putL1 core { key := k, data := f.data, valid := held, dirty := 0, perm := f.perm, pa := f.pa, pin := s.l1Pin core k lk.pin, poi := false, own := none } lk.strm
      pure (.ok { data := f.data, poi := false, aper := some o, held := held })
    | none => do
      let old := s.l1Line core k
      let (d, poi) := s.overL1 core k (f.data, f.poi)
      putL1 core { key := k, data := d, valid := BitVec.allOnes 128, dirty := ((old.map (fun l => l.dirty)).getD 0), perm := f.perm, pa := f.pa,
                   pin := old.any (fun l => l.pin) || s.l1Pin core k lk.pin, poi := poi, own := none } lk.strm
      pure (.ok { data := d, poi := poi, aper := none })

/-- The L1 serves a line that it holds, of an aperture the bytes it holds (R42); a load with `.pin` pins it there and asks for the pin beyond it
(R86, R87). -/
def hitL1 (core : Nat) (k : LineKey) (l : L1Line) (user : Bool) (lk : LoadKind) : SM LineRes := do
  if lk.pin then do
    let _ ← wcRead core k .load user { pin := true }
    pure ()
  let s ← get
  putL1 core { l with pin := l.pin || s.l1Pin core k lk.pin } false
  match aperOf l.pa with
  | some o => pure { data := l.data, poi := false, aper := some o, held := l.valid, own := l.own }
  | none => pure { data := l.data, poi := l.poi, aper := none }

/-- The L1 line serves a read that needs bytes: it holds them; a line of a register aperture always does, and of the other apertures a read beyond
the L1 is made afresh only with `.strm` at `.sys` or after a system-scope acquire (R30, R42). -/
def L1Line.served (l : L1Line) (need : LineMask) (beyond : Bool) : Bool :=
  match aperOf l.pa with
  | some o => !plainAper o || need &&& ~~~l.valid == 0#128
  | none => need &&& ~~~(if beyond then l.keeps else l.valid) == 0#128

/-- Reads a line for a load, an atomic or a fetch of a core: from the L1 when it holds the bytes needed, else from the wafer-wide
cache, merged under the bytes that the L1 keeps (R92, R25). -/
def loadLine (core : Nat) (k : LineKey) (need : LineMask) (a : Acc) (user : Bool) (lk : LoadKind) : SM (Except Nat LineRes) := do
  if lk.mem then loadUncached core k a user
  else
    let s ← get
    match s.l1Line core k with
    | none => fillL1 core k a user lk
    | some l => do
      match ← checkStored k l.perm a user with
      | .error w => pure (.error w)
      | .ok _ => do
        let s ← get
        let l := (s.l1Line core k).getD l
        if l.served need lk.beyond then do
          let r ← hitL1 core k l user lk
          pure (.ok r)
        else fillL1 core k a user lk

/-- Bytes of an aperture line that a warp's access read stand in the L1 (R30, R42); the registers of another warp leave it. -/
def fillAper (core : Nat) (k : LineKey) (own : Option Nat) (mask : LineMask) (d : LineData) : SM Unit :=
  modify fun s => s.updCore core (fun c =>
    { c with l1 := c.l1.map (fun l =>
        if l.key == k then
          { l with data := mergeLine mask l.data d, valid := (if l.own = own then l.valid else 0) ||| mask, own := own }
        else l) })

/-- Bytes of an aperture line leave the L1 when the core writes them: a later read of them is made afresh (R162). -/
def dropAper (core : Nat) (k : LineKey) (mask : LineMask) : SM Unit :=
  modify fun s => s.updCore core (fun c =>
    { c with l1 := c.l1.map (fun l => if l.key == k && (aperOf l.pa).isSome then { l with valid := l.valid &&& ~~~mask } else l) })

/-- Confirms that a core may write a line: the stored permission of its L1 line, else the probe of R315, which leaves the line
allocated without data (R92).  An aperture is not allocated. -/
def probeLine (core : Nat) (k : LineKey) (a : Acc) (user : Bool) : SM (Except Nat (Option Nat)) := do
  let s ← get
  match s.l1Line core k with
  | some l => do
    match ← checkStored k l.perm a user with
    | .error w => pure (.error w)
    | .ok _ => pure (.ok (aperOf l.pa))
  | none => do
    match ← probeStore core k a user with
    | .error w => pure (.error w)
    | .ok (_, _, some o) => pure (.ok (some o))
    | .ok (m, pa, none) => do
      l1Room core k
      putL1 core { key := k, data := 0, valid := 0, dirty := 0, perm := m, pa := pa, pin := false, poi := false, own := none } false
      pure (.ok none)

/-- Writes bytes of a line that was probed: in the L1, where they are dirty; with `.strm`, or for STREL at `.quad` or wider, also at the home
at once, where the L1's line stays clean (R87, R92, R172).  A home that `.strm` allocates is filled at age 3 (R85). -/
def storeLine (core : Nat) (k : LineKey) (mask : LineMask) (d : LineData) (user home strm : Bool) : SM Unit := do
  let _ ← probeLine core k .store user
  let s ← get
  match s.l1Line core k with
  | none => anchorWrite core k mask d true strm
  | some l =>
    if (aperOf l.pa).isSome then pure ()
    else do
      let full := mask == BitVec.allOnes 128
      let nd := if home then l.dirty &&& ~~~mask else l.dirty ||| mask
      putL1 core { l with data := mergeLine mask l.data d, valid := l.valid ||| mask, dirty := nd, poi := l.poi && !full } false
      if home then anchorWrite core k mask d true strm

/-- Reads and changes a line at its home in one step; an atomic that writes no byte is no write (R93). -/
def homeRmw (core : Nat) (k : LineKey) (user : Bool) (f : LineData → LineData × LineMask) : SM (Except Nat LineRes) := do
  match ← homeAtomic core k user f with
  | .error w => pure (.error w)
  | .ok r => pure (.ok { data := r.data, poi := r.poi, aper := r.aper })

/-- The core sends its dirty bytes of a line to the home and drops its L1 copy. -/
def yieldLine (core : Nat) (k : LineKey) : SM Unit := do
  let s ← get
  match s.l1Line core k with
  | some l => do
    dropL1 core (fun x => x.key == k)
    if l.dirty ≠ 0 then anchorWrite core k l.dirty l.data true false
  | none => pure ()

/-- An atomic of a core performed at the home (R93). -/
def atomicHome (core : Nat) (k : LineKey) (user : Bool) (f : LineData → LineData × LineMask) : SM (Except Nat LineRes) := do
  yieldLine core k
  homeRmw core k user f

/-- A line as an atomic of a core finds it at its home: only a failure and a read that must wait leave an effect. -/
def homePeek (core : Nat) (k : LineKey) (user : Bool) : SM (Except Nat LineRes) := do
  let s ← get
  let (r, t) := (atomicHome core k user (fun _ => (0, 0))).run s
  match r with
  | .error _ => set t
  | .ok _ => if (s.stalled t).isSome then set t
  pure r

/-- Release actions at `.quad` or wider (R94): dirty L1 bytes of the ASID in lines that meet a condition go to their homes and
every invalidation is acknowledged (R83); at `.sys` the homes are written to memory. -/
def releaseAct (core p : Nat) (asid : BitVec 12) (sys : Bool) (cond : Nat → Bool) : SM Unit := do
  let s ← get
  let mine (l : L1Line) := l.key.part == p && l.key.asid == asid && cond l.key.ln && l.dirty != 0
  let ls := (s.core core).l1.filter mine
  modify fun s => s.updCore core (fun c => { c with l1 := c.l1.map (fun l => if mine l then { l with dirty := 0 } else l) })
  ls.forM (fun l => anchorWrite core l.key l.dirty l.data true false)
  let s ← get
  let hs := (s.cache.held.filter (fun h => h.core == core && h.key.part == p && h.key.asid == asid)).map (fun h => h.key)
  hs.forM settle
  drainInvs (fun k => k.part == p && k.asid == asid)
  if sys then sysClean p asid cond

/-- Drops the clean bytes of L1 lines of an ASID that meet a condition; pinned lines only when `pinned` (R94, R326). -/
def acquireL1 (core p : Nat) (asid : BitVec 12) (pinned : Bool) (cond : Nat → Bool) : SM Unit :=
  modify fun s => s.updCore core (fun c =>
    let hit (l : L1Line) := l.key.part == p && l.key.asid == asid && cond l.key.ln && (pinned || !l.pin)
    let ls := c.l1.map (fun l => if hit l then { l with valid := l.dirty, pin := l.pin && !pinned } else l)
    { c with l1 := ls.filter (fun l => !(hit l) || l.dirty != 0) })

/-- Bytes join the home of a line that is about to be removed: no copy collapses, nothing is walked (R35 step 3). -/
def homeMerge (k : LineKey) (mask : LineMask) (d : LineData) : SM Unit := do
  let s ← get
  match s.dirEnt k with
  | none => pure ()
  | some e => updBank e.home k (fun l =>
      { l with data := mergeLine mask l.data d, dirty := l.dirty ||| mask, poi := l.poi && mask != BitVec.allOnes 128 })

/-- The writes held for a migrating line that is about to be removed join its home, in their order. -/
def takeHeld (k : LineKey) : SM Unit := do
  let s ← get
  set { s with cache := { s.cache with held := s.cache.held.filter (fun h => !(h.key == k)) } }
  (s.cache.held.filter (fun h => h.key == k)).forM (fun h => homeMerge k h.mask h.data)

/-- Event 10 of R77 for every line of an ASID that the wafer-wide cache holds and that meets a condition, after the end of its migration; unchecked,
with no walk (R35).  The lines that migrate go last: what the end of a migration evicts is none of the others. -/
def removeLines (p : Nat) (cond : LineKey → Bool) (checked : Bool) : SM Unit := do
  let s ← get
  let es := s.cache.dir.filter (fun e => e.key.part == p && cond e.key)
  let ks := (es.filter (fun e => e.st != .migrating) ++ es.filter (fun e => e.st == .migrating)).map (fun e => e.key)
  ks.forM (fun k => do
    if checked then settle k
    else do
      moveHome k
      takeHeld k
    removeLine k checked)

/-- Dirty bytes that an L1 drops unchecked go to the home of their line; where no bank holds one, to memory at the address and under the key
domain recorded with the line, with no walk (R25, R35 step 3). -/
def sendHome (l : L1Line) : SM Unit := do
  takeHeld l.key
  let s ← get
  match l.dirty == 0#128, s.dirEnt l.key with
  | true, _ => pure ()
  | false, some _ => homeMerge l.key l.dirty l.data
  | false, none => memWrite l.key l.perm.kd l.pa l.dirty l.data false

/-- Writes the dirty bytes of every L1 line of a partition that meets a condition to its home and drops the line (R35 step 3, R410); the lines
leave the wafer-wide cache right after. -/
def flushL1s (p : Nat) (cond : LineKey → Bool) : SM Unit := do
  let s ← get
  s.cores.forM (fun (n, c) => do
    let ls := c.l1.filter (fun l => l.key.part == p && cond l.key)
    dropL1 n (fun l => l.key.part == p && cond l.key)
    ls.forM sendHome)

/-- Removes home hints that meet a condition in every core (R74). -/
def dropHints (p : LineKey → Bool) : SM Unit :=
  modify fun s => { s with cores := s.cores.map (fun (n, c) => (n, { c with hints := c.hints.filter (fun h => !p h.key) })) }

/-- Removes code lines that meet a condition from every instruction cache (R231). -/
def dropCode (p : ILine → Bool) : SM Unit :=
  modify fun s => { s with cores := s.cores.map (fun (n, c) => (n, { c with icache := c.icache.filter (fun h => !p h) })) }

end Sys2Proof.Machine
end

