-- ==== Sys2Proof/Machine/Ops.lean ====
section
/-!
DEFINITION. The operations that instructions share: the warp that executes and its retirement, the register window and its fills
(R47-R55), instruction fetch (R228-R235), taking a trap and returning from one (R265-R271), and the link stack (R56-R58).
-/

namespace Sys2Proof.Machine

/-- The outcome of a step. -/
abbrev Out := Host.Outcome State Fault Refusal

/-- Actions that may trap. -/
abbrev M := ExceptT Trap SM

/-- A trap of a cause, with no address. -/
def trapOf (c : Nat) : Trap := { cause := c }

/-- Gives a line access's failure as a trap with its walk status (R24). -/
def orTrap {α : Type} (va : Nat) (m : SM (Except Nat α)) : M α := do
  match ← m with
  | .ok a => pure a
  | .error w => throw { cause := wstCause w, wst := w, va := BitVec.ofNat 64 va }

/-! ## Retirement -/

/-- The warp goes on at a PC: nothing of the instruction is left pending. -/
def Warp.goTo (w : Warp) (pc : Word) : Warp := { w with pc := pc, wait := false, mid := 0, hold := none, pause := none, promo := false }

/-- Retirement at the next slot (R201, R232). -/
def Warp.retire (w : Warp) : Warp := w.goTo (nextSlot w.pc)

/-- Retirement that also moves the region entry to where the warp continues (R399). -/
def Warp.retireRegion (w : Warp) (pc : Word) : Warp := { w.goTo pc with regpc := pc, rcnt := 0 }

/-- The warp waits: its PC stays and it tries again later. -/
def Warp.waiting (w : Warp) (mid : Nat) : Warp := { w with wait := true, mid := mid }

/-- Runs with the warp that executes. -/
def withWarp (s : State) (f : Warp → Out) : Out :=
  match s.curWarp with
  | none => .fault .noWarp
  | some w => f w

/-- An instruction that changes only its own warp and always retires. -/
def warpOp (f : Warp → Warp) (s : State) : Out := withWarp s fun w => .next (s.setWarp (f w).retire)

/-! ## Scalar registers and masks (R58) -/

/-- Reads a scalar; s0 reads zero. -/
def Warp.s (w : Warp) (r : SReg) : Word := if r = 0 then 0 else w.sr[r.toNat]'r.isLt
/-- Writes a scalar; a write to s0 is discarded. -/
def Warp.setS (w : Warp) (r : SReg) (v : Word) : Warp := if r = 0 then w else { w with sr := w.sr.set r.toNat v r.isLt }
/-- Reads a mask; m0 reads all-ones. -/
def Warp.m (w : Warp) (r : MReg) : Word32 := if r = 0 then BitVec.allOnes 32 else w.mr[r.toNat]'r.isLt
/-- Writes a mask; a write to m0 is discarded. -/
def Warp.setM (w : Warp) (r : MReg) (v : Word32) : Warp := if r = 0 then w else { w with mr := w.mr.set r.toNat v r.isLt }
/-- The active lanes of an instruction (R203). -/
def Warp.active (w : Warp) (p : Pred) : Word32 := w.m p.m ^^^ (if p.neg then BitVec.allOnes 32 else 0)
/-- The B operand of a scalar instruction, immediate extended by `sx` (R240). -/
def Warp.ssrc (w : Warp) (b : SSrc) (sx : Bool) : Word :=
  match b with
  | .reg r => w.s r
  | .imm v => if sx then v.signExtend 64 else v.zeroExtend 64
/-- Active lanes in ascending order. -/
def lanesOf (m : Word32) : List Nat := (List.range 32).filter (fun l => m.getLsbD l)

/-! ## The register window (R47-R55) -/

/-- A line of the window area as the register cache holds it. -/
def Warp.line (w : Warp) (i : Nat) : LineData :=
  match w.lines.find? (fun l => l.idx == i) with
  | some l => l.data
  | none => 0

/-- The register cache holds the line. -/
def Warp.hasLine (w : Warp) (i : Nat) : Bool := w.lines.any (fun l => l.idx == i)

/-- Writes a line: the new version is dirty and most recently used. -/
def Warp.putLine (w : Warp) (i : Nat) (d : LineData) : Warp :=
  { w with lines := { idx := i, data := d, dirty := true } :: w.lines.filter (fun l => !(l.idx == i)) }

/-- Lines [o, o + n) from WB lie in the window (R51). -/
def Warp.inWindow (w : Warp) (o n : Nat) : Bool := decide (o + n ≤ 512) && decide (w.wbo + o + n ≤ w.wres)

/-- Byte range of the window area from WFLOOR: VA of a window line (R44). -/
def Warp.lineVa (w : Warp) (i : Nat) : Nat := w.img + 0x2000 + 128 * i

/-- A held line becomes the one used last (R55). -/
def Warp.touch (w : Warp) (i : Nat) : Warp :=
  match w.lines.find? (fun l => l.idx == i) with
  | some l => { w with lines := l :: w.lines.filter (fun x => !(x.idx == i)) }
  | none => w

/-- The Kennel holds the line. -/
def Warp.inKennel (w : Warp) (i : Nat) : Bool := w.kennel.any (fun l => l.idx == i)

/-- A line that the Kennel holds returns to the register cache and frees its Kennel line (R63). -/
def Warp.fromKennel (w : Warp) (i : Nat) : Warp :=
  match w.kennel.find? (fun l => l.idx == i) with
  | some l => { w with lines := l :: w.lines.filter (fun x => !(x.idx == i)), kennel := w.kennel.filter (fun x => !(x.idx == i)) }
  | none => w

/-- Committed lines of the register cache of a sub-core, those of saved warps among them (R52, R64). -/
def State.subLines (s : State) (core sub : Nat) : Nat :=
  ((s.warps.filter (fun w => w.core == core && w.sub == sub)).map (fun w => w.lines.length)).sum

/-- The warp holds lines beyond its quota (R55); its lines in the Kennel count too, so that a park never brings more there than R61 provides
for (log 51). -/
def Warp.overQuota (w : Warp) : Bool := decide (w.ql < w.lines.length + w.kennel.length)

/-- An instruction of a warp waits at rename (R52): lines beyond a quota stand in the rename pool until they are evicted, and so do the lines
beyond the 1,280 of the sub-core, which a saved warp or a warp that moved quota away left. -/
def State.renameWaits (s : State) (w : Warp) : Bool := w.overQuota || decide (1280 < s.subLines w.core w.sub)

/-- Not a trap but a wait, with how far the instruction has come: 0x00 is never a trap cause (R265). -/
def waitAt (mid : Nat) : Trap := { cause := 0, code := mid }
/-- The mark of a shoot-down that waits for operations to stop. -/
def purgeWait : Nat := 2

/-- An access to memory by a warp or on its behalf waits while its partition is reshaped (R433). -/
def memReady (w : Warp) : M Unit := do
  let s ← get
  if (s.part w.part).qst = .reshaping then throw (waitAt w.mid)

/-- Reads a line of the image at supervisor level (R46); a poisoned line kills the warp (R400). -/
def imgLine (w : Warp) (va : Nat) : M LineData := do
  memReady w
  let r ← orTrap va (loadLine w.core (w.key va) (BitVec.allOnes 128) .load false {})
  if r.poi then throw { cause := 0x13, va := BitVec.ofNat 64 va } else pure r.data

/-- Writes bytes of a line of the image at supervisor level (R46). -/
def imgStore (w : Warp) (va : Nat) (mask : LineMask) (d : LineData) : M Unit := do
  memReady w
  let _ ← orTrap va (probeLine w.core (w.key va) .store false)
  (storeLine w.core (w.key va) mask d false false false : SM Unit)

/-- Brings a line into the register cache, where it is the one used last: from the Kennel on its first reference (R63), else from the image
(R55). -/
def fillLine (w : Warp) (i : Nat) : M Warp := do
  if w.inKennel i then pure (w.fromKennel i)
  else if w.hasLine i then pure (w.touch i)
  else do
    let d ← imgLine w (w.lineVa i)
    pure { w with lines := { idx := i, data := d, dirty := false } :: w.lines }

/-- Brings several lines into the register cache. -/
def fillLines (w : Warp) : List Nat → M Warp
  | [] => pure w
  | i :: is => do
    let w ← fillLine w i
    fillLines w is

/-- A register operand: its first line from WB, its lines, and whether its bytes are needed (a source, or a destination that
merges, R54). -/
structure Span where
  off  : Nat
  n    : Nat
  need : Bool
  deriving DecidableEq, Repr

/-- Line numbers of the spans whose bytes are needed. -/
def Warp.spanLines (w : Warp) (rs : List Span) : List Nat :=
  (rs.filter (fun r => r.need)).flatMap (fun r => (List.range r.n).map (fun j => w.wbo + r.off + j))

/-- Line numbers of the spans that are written whole. -/
def Warp.wholeLines (w : Warp) (rs : List Span) : List Nat :=
  (rs.filter (fun r => !r.need)).flatMap (fun r => (List.range r.n).map (fun j => w.wbo + r.off + j))

/-- The warp after its operands are read with every line held: the lines read are those used last (R55). -/
def Warp.used (w : Warp) (rs : List Span) : Warp := (w.spanLines rs).foldl Warp.touch w

/-- Every span lies in the window (R51). -/
def Warp.spansOK (w : Warp) (rs : List Span) : Bool := rs.all (fun r => w.inWindow r.off r.n)

/-- Checks that register spans lie in the window (R51), waits for rename lines (R52), and brings in the lines: those whose bytes are needed
from the Kennel or the image (R55, R63), those written whole from the Kennel alone. -/
def needRegs (w : Warp) (rs : List Span) : M Warp := do
  if !w.spansOK rs then throw (trapOf 0x0E)
  else if rs ≠ [] ∧ (← get).renameWaits w then throw (waitAt w.mid)
  else fillLines ((w.wholeLines rs).foldl Warp.fromKennel w) (w.spanLines rs)

/-- Drops or writes back one line that the register cache or the Kennel holds for a warp (R55). -/
def evictLine (w : Warp) (i : Nat) : M Warp := do
  match (w.lines ++ w.kennel).find? (fun l => l.idx == i) with
  | none => pure w
  | some l => do
    if l.dirty then imgStore w (w.lineVa i) (BitVec.allOnes 128) l.data
    pure { w with lines := w.lines.filter (fun x => !(x.idx == i)), kennel := w.kennel.filter (fun x => !(x.idx == i)) }

/-! ## Instruction fetch (R228-R235) -/

/-- The number of ones is odd. -/
def oddOnes {n : Nat} (x : BitVec n) : Bool := (List.range n).foldl (fun a i => a ^^ x.getLsbD i) false

/-- Slot `i` of a code line (R228). -/
def slotWord (d : BitVec 512) (i : Nat) : BitVec 96 := d.extractLsb' (96 * i) 96
/-- The line word (R228). -/
def lineWord (d : BitVec 512) : Word32 := d.extractLsb' 480 32
/-- SPAR of every slot and LPAR hold (R229, R230). -/
def parityOK (d : BitVec 512) : Bool :=
  let lw := lineWord d
  !oddOnes (lw.extractLsb' 0 15) &&
    (List.range 5).all (fun i => oddOnes (slotWord d i) == lw.getLsbD (9 + i))

/-- Reads a code line from the wafer-wide cache, under the bytes that the core's own L1 holds dirty, which every warp of the core sees (R230,
R231): bytes and poison, or a walk status.  A fetch waits while the partition is reshaped (R433). -/
def codeRead (core p : Nat) (asid : BitVec 12) (ln : Nat) : SM (Except Nat (BitVec 512 × Bool)) := do
  let k : LineKey := { part := p, asid := asid, ln := ln / 2 }
  shapeWait p
  match ← wcRead core k .fetch (asid != 0#12) {} with
  | .error w => pure (.error w)
  | .ok f => do
    let s ← get
    let (d, poi) := match s.l1Line core k with
      | some l => coverLine l.dirty (l.data, l.poi) (f.data, f.poi)
      | none => (f.data, f.poi)
    pure (.ok (d.extractLsb' (512 * (ln % 2)) 512, poi))

/-- Puts a line in the instruction cache of 2,048 lines. -/
def putCode (core : Nat) (l : ILine) : SM Unit :=
  modify fun s => s.updCore core (fun c =>
    let rest := c.icache.filter (fun x => !(x.part == l.part && x.asid == l.asid && x.ln == l.ln))
    { c with icache := (l :: rest).take 2048 })

/-- A code line that passed its checks, or the trap that its fetch raises: XLATE, PERM, UNCORRECTABLE or FETCH_PARITY.  A line
that fails a check is discarded and fetched once more (R230). -/
def fetchLine (core p : Nat) (asid : BitVec 12) (ln : Nat) : SM (Except Trap (BitVec 512)) := do
  let s ← get
  let va := BitVec.ofNat 64 (ln * 64)
  let hit := (s.core core).icache.find? (fun l => l.part == p && l.asid == asid && l.ln == ln)
  match hit with
  | some l => if parityOK l.data && !l.poi then return .ok l.data
  | none => pure ()
  let first ← (if hit.isSome then pure (.ok (0, false)) else codeRead core p asid ln)
  match first with
  | .error w => pure (.error { cause := wstCause w, wst := w, va := va })
  | .ok (d, poi) =>
    if poi then pure (.error { cause := 0x13, va := va })
    else if hit.isNone && parityOK d then do
      putCode core { part := p, asid := asid, ln := ln, data := d, poi := false }
      pure (.ok d)
    else do
      match ← codeRead core p asid ln with
      | .error w => pure (.error { cause := wstCause w, wst := w, va := va })
      | .ok (d, poi) =>
        if poi then pure (.error { cause := 0x13, va := va })
        else if parityOK d then do
          putCode core { part := p, asid := asid, ln := ln, data := d, poi := false }
          pure (.ok d)
        else pure (.error (trapOf 0x03))

/-- The TGT bit of a target, or none when the target's line cannot be read: the target slot then traps itself (R234). -/
def tgtBit (w : Warp) (pc : Word) : SM (Option Bool) := do
  match ← fetchLine w.core w.part w.asid (pcLine pc).toNat with
  | .ok d => pure (some ((lineWord d).getLsbD (pcSlot pc)))
  | .error _ => pure none

/-- The check of R234 on a target: true when TARGET must be raised. -/
def badTarget (w : Warp) (pc : Word) : SM Bool := do
  if pcOK pc then
    match ← tgtBit w pc with
    | some b => pure (!b)
    | none => pure false
  else pure true

/-! ## Traps (R265-R271) -/

/-- Handler entry (R267): the trap registers are set, TL becomes 1 and the PC goes to TVEC, the new region entry (R399). -/
def Warp.enter (w : Warp) (t : Trap) : Warp :=
  let cause : Word := BitVec.ofBool t.nxt ++ 0#27 ++ w.flags ++ BitVec.ofNat 16 t.code ++ 0#4 ++ BitVec.ofNat 4 t.wst ++
    BitVec.ofNat 8 t.cause
  { w.retireRegion w.tvec with trpPc := w.pc, trpCause := cause, trpAddr := t.va, trpLanes := t.lanes, tl := true }

/-- What the warp's waiting instruction keeps. -/
def State.holdOf (s : State) (w : Warp) : Option Hold := (s.warp? w.wid).bind (fun x => x.hold)

/-- Takes a trap (R266), or waits: a kill, a suspension, the fault queue or the handler, in the first row that applies.  When TVEC fails R234 the warp
parks with TARGET and the trap registers stay as they were: R267 leaves that open, and it is the model's choice (log 69). -/
def takeTrap (w : Warp) (t : Trap) : SM Unit := do
  let w := { w with rob := [] }
  if t.cause = 0 then modify fun s => s.setWarp { w.waiting t.code with hold := s.holdOf w }
  else if t.cause = 0x12 || t.cause = 0x13 then modify fun s => s.kill w t false true
  else if t.cause = 0x14 then modify fun s => s.setWarp { w with st := .suspended, sback := .running }
  else if w.tl || !w.ten.getLsbD t.cause then modify fun s => s.park w t
  else if ← badTarget w w.tvec then modify fun s => s.park w { cause := 0x04 }
  else modify fun s => s.setWarp (w.enter t)

/-- RTE (R269). -/
def Warp.rte (w : Warp) : Except Trap Warp :=
  if !w.tl then .error (trapOf 0x10)
  else if !pcOK w.trpPc then .error (trapOf 0x04)
  else
    let pc := if w.trpCause.getLsbD 63 then nextSlot w.trpPc else w.trpPc
    .ok { (w.retireRegion pc).setFlags (w.trpCause.extractLsb' 32 4) with tl := false }

/-- What an instruction leaves: nothing but a read in its queue when a read of it must wait (R137), and the warp then tries again. -/
def State.finish (s : State) (w : Warp) (t : State) : State :=
  match s.stalled t with
  | some c => (s.waitingFor c).setWarp (w.waiting w.mid)
  | none => t

/-- Runs an instruction that may trap, with the warp as it leaves it.  A warp that the instruction's own accesses killed (R184)
stays killed. -/
def runM (w : Warp) (m : M Warp) (s : State) : Out :=
  let (r, s') := m.run.run s
  .next (s.finish w
    (if (s'.warp? w.wid).any (fun x => x.st == .killed && w.st != .killed) then s'
    else
      match r with
      | .ok w' => s'.setWarp w'
      | .error t => ((takeTrap w t).run s').2))

/-- An instruction that takes a trap. -/
def trapOut (w : Warp) (t : Trap) (s : State) : Out := .next (s.finish w ((takeTrap w t).run s).2)

/-- Counts that an instruction adds at retirement, under a tensor id (R225, R226). -/
structure Cnt where
  tid : Nat := 0
  sat : Nat := 0
  fl  : Nat := 0
  nan : Nat := 0
  deriving DecidableEq, Repr

/-- Adds counts to the counters of a warp's context and core, saturating (R225-R227). -/
def State.addCnt (s : State) (w : Warp) (c : Cnt) : State :=
  if c.sat = 0 ∧ c.fl = 0 ∧ c.nan = 0 then s
  else
    let k := (w.part, w.ctx, w.core, c.tid)
    let (a, b, n) := ((s.stats.find? (fun e => e.1 == k)).map (fun e => e.2)).getD (0, 0, 0)
    let lim := 2 ^ 64 - 1
    { s with stats := (k, (min lim (a + c.sat), min lim (b + c.fl), min lim (n + c.nan))) ::
                        s.stats.filter (fun e => !(e.1 == k)) }

/-- An instruction on register-window operands (R50): the ranges it names, in lines from WB, and what it does to its warp. -/
def regOp (rs : Warp → List Span) (f : Warp → Except Trap (Warp × Cnt)) (s : State) : Out :=
  withWarp s fun w => runM w (do
    let w ← needRegs w (rs w)
    match f w with
    | .error t => throw t
    | .ok (w', c) => do
      modify (fun s => s.addCnt w c)
      pure w'.retire) s

/-! ## The link stack (R56, R257, R258) -/

/-- Writes the link record of a call. -/
def storeLink (w : Warp) (ret : Word) (f : Nat) : M Unit :=
  let va := w.img + 0x0400 + 16 * w.depth
  let k := va % 128
  imgStore w va (spanMask k 16) ((ret.zeroExtend 1024 ||| (BitVec.ofNat 1024 f <<< 64)) <<< (8 * k))

/-- Reads the link record below the top. -/
def loadLink (w : Warp) : M (Word × Nat) := do
  let va := w.img + 0x0400 + 16 * (w.depth - 1)
  let d ← imgLine w va
  let k := va % 128
  pure (d.extractLsb' (8 * k) 64, (d.extractLsb' (8 * k + 64) 16).toNat)

end Sys2Proof.Machine
end

