-- ==== Sys2Proof/Machine/Event.lean ====
section
/-!
DEFINITION. A step of another agent: it runs in a powered module when its condition holds (log 5).
-/

namespace Sys2Proof.Machine

/-- What a step leaves that may have to wait for a read (R137): then nothing but the read in its queue, with the read named. -/
def State.tried (s t : State) : State :=
  match s.stalled t with
  | some c => { s.waitingFor c with stall := some c }
  | none => t

/-- A step of another agent with what it does, or none where the spec has no such step in the state; no warp executes. -/
def event (s : State) (m : Option (SM Unit)) : Out :=
  match s.plat.on, m with
  | false, _ => .fault .powerOff
  | true, none => .fault .notEnabled
  | true, some f => .next { s.tried (f.run s).2 with cur := none }

/-- A step with a condition. -/
def eventIf (s : State) (c : Bool) (m : SM Unit) : Out := event s (if c then some m else none)

end Sys2Proof.Machine
end

