-- ==== Sys2Proof/Machine/CacheStep.lean ====
section
/-!
DEFINITION. Steps of the memory gates (R15, R20-R26) and of the caches (R77-R97, R315).
-/

namespace Sys2Proof.Machine

/-! ## Gates -/

/-- GATE_REQUEST (R20-R22): a hit of the translation cache answers; else the request joins a walk in flight for its page or waits for a slot.  A
request that fails leaves no entry (R21). -/
def execGateRequest (gate wid : Nat) (key : LineKey) (s : State) : Out :=
  let ok := (s.warp? wid).any (fun w => w.part == key.part && w.asid == key.asid) && gate == bankRet (s.anchor key)
  let k : Walk := { gate := gate, key := key, wid := wid }
  eventIf s ok (do
    match s.gates.gtc.find? (fun e => e.holds gate key.part key.asid (keyVa key)) with
    | some e =>
      match leafPa (s.part key.part) e.pte e.lvl (keyVa key) with
      | .ok _ => replyTo k 0
      | .error w => do
        gateForget gate key.part key.asid (keyVa key)
        replyTo k w
    | none =>
      if s.gates.slots.any (fun x => s.samePage x k) then set { s with gates := { s.gates with slots := s.gates.slots ++ [k] } }
      else set { s with gates := { s.gates with queue := s.gates.queue ++ [k] } })

/-- WALK_START (R22): the oldest queued walk of a gate takes one of its 1,024 slots; requests for its page join it. -/
def execWalkStart (gate : Nat) (s : State) : Out :=
  event s ((s.gates.queue.find? (fun x => x.gate == gate && (s.part x.key.part).qst != .reshaping)).bind (fun k =>
    if s.slotsBusy gate then none
    else some (set { s with gates := { s.gates with slots := s.gates.slots ++ s.gates.queue.filter (fun x => s.samePage x k),
                                                    queue := s.gates.queue.filter (fun x => !s.samePage x k) } })))

/-- WALK_COMPLETE (R15, R22): the oldest walk of a gate ends, with a leaf that its translation cache keeps or a walk status. -/
def execWalkComplete (gate : Nat) (s : State) : Out :=
  event s ((s.gates.slots.find? (fun x => x.gate == gate && (s.part x.key.part).qst != .reshaping)).map (fun k => do
    let _ ← endWalk k
    pure ()))

/-- A line of the partition that a core lies in; while the partition is reshaped its requests wait (R433). -/
def State.ownKey (s : State) (core : Nat) (k : LineKey) : Bool :=
  decide (core < 1296) && s.partOfCore core == k.part && (s.part k.part).formed && (s.part k.part).qst != .reshaping

/-- PERMISSION_UPGRADE (R26): a line held without Wr has its page walked again. -/
def execPermissionUpgrade (core : Nat) (key : LineKey) (s : State) : Out :=
  let held := s.cache.lines.any (fun l => l.key == key && !l.perm.wr) || (s.l1Line core key).any (fun l => !l.perm.wr)
  eventIf s (s.ownKey core key && held) (do
    let _ ← upgrade key
    pure ())

/-- PERMISSION_PROBE (R315): a store that misses the L1 asks whether it may write the line. -/
def execPermissionProbe (core : Nat) (key : LineKey) (s : State) : Out :=
  eventIf s (s.ownKey core key && (s.l1Line core key).isNone) (do
    let _ ← probeLine core key .store (key.asid != 0#12)
    pure ())

/-! ## The wafer-wide cache -/

/-- ANCHOR_READ (R76, R77). -/
def execAnchorRead (core : Nat) (key : LineKey) (repl : Bool) (s : State) : Out :=
  eventIf s (s.ownKey core key) (do
    let _ ← anchorRead core key .load (key.asid != 0#12) { repl := repl }
    pure ())

/-- ANCHOR_WRITE (R77 event 3): a write whose permission was confirmed reaches the anchor. -/
def execAnchorWrite (core : Nat) (key : LineKey) (mask : LineMask) (data : LineData) (s : State) : Out :=
  eventIf s (s.ownKey core key) (do
    match ← probeStore core key .store (key.asid != 0#12) with
    | .ok (_, _, none) => anchorWrite core key mask data false false
    | _ => pure ())

/-- PIN_REQUEST (R86). -/
def execPinRequest (core : Nat) (key : LineKey) (s : State) : Out :=
  eventIf s (s.ownKey core key) (do
    let _ ← anchorRead core key .load (key.asid != 0#12) { pin := true }
    pure ())

/-- COUNT_NOTICE (R78): the oldest notice in flight reaches its anchor. -/
def execCountNotice (s : State) : Out :=
  event s (match s.cache.notices with
    | [] => none
    | n :: r => some (do
        set { s with cache := { s.cache with notices := r } }
        takeNotice n))

/-- MIGRATION_END (R79). -/
def execMigrationEnd (key : LineKey) (s : State) : Out :=
  eventIf s ((s.dirEnt key).any (fun e => e.st == .migrating)) (migrationEnd key)

/-- L1_EVICTION (R84, R92). -/
def execL1Eviction (core : Nat) (key : LineKey) (s : State) : Out :=
  event s ((s.l1Line core key).map (fun l => evictL1 core l false))

/-- BANK_LINE_EVICT (R85): a home leaves with its copies, or a copy leaves; pinned and migrating lines stay. -/
def execBankLineEvict (bank : Nat) (key : LineKey) (s : State) : Out :=
  event s ((s.bankLine bank key).bind (fun l =>
    if l.pin || s.migrating key bank then none
    else some (if l.role == .home then removeLine key true else copyEvicted bank key)))

/-- INVALIDATION (R82): the oldest invalidation in flight reaches its bank. -/
def execInvalidation (s : State) : Out :=
  event s (match s.cache.invs with
    | [] => none
    | i :: r => some (do
        set { s with cache := { s.cache with invs := r } }
        takeInv i))

/-- COLLAPSE_ACK (R82): the oldest acknowledgement reaches its anchor. -/
def execCollapseAck (s : State) : Out :=
  event s (match s.cache.acks with
    | [] => none
    | k :: r => some (do
        set { s with cache := { s.cache with acks := r } }
        takeAck k))

/-- A bank visits its sets and handles lines of a stale epoch (R95). -/
def sweepBank (bank : Nat) : SM Unit := do
  let s ← get
  let old := s.cache.lines.filter (fun l => l.bank == bank && l.epoch != s.epochOf l.key)
  old.forM (fun l => attempt (
    if l.role == .home then do
      settle l.key
      let _ ← refreshHome l.key
      pure ()
    else copyEvicted bank l.key))

/-- EPOCH_SWEEP (R95): every 16,384 cc. -/
def execEpochSweep (bank : Nat) (s : State) : Out := eventIf s (decide (s.plat.cc % 16384 = 0)) (sweepBank bank)

/-- The filters clear and the migration budgets are whole again (R80, R91). -/
def resetWindow : SM Unit := modify fun s => { s with cache := { s.cache with win := [] } }

/-- WINDOW_RESET (R80, R91): at the first cc of a window of 65,536. -/
def execWindowReset (s : State) : Out := eventIf s (decide (s.plat.cc % 65536 = 0)) resetWindow

end Sys2Proof.Machine
end

