-- ==== Sys2Proof/Machine/Flags.lean ====
section
/-!
DEFINITION. Scalar results with their flags (R250-R252) and the conditions of BCC and SSEL (R244).
-/

namespace Sys2Proof.Machine

/-- A scalar result at width `n` with C and V; Z and N follow from the value (R251). -/
structure SRes (n : Nat) where
  val : BitVec n
  c   : Bool := false
  v   : Bool := false
  deriving DecidableEq, Repr

/-- Sets the four flags from a result at its width (R251). -/
def Warp.flagsOf {n : Nat} (w : Warp) (r : SRes n) : Warp :=
  { w with z := r.val == 0#n, n := r.val.msb, c := r.c, v := r.v }

/-- The exact signed value lies outside the range of `n` bits. -/
def outS (n : Nat) (x : Int) : Bool := decide (x < -2 ^ (n - 1)) || decide (2 ^ (n - 1) ≤ x)
/-- The exact unsigned value lies outside the range of `n` bits. -/
def outU (n : Nat) (x : Int) : Bool := decide (x < 0) || decide (2 ^ n ≤ x)

/-- SADD (R252). -/
def saluAdd {n : Nat} (a b : BitVec n) : SRes n :=
  ⟨a + b, decide (2 ^ n ≤ a.toNat + b.toNat), outS n (a.toInt + b.toInt)⟩
/-- SSUB and SCMP (R252). -/
def saluSub {n : Nat} (a b : BitVec n) : SRes n := ⟨a - b, decide (b.toNat ≤ a.toNat), outS n (a.toInt - b.toInt)⟩
/-- SMUL (R252). -/
def saluMul {n : Nat} (sg : Bool) (a b : BitVec n) : SRes n :=
  ⟨a * b, false, if sg then outS n (a.toInt * b.toInt) else outU n (a.toNat * b.toNat : Nat)⟩
/-- The high half of a product (SMULH, VMULH). -/
def mulHigh {n : Nat} (sg : Bool) (a b : BitVec n) : BitVec n :=
  if sg then BitVec.ofInt n ((a.toInt * b.toInt) / 2 ^ n) else BitVec.ofNat n (a.toNat * b.toNat / 2 ^ n)
/-- SMULH (R252). -/
def saluMulh {n : Nat} (sg : Bool) (a b : BitVec n) : SRes n := ⟨mulHigh sg a b, false, false⟩
/-- The quotient overflows: the most negative number by -1 (R252). -/
def divOvf {n : Nat} (sg : Bool) (a b : BitVec n) : Bool := sg && a == BitVec.intMin n && b == BitVec.allOnes n
/-- SDIV (R252). -/
def saluDiv {n : Nat} (sg : Bool) (a b : BitVec n) : SRes n :=
  if b = 0 then ⟨BitVec.allOnes n, true, false⟩
  else ⟨if sg then a.sdiv b else a / b, false, divOvf sg a b⟩
/-- SREM (R252). -/
def saluRem {n : Nat} (sg : Bool) (a b : BitVec n) : SRes n :=
  if b = 0 then ⟨a, true, false⟩
  else ⟨if sg then a.srem b else a % b, false, divOvf sg a b⟩
/-- SSHL (R252). -/
def saluShl {n : Nat} (a b : BitVec n) : SRes n :=
  let k := b.toNat % n
  ⟨a <<< k, k != 0 && a.getLsbD (n - k), false⟩
/-- SSHR (R252). -/
def saluShr {n : Nat} (a b : BitVec n) : SRes n :=
  let k := b.toNat % n
  ⟨a >>> k, k != 0 && a.getLsbD (k - 1), false⟩
/-- SSRA (R252). -/
def saluSra {n : Nat} (a b : BitVec n) : SRes n :=
  let k := b.toNat % n
  ⟨a.sshiftRight k, k != 0 && a.getLsbD (k - 1), false⟩
/-- The lesser value, signed or unsigned (SMIN, VMIN). -/
def minV {n : Nat} (sg : Bool) (a b : BitVec n) : BitVec n :=
  if (if sg then decide (a.toInt ≤ b.toInt) else decide (a.toNat ≤ b.toNat)) then a else b
/-- The greater value, signed or unsigned (SMAX, VMAX). -/
def maxV {n : Nat} (sg : Bool) (a b : BitVec n) : BitVec n :=
  if (if sg then decide (a.toInt ≤ b.toInt) else decide (a.toNat ≤ b.toNat)) then b else a
/-- Leading zero bits; the width when the value is zero. -/
def clzV {n : Nat} (a : BitVec n) : BitVec n := BitVec.ofNat n (if a = 0 then n else n - 1 - Nat.log2 a.toNat)
/-- Number of ones. -/
def popV {n : Nat} (a : BitVec n) : BitVec n :=
  BitVec.ofNat n ((List.range n).foldl (fun k i => if a.getLsbD i then k + 1 else k) 0)
/-- Trailing zero bits; the width when the value is zero. -/
def ctzV {n : Nat} (a : BitVec n) : BitVec n :=
  BitVec.ofNat n (((List.range n).find? (fun i => a.getLsbD i)).getD n)

/-- A condition of BCC or SSEL on the flags (R244). -/
def Warp.cond (w : Warp) (k : BitVec 4) : Bool :=
  match k.toNat with
  | 0 => w.z
  | 1 => !w.z
  | 2 => w.c
  | 3 => !w.c
  | 4 => w.n
  | 5 => !w.n
  | 6 => w.v
  | 7 => !w.v
  | 8 => w.c && !w.z
  | 9 => !w.c || w.z
  | 10 => w.n == w.v
  | 11 => w.n != w.v
  | 12 => !w.z && w.n == w.v
  | 13 => w.z || w.n != w.v
  | 14 => true
  | _ => false

end Sys2Proof.Machine
end

