-- ==== Sys2Proof/Machine/Operands.lean ====
section
/-!
DEFINITION. Operand forms: scalar operations at a width (R240, R250), vector registers and their lanes (R49, R282, R283), masks, tiles and
accumulators (R49), and memory addresses (R310, R321).
-/

namespace Sys2Proof.Machine

/-! ## Scalar forms -/

/-- A scalar operation with flags at the width of its type (R250): sources are the low bits, the result is extended to 64 bits. -/
def Warp.salu (w : Warp) (ty : Ty) (d : SReg) (a : Word) (b : SSrc) (f : (n : Nat) → BitVec n → BitVec n → SRes n) : Warp :=
  let bv := w.ssrc b ty.signed
  if ty.wide then
    let r := f 64 a bv
    (w.flagsOf r).setS d r.val
  else
    let r := f 32 (a.truncate 32) (bv.truncate 32)
    (w.flagsOf r).setS d (if ty.signed then r.val.signExtend 64 else r.val.zeroExtend 64)

/-- A scalar instruction D, A, B with flags. -/
def scalar3 (ty : Ty) (d a : SReg) (b : SSrc) (f : (n : Nat) → BitVec n → BitVec n → SRes n) (s : State) : Out :=
  warpOp (fun w => w.salu ty d (w.s a) b f) s

/-- A scalar instruction D, A with flags; C and V are 0. -/
def scalar2 (ty : Ty) (d a : SReg) (f : (n : Nat) → BitVec n → BitVec n) (s : State) : Out :=
  warpOp (fun w => w.salu ty d (w.s a) (.imm 0) (fun n x _ => ⟨f n x, false, false⟩)) s

/-! ## Vector registers -/

/-- First line of a vector register from WB. -/
def Warp.vOff (w : Warp) (r : VReg) : Nat := w.vv + r.toNat
/-- First line of a tile register from WB. -/
def Warp.tOff (w : Warp) (r : TReg) : Nat := w.vt + 4 * r.toNat
/-- First line of an accumulator register from WB. -/
def Warp.aOff (w : Warp) (r : AReg) : Nat := w.va + 8 * r.toNat

/-- Lines of a vector operand of a type: a register, or a pair for 64-bit types. -/
def Ty.vLines (ty : Ty) : Nat := if ty.wide then 2 else 1

/-- Span of a vector source. -/
def Warp.vSrc (w : Warp) (ty : Ty) (r : VReg) : Span := ⟨w.vOff r, Ty.vLines ty, true⟩
/-- The mask field names m0 without MNEG: the write covers its lines whole (R54). -/
def predFull (p : Pred) : Bool := p.m == 0#4 && !p.neg
/-- Span of a vector destination. -/
def Warp.vDst (w : Warp) (ty : Ty) (r : VReg) (p : Pred) : Span := ⟨w.vOff r, Ty.vLines ty, !predFull p⟩
/-- Span of the B operand of a vector instruction. -/
def Warp.bSrc (w : Warp) (ty : Ty) (b : VSrc) : List Span :=
  match b with
  | .reg r => [w.vSrc ty r]
  | .imm _ => []

/-- A vector register's bytes. -/
def Warp.vreg (w : Warp) (r : VReg) : LineData := w.line (w.wbo + w.vOff r)
/-- The second register of a pair. -/
def Warp.vregHi (w : Warp) (r : VReg) : LineData := w.line (w.wbo + w.vOff r + 1)
/-- Lane word of a line. -/
def laneW (d : LineData) (l : Nat) : Word32 := d.extractLsb' (32 * l) 32
/-- A lane's value: the pair for a 64-bit type, else the lane word's low bits of the type's width, zero-extended (R282). -/
def Warp.lane (w : Warp) (ty : Ty) (r : VReg) (l : Nat) : Word :=
  if ty.wide then laneW (w.vregHi r) l ++ laneW (w.vreg r) l
  else (laneW (w.vreg r) l).zeroExtend 64 &&& BitVec.ofNat 64 (2 ^ ty.bits - 1)

/-- The mask of a lane word in a line. -/
def laneMask (act : Word32) : LineData :=
  (List.range 32).foldl (fun acc l => if act.getLsbD l then acc ||| (0xFFFFFFFF#1024 <<< (32 * l)) else acc) 0

/-- A line of 32 lane words. -/
def ofLanes (f : Nat → Word32) : LineData :=
  (List.range 32).foldl (fun acc l => acc ||| ((f l).zeroExtend 1024 <<< (32 * l))) 0

/-- The lane words of active lanes from `new`, the others from `old` (R283). -/
def mergeLanes (act : Word32) (old new : LineData) : LineData :=
  if act = BitVec.allOnes 32 then new else (new &&& laneMask act) ||| (old &&& ~~~laneMask act)

/-- A result as its lane word holds it: i8 and i16 sign-extended, other narrow values zero-extended (R282). -/
def laneWord (ty : Ty) (v : Word) : Word32 :=
  match ty with
  | .i8 => (v.truncate 8).signExtend 32
  | .i16 => (v.truncate 16).signExtend 32
  | _ => (v &&& BitVec.ofNat 64 (2 ^ ty.bits - 1)).truncate 32

/-- Writes the active lanes of a vector operand (R282, R283). -/
def Warp.putLanes (w : Warp) (ty : Ty) (r : VReg) (act : Word32) (f : Nat → Word) : Warp :=
  let i := w.wbo + w.vOff r
  if ty.wide then
    let lo := mergeLanes act (w.line i) (ofLanes (fun l => (f l).truncate 32))
    let hi := mergeLanes act (w.line (i + 1)) (ofLanes (fun l => (f l).extractLsb' 32 32))
    (w.putLine i lo).putLine (i + 1) hi
  else w.putLine i (mergeLanes act (w.line i) (ofLanes (fun l => laneWord ty (f l))))

/-- Bits of an f32 value as the f64 of the same value (R240). -/
def widenF32 (x : Word32) : Word :=
  let e := (x.extractLsb' 23 8).toNat
  let f := (x.extractLsb' 0 23).toNat
  let sgn : Word := BitVec.ofBool x.msb ++ 0#63
  let v : Nat :=
    if e = 255 then 2047 * 2 ^ 52 + f * 2 ^ 29
    else if e = 0 then
      if f = 0 then 0
      else
        let k := Nat.log2 f
        (k + 1023 - 149) * 2 ^ 52 + (f - 2 ^ k) * 2 ^ (52 - k)
    else (e + 1023 - 127) * 2 ^ 52 + f * 2 ^ 29
  sgn ||| BitVec.ofNat 64 v

/-- The immediate of VI form at the type (R240). -/
def immOf (ty : Ty) (v : Word32) : Word :=
  match ty with
  | .i32 => v.zeroExtend 64
  | .f64 => widenF32 v
  | .f16 | .bf16 => v.zeroExtend 64 &&& 0xFFFF
  | _ => if ty.signed then v.signExtend 64 else v.zeroExtend 64

/-- A lane of the B operand. -/
def Warp.blane (w : Warp) (ty : Ty) (b : VSrc) (l : Nat) : Word :=
  match b with
  | .reg r => w.lane ty r l
  | .imm v => immOf ty v

/-- A lanewise operation at the width of the type. -/
def atWidth (ty : Ty) (f : (n : Nat) → BitVec n → BitVec n → BitVec n) (a b : Word) : Word :=
  if ty.wide then f 64 a b else (f 32 (a.truncate 32) (b.truncate 32)).zeroExtend 64

/-- A vector instruction D, A, B that counts nothing. -/
def vec3 (p : Pred) (ty : Ty) (d a : VReg) (b : VSrc) (f : (n : Nat) → BitVec n → BitVec n → BitVec n) (s : State) : Out :=
  regOp (fun w => w.vDst ty d p :: w.vSrc ty a :: w.bSrc ty b)
    (fun w => .ok (w.putLanes ty d (w.active p) (fun l => atWidth ty f (w.lane ty a l) (w.blane ty b l)), {})) s

/-- A vector instruction D, A that counts nothing. -/
def vec2 (p : Pred) (ty : Ty) (d a : VReg) (f : (n : Nat) → BitVec n → BitVec n) (s : State) : Out :=
  regOp (fun w => [w.vDst ty d p, w.vSrc ty a])
    (fun w => .ok (w.putLanes ty d (w.active p) (fun l => atWidth ty (fun n x _ => f n x) (w.lane ty a l) 0), {})) s

/-- Writes the active lanes' bits of a mask (R283). -/
def Warp.putMask (w : Warp) (d : MReg) (act v : Word32) : Warp := w.setM d ((v &&& act) ||| (w.m d &&& ~~~act))

/-- The bits of the active lanes for which a condition holds. -/
def maskOf (act : Word32) (f : Nat → Bool) : Word32 :=
  (List.range 32).foldl (fun acc l => if act.getLsbD l && f l then acc ||| (1#32 <<< l) else acc) 0

/-! ## Bytes of several lines -/

/-- Bytes [o, o + n) of the window from a line on. -/
def Warp.bytes (w : Warp) (first o n : Nat) : List Byte :=
  (List.range n).map (fun i => LineData.byte (w.line (first + (o + i) / 128)) ((o + i) % 128))

/-- Writes bytes of the window from a line on. -/
def Warp.putBytes (w : Warp) (first : Nat) (bs : List (Nat × Byte)) : Warp :=
  let ls := (bs.map (fun b => b.1 / 128)).eraseDups
  ls.foldl (fun w j =>
    let i := first + j
    let d := bs.foldl (fun d b =>
      if b.1 / 128 = j then
        let k := 8 * (b.1 % 128)
        (d &&& ~~~(0xFF#1024 <<< k)) ||| ((b.2.zeroExtend 1024 : LineData) <<< k)
      else d) (w.line i)
    w.putLine i d) w

/-! ## Addresses -/

/-- DISP, sign-extended (R310). -/
def dispW (d : BitVec 20) : Word := d.signExtend 64
/-- Span of an address's vector base. -/
def Warp.adSpan (w : Warp) (ad : Addr) : List Span :=
  match ad.base with
  | .s _ => []
  | .v r => [w.vSrc .b32 r]
/-- The address of a lane for an element width (R310). -/
def Warp.laneAddr (w : Warp) (ad : Addr) (bytes l : Nat) : Word :=
  match ad.base with
  | .s r => w.s r + w.s ad.index + dispW ad.disp + BitVec.ofNat 64 (bytes * l)
  | .v r => w.s ad.index + (laneW (w.vreg r) l).zeroExtend 64 + dispW ad.disp

end Sys2Proof.Machine
end

