-- ==== Sys2Proof/Machine/Float.lean ====
section
/-!
DEFINITION. Numbers: the floating-point formats (R208, R210), exact values, rounding, saturation and flushes (R211-R214), conversions
(R215, R299), and N blocks (R216-R218).
-/

namespace Sys2Proof.Machine

/-! ## Formats and values -/

/-- A floating-point format (R208): exponent bits, fraction bits, infinities, subnormal results flushed (R214). -/
structure Fmt where
  eb    : Nat
  fb    : Nat
  inf   : Bool
  flush : Bool
  deriving DecidableEq, Repr

/-- FP64. -/
def fmt64 : Fmt := ⟨11, 52, true, false⟩
/-- FP32. -/
def fmt32 : Fmt := ⟨8, 23, true, false⟩
/-- FP16. -/
def fmt16 : Fmt := ⟨5, 10, true, true⟩
/-- BF16. -/
def fmtB16 : Fmt := ⟨8, 7, true, true⟩
/-- E4M3. -/
def fmtE4 : Fmt := ⟨4, 3, false, false⟩
/-- E5M2. -/
def fmtE5 : Fmt := ⟨5, 2, true, false⟩

/-- The format of a floating-point type; FP32 for the others. -/
def fmtOf (t : Ty) : Fmt :=
  match t with
  | .f64 => fmt64
  | .f16 => fmt16
  | .bf16 => fmtB16
  | .e4m3 => fmtE4
  | .e5m2 => fmtE5
  | _ => fmt32

/-- Bias. -/
def Fmt.bias (f : Fmt) : Nat := 2 ^ (f.eb - 1) - 1
/-- Width. -/
def Fmt.width (f : Fmt) : Nat := f.eb + f.fb + 1
/-- The pattern of the largest finite value. -/
def Fmt.maxBits (f : Fmt) : Nat := if f.inf then (2 ^ f.eb - 1) * 2 ^ f.fb - 1 else 2 ^ (f.eb + f.fb) - 2
/-- The pattern of +infinity. -/
def Fmt.infBits (f : Fmt) : Nat := (2 ^ f.eb - 1) * 2 ^ f.fb
/-- The canonical NaN (R208, R210). -/
def Fmt.nanBits (f : Fmt) : Nat := if f.inf then f.infBits + 2 ^ (f.fb - 1) else 2 ^ (f.eb + f.fb) - 1
/-- The sign bit. -/
def Fmt.signBit (f : Fmt) (neg : Bool) : Nat := if neg then 2 ^ (f.eb + f.fb) else 0

/-- An exact value: NaN, an infinity, or ±m·2^e with its sign (R212). -/
inductive FVal where
  | nan
  | inf (neg : Bool)
  | fin (neg : Bool) (m : Nat) (e : Int)
  deriving DecidableEq, Repr

/-- The value of a pattern (R208): any NaN is NaN, subnormals are exact. -/
def Fmt.decode (f : Fmt) (b : Nat) : FVal :=
  let fr := b % 2 ^ f.fb
  let ex := b / 2 ^ f.fb % 2 ^ f.eb
  let neg := b / 2 ^ (f.eb + f.fb) % 2 == 1
  if f.inf && ex == 2 ^ f.eb - 1 then (if fr = 0 then .inf neg else .nan)
  else if !f.inf && b % 2 ^ (f.eb + f.fb) == f.nanBits then .nan
  else if ex = 0 then .fin neg fr (1 - (f.bias : Int) - f.fb)
  else .fin neg (2 ^ f.fb + fr) ((ex : Int) - f.bias - f.fb)

/-- Rounding modes (R211). -/
inductive RM where
  | rne | rtz | rup | rdn
  deriving DecidableEq, Repr

/-- A mode from its code. -/
def RM.ofCode (k : BitVec 2) : RM := if k = 0 then .rne else if k = 1 then .rtz else if k = 2 then .rup else .rdn

/-- FMODE.RM. -/
def Warp.rm (w : Warp) : RM := RM.ofCode (w.fmode.extractLsb' 0 2)
/-- FMODE.SAT. -/
def Warp.sat (w : Warp) : Bool := w.fmode.getLsbD 2

/-- Rounds the magnitude m / 2^k to an integer (R212, R218). -/
def roundMag (rm : RM) (neg : Bool) (m k : Nat) : Nat :=
  if k = 0 then m
  else if k > Nat.log2 m + 2 then
    match rm with
    | .rup => if neg || m == 0 then 0 else 1
    | .rdn => if neg && m != 0 then 1 else 0
    | _ => 0
  else
    let q := m / 2 ^ k
    let r := m % 2 ^ k
    let up := match rm with
      | .rne => decide (2 * r > 2 ^ k) || (decide (2 * r = 2 ^ k) && q % 2 == 1)
      | .rtz => false
      | .rup => !neg && r != 0
      | .rdn => neg && r != 0
    if up then q + 1 else q

/-- A result as written: its pattern, and whether it counts as a saturation, a flush or a NaN (R226). -/
structure FRes where
  bits : Nat
  sat  : Bool := false
  fl   : Bool := false
  nan  : Bool := false
  deriving DecidableEq, Repr

/-- A value beyond the largest finite one (R213). -/
def Fmt.over (f : Fmt) (rm : RM) (sat neg : Bool) : FRes :=
  let big := f.maxBits + f.signBit neg
  if sat then { bits := big, sat := true }
  else if !f.inf then { bits := f.nanBits, nan := true }
  else
    let toInf := match rm with
      | .rne => true
      | .rtz => false
      | .rup => !neg
      | .rdn => neg
    if toInf then { bits := f.infBits + f.signBit neg } else { bits := big, sat := true }

/-- Rounds an exact value once and applies the range rules (R212-R214).  Whether a value is beyond the range is asked of the rounded value, as R213
has it; an exact value above the largest finite one that rounds to it counts as no saturation, though R226 speaks of the exact result: the model's
choice (log 66). -/
def Fmt.round (f : Fmt) (rm : RM) (sat : Bool) (v : FVal) : FRes :=
  match v with
  | .nan => { bits := f.nanBits, nan := true }
  | .inf neg => if f.inf then { bits := f.infBits + f.signBit neg } else f.over rm sat neg
  | .fin neg m e =>
    if m = 0 then { bits := f.signBit neg }
    else
      let x : Int := e + Nat.log2 m
      let q : Int := max (x - f.fb) (1 - (f.bias : Int) - f.fb)
      let r := if q ≤ e then m * 2 ^ (e - q).toNat else roundMag rm neg m (q - e).toNat
      let (r, q) := if r = 2 ^ (f.fb + 1) then (2 ^ f.fb, q + 1) else (r, q)
      if r = 0 then { bits := f.signBit neg }
      else if r < 2 ^ f.fb then
        if f.flush then { bits := f.signBit neg, fl := true } else { bits := r + f.signBit neg }
      else
        let ex := (q + f.fb + f.bias).toNat
        let bits := ex * 2 ^ f.fb + (r - 2 ^ f.fb)
        if ex ≥ 2 ^ f.eb || bits > f.maxBits then f.over rm sat neg else { bits := bits + f.signBit neg }

/-! ## Exact arithmetic (R291, R297, R298) -/

/-- Changes the sign. -/
def FVal.neg : FVal → FVal
  | .nan => .nan
  | .inf s => .inf (!s)
  | .fin s m e => .fin (!s) m e

/-- Exact product; 0 × ∞ is NaN. -/
def FVal.mul : FVal → FVal → FVal
  | .nan, _ => .nan
  | _, .nan => .nan
  | .inf s, .inf t => .inf (s ^^ t)
  | .inf s, .fin t m _ => if m = 0 then .nan else .inf (s ^^ t)
  | .fin s m _, .inf t => if m = 0 then .nan else .inf (s ^^ t)
  | .fin s m e, .fin t n f => .fin (s ^^ t) (m * n) (e + f)

/-- A signed integer times 2^e. -/
def signedPart (s : Bool) (m : Nat) (e lo : Int) : Int := (if s then -1 else 1) * (m * 2 ^ (e - lo).toNat : Nat)

/-- Exact sum; ∞ − ∞ is NaN, and the sign of an exact zero follows R212. -/
def FVal.add (rm : RM) : FVal → FVal → FVal
  | .nan, _ => .nan
  | _, .nan => .nan
  | .inf s, .inf t => if s = t then .inf s else .nan
  | .inf s, .fin _ _ _ => .inf s
  | .fin _ _ _, .inf t => .inf t
  | .fin s m e, .fin t n f =>
    if m = 0 ∧ n = 0 then .fin (if s = t then s else rm == .rdn) 0 0
    else if m = 0 then .fin t n f
    else if n = 0 then .fin s m e
    else
      let lo := min e f
      let x := signedPart s m e lo + signedPart t n f lo
      if x = 0 then .fin (rm == .rdn) 0 0 else .fin (decide (x < 0)) x.natAbs lo

/-- a × 2^b. -/
def FVal.scale (b : Int) : FVal → FVal
  | .fin s m e => .fin s m (e + b)
  | v => v

/-- The quotient with `p` significant bits or more, inexact quotients marked in the last bit so that one rounding is exact. -/
def quot (m n p : Nat) (e : Int) (neg : Bool) : FVal :=
  let k := p + Nat.log2 n + 3
  let a := m * 2 ^ k
  .fin neg (2 * (a / n) + (if a % n = 0 then 0 else 1)) (e - k - 1)

/-- Exact-enough quotient for a rounding to `p` bits (R297). -/
def FVal.div (p : Nat) : FVal → FVal → FVal
  | .nan, _ => .nan
  | _, .nan => .nan
  | .inf _, .inf _ => .nan
  | .inf s, .fin t _ _ => .inf (s ^^ t)
  | .fin s _ _, .inf t => .fin (s ^^ t) 0 0
  | .fin s m e, .fin t n f =>
    if n = 0 then (if m = 0 then .nan else .inf (s ^^ t))
    else if m = 0 then .fin (s ^^ t) 0 0
    else quot m n p (e - f) (s ^^ t)

/-- Integer square root by bits: the largest r with r² ≤ m below 2^n more bits. -/
def isqrtFrom : Nat → Nat → Nat → Nat
  | 0, _, r => r
  | n + 1, m, r => isqrtFrom n m (if (r + 2 ^ n) * (r + 2 ^ n) ≤ m then r + 2 ^ n else r)

/-- Integer square root. -/
def isqrt (m : Nat) : Nat := isqrtFrom (Nat.log2 m / 2 + 1) m 0

/-- The square root with `p` bits or more, an inexact root marked in the last bit (R296). -/
def FVal.sqrt (p : Nat) : FVal → FVal
  | .nan => .nan
  | .inf s => if s then .nan else .inf false
  | .fin s m e =>
    if m = 0 then .fin s 0 0
    else if s then .nan
    else
      let k := 2 * p + (if (e % 2 = 0) then 0 else 1)
      let a := m * 2 ^ k
      let r := isqrt a
      .fin false (2 * r + (if r * r = a then 0 else 1)) ((e - k) / 2 - 1)

/-- The least integer-valued rounding of a value in its own sign (R295). -/
def FVal.toIntegral (rm : RM) : FVal → FVal
  | .fin s m e => if e ≥ 0 then .fin s m e else .fin s (roundMag rm s m (-e).toNat) 0
  | v => v

/-- a < b, for values that are not NaN; −0 equals +0. -/
def FVal.lt : FVal → FVal → Bool
  | .nan, _ => false
  | _, .nan => false
  | .inf s, .inf t => s && !t
  | .inf s, .fin _ _ _ => s
  | .fin _ _ _, .inf t => !t
  | .fin s m e, .fin t n f =>
    let lo := min e f
    if m = 0 ∧ n = 0 then false
    else if m = 0 then !t
    else if n = 0 then s
    else decide (signedPart s m e lo < signedPart t n f lo)

/-- The sign of a value. -/
def FVal.sign : FVal → Bool
  | .nan => false
  | .inf s => s
  | .fin s _ _ => s

/-- The lesser value; −0 is less than +0 (R292). -/
def FVal.min (a b : FVal) : FVal :=
  if a == .nan || b == .nan then .nan
  else if a.lt b then a else if b.lt a then b else if a.sign then a else b
/-- The greater value (R292). -/
def FVal.max (a b : FVal) : FVal :=
  if a == .nan || b == .nan then .nan
  else if a.lt b then b else if b.lt a then a else if a.sign then b else a
/-- The lesser value, preferring the number (R292). -/
def FVal.minNum (a b : FVal) : FVal := if a == .nan then b else if b == .nan then a else FVal.min a b
/-- The greater value, preferring the number (R292). -/
def FVal.maxNum (a b : FVal) : FVal := if a == .nan then b else if b == .nan then a else FVal.max a b

/-- An integer as an exact value. -/
def FVal.ofInt (x : Int) : FVal := .fin (decide (x < 0)) x.natAbs 0

/-! ## Conversions (R215, R299) -/

/-- The integer that the low bits of a word hold under an integer type. -/
def intOf (t : Ty) (b : Nat) : Int :=
  let v := BitVec.ofNat t.bits b
  if t.signed then v.toInt else v.toNat

/-- Range of an integer type. -/
def intLo (t : Ty) : Int := if t.signed then -2 ^ (t.bits - 1) else 0
/-- Range of an integer type. -/
def intHi (t : Ty) : Int := if t.signed then 2 ^ (t.bits - 1) - 1 else 2 ^ t.bits - 1

/-- The low bits of an integer at a width. -/
def lowBits (n : Nat) (x : Int) : Nat := (BitVec.ofInt n x).toNat

/-- An integer clamped to a type, the clamp counted. -/
def clampTo (t : Ty) (x : Int) : FRes :=
  if x < intLo t then { bits := lowBits t.bits (intLo t), sat := true }
  else if x > intHi t then { bits := lowBits t.bits (intHi t), sat := true }
  else { bits := lowBits t.bits x }

/-- Floating point to integer (R215). -/
def floatToInt (t : Ty) (rm : RM) (v : FVal) : FRes :=
  match v with
  | .nan => { bits := 0, sat := true }
  | .inf s => { bits := lowBits t.bits (if s then intLo t else intHi t), sat := true }
  | .fin s m e =>
    if m ≠ 0 ∧ e + Nat.log2 m > 70 then { bits := lowBits t.bits (if s then intLo t else intHi t), sat := true }
    else
      let x : Nat := if e ≥ 0 then m * 2 ^ e.toNat else roundMag rm s m (-e).toNat
      clampTo t (if s then -(x : Int) else x)

/-- Converts a pattern from a type to another (R299); the same type copies the bits, and a NaN counts as any that is written (R226). -/
def convert (src dst : Ty) (rm : RM) (sat : Bool) (b : Nat) : FRes :=
  let b := b % 2 ^ src.bits
  if src = dst then { bits := b, nan := src.isFloat && (fmtOf src).decode b == .nan }
  else if src.isInt then
    let x := intOf src b
    if dst.isInt then
      if sat then clampTo dst x else { bits := lowBits dst.bits x }
    else (fmtOf dst).round rm sat (.ofInt x)
  else
    let v := (fmtOf src).decode b
    if dst.isInt then floatToInt dst rm v else (fmtOf dst).round rm sat v

/-! ## N blocks (R216-R218) -/

/-- Magnitude bits of an N format code 2-4 (R216, R219). -/
def nMag (code : Nat) : Nat := if code = 2 then 7 else if code = 3 then 4 else 2
/-- Bytes of a block. -/
def nBytes (code : Nat) : Nat := if code = 2 then 18 else if code = 3 then 12 else 8

/-- Element `i` of a block (R217): zeros read as +0. -/
def nElem (code : Nat) (blk i : Nat) : FVal :=
  let m := nMag code
  let e := blk % 256
  let mu := blk / 2 ^ (8 + i / 2) % 2
  let fld := blk / 2 ^ (16 + (m + 1) * i) % 2 ^ (m + 1)
  let mag := fld % 2 ^ m
  if e = 255 then .nan
  else if mag = 0 then .fin false 0 0
  else .fin (fld / 2 ^ m == 1) mag ((e : Int) - 127 - mu - (m - 1))

/-- FLOOR(LOG2 |x|) of a non-zero finite value. -/
def FVal.expo : FVal → Int
  | .fin _ m e => e + Nat.log2 m
  | _ => 0
/-- The value is a zero. -/
def FVal.isZero : FVal → Bool
  | .fin _ m _ => m == 0
  | _ => false
/-- The value is finite. -/
def FVal.isFin : FVal → Bool
  | .fin _ _ _ => true
  | _ => false

/-- A block with its counts. -/
structure NBlk where
  bits : Nat
  sat  : Nat
  fl   : Nat
  nan  : Nat
  deriving DecidableEq, Repr

/-- CVTB_BLOCK (R218). -/
def nEncode (code : Nat) (rm : RM) (xs : List FVal) : NBlk :=
  let m := nMag code
  if xs.any (fun x => !x.isFin) then { bits := 255, sat := 0, fl := 0, nan := 1 }
  else
    let exps := (xs.filter (fun x => !x.isZero)).map FVal.expo
    let e : Int := match exps with
      | [] => 0
      | y :: ys => let t := ys.foldl max y; max 0 (min 254 (t + 127))
    let small (x : FVal) : Bool := x.isZero || decide (x.expo < e - 128)
    let mu (j : Nat) : Nat := if small (xs.getD (2 * j) .nan) && small (xs.getD (2 * j + 1) .nan) then 1 else 0
    let base : Nat := e.toNat + (List.range 8).foldl (fun a j => a + mu j * 2 ^ (8 + j)) 0
    (List.range 16).foldl (fun acc i =>
      match xs.getD i .nan with
      | .fin s mm ex =>
        let k : Int := ex + (m - 1) - (e - 127 - mu (i / 2))
        let q := if k ≥ 0 then mm * 2 ^ (min k.toNat 300) else roundMag rm s mm (-k).toNat
        let big := decide (q > 2 ^ m - 1)
        let q := if big then 2 ^ m - 1 else q
        let sg := if q = 0 then 0 else if s then 1 else 0
        { bits := acc.bits + (sg * 2 ^ m + q) * 2 ^ (16 + (m + 1) * i), sat := acc.sat + (if big then 1 else 0),
          fl := acc.fl + (if mm ≠ 0 ∧ q = 0 then 1 else 0), nan := acc.nan }
      | _ => acc) { bits := base, sat := 0, fl := 0, nan := 0 }

/-! ## Counting -/

/-- Counts of results under a tensor id (R226). -/
def countOf (tid : Nat) (rs : List FRes) : Cnt :=
  { tid := tid, sat := (rs.filter (fun r => r.sat)).length, fl := (rs.filter (fun r => r.fl)).length,
    nan := (rs.filter (fun r => r.nan)).length }

end Sys2Proof.Machine
end

