-- ==== Sys2Proof/Machine/Special.lean ====
section
/-!
DEFINITION. The special functions of R296, in fixed point with far more bits than the rounding to f32 needs (log 8).
-/

namespace Sys2Proof.Machine

/-- Fraction bits of the fixed-point values. -/
def fxBits : Nat := 512
/-- One in fixed point. -/
def fxOne : Nat := 2 ^ 512
/-- π/2 with 704 fraction bits. -/
def halfPi : Nat :=
  0x1921FB54442D18469898CC51701B839A252049C1114CF98E804177D4C76273644A29410F31C6809BBDF2A33679A748636605614DBE4BE286E9FC26ADADAA3848BC90B6AECC4BCFD8DE89885D34C6FDAD617FEB96DE80D6FDB
/-- The natural logarithm of 2 with 512 fraction bits. -/
def ln2 : Nat :=
  0xB17217F7D1CF79ABC9E3B39803F2F6AF40F343267298B62D8A0D175B8BAAFA2BE7B876206DEBAC98559552FB4AFA1B10ED2EAE35C138214427573B291169B825

/-- Σ of the terms t·x^i/((k+1)…(k+i)) from a first term: `n` terms of the exponential series. -/
def expSum : Nat → Nat → Nat → Nat → Nat
  | 0, _, _, _ => 0
  | n + 1, k, x, t => t + expSum n (k + 1) x (t * x / (fxOne * (k + 1)))

/-- e^x for x in [0, 1) in fixed point. -/
def fxExp (x : Nat) : Nat := expSum 110 0 x fxOne

/-- Σ z^(2i+1)/(2i+1) from a first power. -/
def atanhSum : Nat → Nat → Nat → Nat → Nat
  | 0, _, _, _ => 0
  | n + 1, k, z2, t => t / k + atanhSum n (k + 2) z2 (t * z2 / fxOne)

/-- Σ of an alternating series whose next term divides by (k+1)(k+2). -/
def trigSum : Nat → Nat → Nat → Int → Int
  | 0, _, _, _ => 0
  | n + 1, k, x2, t => t + trigSum n (k + 2) x2 (-(t * x2 / (fxOne * ((k + 1) * (k + 2)) : Nat)))

/-- sin x for x in [0, π/2) in fixed point. -/
def fxSin (x : Nat) : Int := trigSum 60 1 (x * x / fxOne) x
/-- cos x for x in [0, π/2) in fixed point. -/
def fxCos (x : Nat) : Int := trigSum 60 0 (x * x / fxOne) fxOne

/-- An irrational result known to about 500 bits: its last bit is set so that one rounding is exact. -/
def fxVal (neg : Bool) (v : Nat) (e : Int) : FVal := .fin neg (2 * v + 1) (e - fxBits - 1)

/-- m·2^e in fixed point with `b` fraction bits; exact for the values of R208's narrow formats. -/
def toFx (b m : Nat) (e : Int) : Nat := if e + b ≥ 0 then m * 2 ^ (e + b).toNat else m / 2 ^ (-(e + b)).toNat

/-- 1/a. -/
def spRcp (v : FVal) : FVal := FVal.div 60 (.fin false 1 0) v

/-- 1/√a. -/
def spRsq (v : FVal) : FVal :=
  match v with
  | .nan => .nan
  | .inf s => if s then .nan else .fin false 0 0
  | .fin s m e =>
    if m = 0 then .inf s
    else if s then .nan
    else
      let (m, e) := if e % 2 = 0 then (m, e) else (2 * m, e - 1)
      let k := 60 + Nat.log2 m
      let r := isqrt (2 ^ (2 * k) / m)
      .fin false (2 * r + (if m * (r * r) = 2 ^ (2 * k) then 0 else 1)) (-(e / 2) - k - 1)

/-- 2^a. -/
def spExp2 (v : FVal) : FVal :=
  match v with
  | .nan => .nan
  | .inf s => if s then .fin false 0 0 else .inf false
  | .fin s m e =>
    if m = 0 then .fin false 1 0
    else if e + Nat.log2 m ≥ 12 then .fin false 1 (if s then -4096 else 4096)
    else
      let a : Int := (if s then -1 else 1) * toFx fxBits m e
      let n := a.fdiv fxOne
      let f := (a.fmod fxOne).toNat
      if f = 0 then .fin false 1 n else fxVal false (fxExp (f * ln2 / fxOne)) n

/-- log2 a. -/
def spLog2 (v : FVal) : FVal :=
  match v with
  | .nan => .nan
  | .inf s => if s then .nan else .inf false
  | .fin s m e =>
    if m = 0 then .inf true
    else if s then .nan
    else
      let k := Nat.log2 m
      let n : Int := e + k
      if m = 2 ^ k then .ofInt n
      else
        let z := (m - 2 ^ k) * fxOne / (m + 2 ^ k)
        let l := 2 * atanhSum 170 1 (z * z / fxOne) z * fxOne / ln2
        let t : Int := n * fxOne + l
        fxVal (decide (t < 0)) t.natAbs 0

/-- Quadrant and remainder of a magnitude by π/2. -/
def trigReduce (m : Nat) (e : Int) : Nat × Nat :=
  let a := toFx 704 m e
  (a / halfPi % 4, a % halfPi / 2 ^ 192)

/-- A fixed-point sine or cosine with its sign. -/
def trigVal (neg : Bool) (t : Int) : FVal := fxVal (neg ^^ decide (t < 0)) t.natAbs 0

/-- sin a. -/
def spSin (v : FVal) : FVal :=
  match v with
  | .nan => .nan
  | .inf _ => .nan
  | .fin s m e =>
    if m = 0 then .fin s 0 0
    else
      let (q, r) := trigReduce m e
      trigVal (s ^^ decide (q ≥ 2)) (if q % 2 = 0 then fxSin r else fxCos r)

/-- cos a. -/
def spCos (v : FVal) : FVal :=
  match v with
  | .nan => .nan
  | .inf _ => .nan
  | .fin _ m e =>
    if m = 0 then .fin false 1 0
    else
      let (q, r) := trigReduce m e
      trigVal (q == 1 || q == 2) (if q % 2 = 0 then fxCos r else fxSin r)

/-- tanh a. -/
def spTanh (v : FVal) : FVal :=
  match v with
  | .nan => .nan
  | .inf s => .fin s 1 0
  | .fin s m e =>
    if m = 0 then .fin s 0 0
    else if e + Nat.log2 m ≥ 6 then .fin s (2 ^ 150 - 1) (-150)
    else
      let x := 2 * toFx fxBits m e
      let t := fxExp (x % ln2) * 2 ^ (x / ln2)
      fxVal s ((t - fxOne) * fxOne / (t + fxOne)) 0

/-- The result of a special function other than FSQRT (R296): rounded to the nearest f32, and for f16 and bf16 that result rounded
once more under RM. -/
def special (t : Ty) (rm : RM) (sat : Bool) (f : FVal → FVal) (b : Nat) : FRes :=
  let r := fmt32.round .rne sat (f ((fmtOf t).decode b))
  if t == .f32 then r
  else
    let r2 := (fmtOf t).round rm sat (fmt32.decode r.bits)
    { r2 with sat := r.sat || r2.sat }

end Sys2Proof.Machine
end

