-- ==== Sys2Proof/Machine/VFloat.lean ====
section
/-!
DEFINITION. The vector floating-point group, OPC 0x60-0x6B (R291-R298).
-/

namespace Sys2Proof.Machine

/-- A lane's value in a floating-point type. -/
def Warp.fval (w : Warp) (ty : Ty) (r : VReg) (l : Nat) : FVal := (fmtOf ty).decode (w.lane ty r l).toNat
/-- A lane of the B operand in a floating-point type. -/
def Warp.fvalB (w : Warp) (ty : Ty) (b : VSrc) (l : Nat) : FVal := (fmtOf ty).decode (w.blane ty b l).toNat

/-- Writes lane results and counts them under tensor id 0 (R225, R283). -/
def Warp.putRes (w : Warp) (ty : Ty) (d : VReg) (act : Word32) (g : Nat → FRes) : Warp × Cnt :=
  let rs := (lanesOf act).map (fun l => (l, g l))
  let at' (l : Nat) : Nat := ((rs.find? (fun r => r.1 == l)).map (fun r => r.2.bits)).getD 0
  (w.putLanes ty d act (fun l => BitVec.ofNat 64 (at' l)), countOf 0 (rs.map (fun r => r.2)))

/-- A floating-point instruction with its source spans and its result in each lane. -/
def fop (p : Pred) (ty : Ty) (d : VReg) (srcs : Warp → List Span) (g : Warp → Nat → FRes) (s : State) : Out :=
  regOp (fun w => w.vDst ty d p :: srcs w) (fun w => .ok (w.putRes ty d (w.active p) (g w))) s
/-- D, A, B: an exact value rounded once under FMODE. -/
def fop3 (p : Pred) (ty : Ty) (d a : VReg) (b : VSrc) (f : RM → FVal → FVal → FVal) (s : State) : Out :=
  fop p ty d (fun w => w.vSrc ty a :: w.bSrc ty b)
    (fun w l => (fmtOf ty).round w.rm w.sat (f w.rm (w.fval ty a l) (w.fvalB ty b l))) s
/-- D, A, B, C: an exact value rounded once under FMODE. -/
def fop4 (p : Pred) (ty : Ty) (d a b c : VReg) (f : RM → FVal → FVal → FVal → FVal) (s : State) : Out :=
  fop p ty d (fun w => [w.vSrc ty a, w.vSrc ty b, w.vSrc ty c])
    (fun w l => (fmtOf ty).round w.rm w.sat (f w.rm (w.fval ty a l) (w.fval ty b l) (w.fval ty c l))) s

/-- FADD (R291). -/
def execFadd (p : Pred) (ty : Ty) (d a : VReg) (b : VSrc) (s : State) : Out :=
  fop3 p ty d a b (fun rm x y => FVal.add rm x y) s
/-- FSUB (R291). -/
def execFsub (p : Pred) (ty : Ty) (d a : VReg) (b : VSrc) (s : State) : Out :=
  fop3 p ty d a b (fun rm x y => FVal.add rm x y.neg) s
/-- FMUL (R291). -/
def execFmul (p : Pred) (ty : Ty) (d a : VReg) (b : VSrc) (s : State) : Out :=
  fop3 p ty d a b (fun _ x y => x.mul y) s
/-- FMA (R291). -/
def execFma (p : Pred) (ty : Ty) (d a b c : VReg) (s : State) : Out :=
  fop4 p ty d a b c (fun rm x y z => FVal.add rm (x.mul y) z) s
/-- FMS (R291). -/
def execFms (p : Pred) (ty : Ty) (d a b c : VReg) (s : State) : Out :=
  fop4 p ty d a b c (fun rm x y z => FVal.add rm (x.mul y) z.neg) s
/-- FNMA (R291). -/
def execFnma (p : Pred) (ty : Ty) (d a b c : VReg) (s : State) : Out :=
  fop4 p ty d a b c (fun rm x y z => FVal.add rm (x.mul y).neg z.neg) s
/-- FNMS (R291). -/
def execFnms (p : Pred) (ty : Ty) (d a b c : VReg) (s : State) : Out :=
  fop4 p ty d a b c (fun rm x y z => FVal.add rm (x.mul y).neg z) s
/-- FMIN (R292): a subnormal result to f16 or bf16 is flushed as any other (R214, R285; log 9). -/
def execFmin (p : Pred) (ty : Ty) (d a : VReg) (b : VSrc) (s : State) : Out :=
  fop3 p ty d a b (fun _ x y => x.min y) s
/-- FMAX (R292). -/
def execFmax (p : Pred) (ty : Ty) (d a : VReg) (b : VSrc) (s : State) : Out :=
  fop3 p ty d a b (fun _ x y => x.max y) s
/-- FMINNUM (R292). -/
def execFminnum (p : Pred) (ty : Ty) (d a : VReg) (b : VSrc) (s : State) : Out :=
  fop3 p ty d a b (fun _ x y => x.minNum y) s
/-- FMAXNUM (R292). -/
def execFmaxnum (p : Pred) (ty : Ty) (d a : VReg) (b : VSrc) (s : State) : Out :=
  fop3 p ty d a b (fun _ x y => x.maxNum y) s
/-- The sign bit of a type in a lane's value. -/
def signMask (ty : Ty) : Word := BitVec.ofNat 64 (2 ^ (ty.bits - 1))
/-- FABS (R293): a bit operation. -/
def execFabs (p : Pred) (ty : Ty) (d a : VReg) (s : State) : Out :=
  regOp (fun w => [w.vDst ty d p, w.vSrc ty a])
    (fun w => .ok (w.putLanes ty d (w.active p) (fun l => w.lane ty a l &&& ~~~signMask ty), {})) s
/-- FNEG (R293): a bit operation. -/
def execFneg (p : Pred) (ty : Ty) (d a : VReg) (s : State) : Out :=
  regOp (fun w => [w.vDst ty d p, w.vSrc ty a])
    (fun w => .ok (w.putLanes ty d (w.active p) (fun l => w.lane ty a l ^^^ signMask ty), {})) s
/-- FCOPYSIGN (R293): a bit operation. -/
def execFcopysign (p : Pred) (ty : Ty) (d a b : VReg) (s : State) : Out :=
  regOp (fun w => [w.vDst ty d p, w.vSrc ty a, w.vSrc ty b])
    (fun w => .ok (w.putLanes ty d (w.active p)
      (fun l => (w.lane ty a l &&& ~~~signMask ty) ||| (w.lane ty b l &&& signMask ty)), {})) s
/-- The relations of FCMP (R293). -/
def relFloat (rel : BitVec 3) (x y : FVal) : Bool :=
  let un := x == .nan || y == .nan
  let lt := x.lt y
  let gt := y.lt x
  match rel.toNat with
  | 0 => !un && !lt && !gt
  | 1 => un || lt || gt
  | 2 => lt
  | 3 => !un && !gt
  | 4 => gt
  | 5 => !un && !lt
  | 6 => !un
  | _ => un
/-- FCMP (R293). -/
def execFcmp (p : Pred) (rel : BitVec 3) (ty : Ty) (d : MReg) (a : VReg) (b : VSrc) (s : State) : Out :=
  regOp (fun w => w.vSrc ty a :: w.bSrc ty b)
    (fun w =>
      let act := w.active p
      .ok (w.putMask d act (maskOf act (fun l => relFloat rel (w.fval ty a l) (w.fvalB ty b l))), {})) s
/-- The bit of a value's class (R294). -/
def classBit (f : Fmt) (v : FVal) : Nat :=
  match v with
  | .nan => 9
  | .inf s => if s then 1 else 8
  | .fin s m _ =>
    if m = 0 then (if s then 4 else 5)
    else if m < 2 ^ f.fb then (if s then 3 else 6)
    else if s then 2 else 7
/-- FCLASS (R294). -/
def execFclass (p : Pred) (ty : Ty) (d a : VReg) (s : State) : Out :=
  regOp (fun w => [w.vDst ty d p, w.vSrc ty a])
    (fun w => .ok (w.putLanes ty d (w.active p)
      (fun l => BitVec.ofNat 64 (2 ^ classBit (fmtOf ty) (w.fval ty a l))), {})) s
/-- FRND (R295): the mode of the instruction when bit 2 is set, else FMODE.RM. -/
def execFrnd (p : Pred) (ty : Ty) (d a : VReg) (mode : BitVec 3) (s : State) : Out :=
  fop p ty d (fun w => [w.vSrc ty a])
    (fun w l =>
      let rm := if mode.getLsbD 2 then RM.ofCode (mode.extractLsb' 0 2) else w.rm
      (fmtOf ty).round .rne false ((w.fval ty a l).toIntegral rm)) s
/-- A special function (R296). -/
def fspec (p : Pred) (ty : Ty) (d a : VReg) (f : FVal → FVal) (s : State) : Out :=
  fop p ty d (fun w => [w.vSrc ty a]) (fun w l => special ty w.rm w.sat f (w.lane ty a l).toNat) s
/-- FRCP (R296). -/
def execFrcp (p : Pred) (ty : Ty) (d a : VReg) (s : State) : Out := fspec p ty d a spRcp s
/-- FRSQ (R296). -/
def execFrsq (p : Pred) (ty : Ty) (d a : VReg) (s : State) : Out := fspec p ty d a spRsq s
/-- FSQRT (R296): correctly rounded under RM in every type. -/
def execFsqrt (p : Pred) (ty : Ty) (d a : VReg) (s : State) : Out :=
  fop p ty d (fun w => [w.vSrc ty a]) (fun w l => (fmtOf ty).round w.rm w.sat ((w.fval ty a l).sqrt 60)) s
/-- FEXP2 (R296). -/
def execFexp2 (p : Pred) (ty : Ty) (d a : VReg) (s : State) : Out := fspec p ty d a spExp2 s
/-- FLOG2 (R296). -/
def execFlog2 (p : Pred) (ty : Ty) (d a : VReg) (s : State) : Out := fspec p ty d a spLog2 s
/-- FSIN (R296). -/
def execFsin (p : Pred) (ty : Ty) (d a : VReg) (s : State) : Out := fspec p ty d a spSin s
/-- FCOS (R296). -/
def execFcos (p : Pred) (ty : Ty) (d a : VReg) (s : State) : Out := fspec p ty d a spCos s
/-- FTANH (R296). -/
def execFtanh (p : Pred) (ty : Ty) (d a : VReg) (s : State) : Out := fspec p ty d a spTanh s
/-- FDIV (R297). -/
def execFdiv (p : Pred) (ty : Ty) (d a b : VReg) (s : State) : Out :=
  fop p ty d (fun w => [w.vSrc ty a, w.vSrc ty b])
    (fun w l => (fmtOf ty).round w.rm w.sat (FVal.div 60 (w.fval ty a l) (w.fval ty b l))) s
/-- A lane of FSCALE: a NaN passes through with its sign and counts.  R210 asks for the canonical NaN of sign 0 of every instruction but the
moves, the bit operations, FABS, FNEG and FCOPYSIGN; the model follows what R298 says of FSCALE itself (log 63). -/
def scaleRes (ty : Ty) (rm : RM) (sat : Bool) (a : Nat) (b : Int) : FRes :=
  match (fmtOf ty).decode a with
  | .nan => { bits := a, nan := true }
  | x => (fmtOf ty).round rm sat (x.scale b)

/-- FSCALE (R298): B is an i32 operand in every form. -/
def execFscale (p : Pred) (ty : Ty) (d a : VReg) (b : VSrc) (s : State) : Out :=
  fop p ty d (fun w => w.vSrc ty a :: w.bSrc .i32 b)
    (fun w l => scaleRes ty w.rm w.sat (w.lane ty a l).toNat ((w.blane .i32 b l).truncate 32 : Word32).toInt) s

end Sys2Proof.Machine
end

