-- ==== Sys2Proof/Machine/Convert.lean ====
section
/-!
DEFINITION. Conversions and packing, OPC 0x80-0x83 (R299-R302).
-/

namespace Sys2Proof.Machine

/-- CVT (R299). -/
def execCvt (p : Pred) (ty src : Ty) (d a : VReg) (s : State) : Out :=
  fop p ty d (fun w => [w.vSrc src a]) (fun w l => convert src ty w.rm w.sat (w.lane src a l).toNat) s

/-- The 64 bytes of half `h` of a register. -/
def halfOf (d : LineData) (h : Nat) : BitVec 512 := d.extractLsb' (512 * h) 512
/-- The active bits of half `h`. -/
def actHalf (act : Word32) (h : Nat) : BitVec 16 := act.extractLsb' (16 * h) 16

/-- CVTB (R300): each fully active half gives one block.  WINDOW and the fills of window lines come before ILLEGAL for a partly active half: the spec
gives no order, and this is the model's choice (log 70). -/
def execCvtb (p : Pred) (ty : Ty) (code : BitVec 4) (d a : VReg) (s : State) : Out :=
  regOp (fun w => [w.vDst .b32 d p, w.vSrc ty a])
    (fun w =>
      let act := w.active p
      let full (h : Nat) : Bool := actHalf act h == BitVec.allOnes 16
      if [0, 1].any (fun h => !full h && actHalf act h != 0) then .error (trapOf 0x01)
      else
        let blk (h : Nat) : NBlk := nEncode code.toNat w.rm ((List.range 16).map (fun i => w.fval ty a (16 * h + i)))
        let i := w.wbo + w.vOff d
        let old := w.line i
        let r0 := if full 0 then blk 0 else { bits := 0, sat := 0, fl := 0, nan := 0 }
        let r1 := if full 1 then blk 1 else { bits := 0, sat := 0, fl := 0, nan := 0 }
        let lo : BitVec 512 := if full 0 then BitVec.ofNat 512 r0.bits else halfOf old 0
        let hi : BitVec 512 := if full 1 then BitVec.ofNat 512 r1.bits else halfOf old 1
        let w := if act = 0 then w else w.putLine i (hi ++ lo)
        .ok (w, { tid := 0, sat := r0.sat + r1.sat, fl := r0.fl + r1.fl, nan := r0.nan + r1.nan })) s

/-- PACK (R301): with an 8-bit type D is also a source. -/
def execPack (p : Pred) (ty src : Ty) (d a b : VReg) (s : State) : Out :=
  let w16 := ty.bits == 16
  regOp (fun w => [⟨w.vOff d, 1, !(predFull p && w16)⟩, w.vSrc src a, w.vSrc src b])
    (fun w =>
      let act := w.active p
      let rs := (lanesOf act).map (fun l =>
        (l, convert src ty w.rm w.sat (w.lane src a l).toNat, convert src ty w.rm w.sat (w.lane src b l).toNat))
      let word (l : Nat) : Word :=
        match rs.find? (fun r => r.1 == l) with
        | some (_, x, y) =>
          if w16 then BitVec.ofNat 64 (y.bits * 2 ^ 16 + x.bits)
          else BitVec.ofNat 64 ((w.lane .b32 d l).toNat % 2 ^ 16 * 2 ^ 16 + y.bits * 2 ^ 8 + x.bits)
        | none => 0
      .ok (w.putLanes .b32 d act word, countOf 0 (rs.flatMap (fun r => [r.2.1, r.2.2])))) s

/-- UNPACK (R302): converts one part of each lane. -/
def execUnpack (p : Pred) (ty dst : Ty) (part : BitVec 2) (d a : VReg) (s : State) : Out :=
  fop p dst d (fun w => [w.vSrc .b32 a])
    (fun w l => convert ty dst w.rm w.sat ((w.lane .b32 a l).toNat / 2 ^ (ty.bits * part.toNat))) s

end Sys2Proof.Machine
end

