-- ==== Sys2Proof/Machine/Vector.lean ====
section
/-!
DEFINITION. The vector integer group, OPC 0x40-0x4D (R287-R290).
-/

namespace Sys2Proof.Machine

/-- VADD (R287). -/
def execVadd (p : Pred) (ty : Ty) (d a : VReg) (b : VSrc) (s : State) : Out :=
  vec3 p ty d a b (fun _ x y => x + y) s
/-- VSUB (R287). -/
def execVsub (p : Pred) (ty : Ty) (d a : VReg) (b : VSrc) (s : State) : Out :=
  vec3 p ty d a b (fun _ x y => x - y) s
/-- VMUL (R287). -/
def execVmul (p : Pred) (ty : Ty) (d a : VReg) (b : VSrc) (s : State) : Out :=
  vec3 p ty d a b (fun _ x y => x * y) s
/-- VMULH (R287). -/
def execVmulh (p : Pred) (ty : Ty) (d a : VReg) (b : VSrc) (s : State) : Out :=
  vec3 p ty d a b (fun _ x y => mulHigh ty.signed x y) s
/-- A vector instruction D, A, B, C that counts nothing. -/
def vec4 (p : Pred) (ty : Ty) (d a b c : VReg) (f : Word → Word → Word → Word) (s : State) : Out :=
  regOp (fun w => [w.vDst ty d p, w.vSrc ty a, w.vSrc ty b, w.vSrc ty c])
    (fun w => .ok (w.putLanes ty d (w.active p) (fun l => f (w.lane ty a l) (w.lane ty b l) (w.lane ty c l)), {})) s
/-- VMAD (R287): the low bits of a 64-bit multiply-add are those at every narrower width. -/
def execVmad (p : Pred) (ty : Ty) (d a b c : VReg) (s : State) : Out := vec4 p ty d a b c (fun x y z => x * y + z) s
/-- VAND (R287). -/
def execVand (p : Pred) (ty : Ty) (d a : VReg) (b : VSrc) (s : State) : Out :=
  vec3 p ty d a b (fun _ x y => x &&& y) s
/-- VOR (R287). -/
def execVor (p : Pred) (ty : Ty) (d a : VReg) (b : VSrc) (s : State) : Out :=
  vec3 p ty d a b (fun _ x y => x ||| y) s
/-- VXOR (R287). -/
def execVxor (p : Pred) (ty : Ty) (d a : VReg) (b : VSrc) (s : State) : Out :=
  vec3 p ty d a b (fun _ x y => x ^^^ y) s
/-- VANDN (R287). -/
def execVandn (p : Pred) (ty : Ty) (d a : VReg) (b : VSrc) (s : State) : Out :=
  vec3 p ty d a b (fun _ x y => x &&& ~~~y) s
/-- VSHL (R287). -/
def execVshl (p : Pred) (ty : Ty) (d a : VReg) (b : VSrc) (s : State) : Out :=
  vec3 p ty d a b (fun n x y => x <<< (y.toNat % n)) s
/-- VSHR (R287). -/
def execVshr (p : Pred) (ty : Ty) (d a : VReg) (b : VSrc) (s : State) : Out :=
  vec3 p ty d a b (fun n x y => x >>> (y.toNat % n)) s
/-- VSRA (R287). -/
def execVsra (p : Pred) (ty : Ty) (d a : VReg) (b : VSrc) (s : State) : Out :=
  vec3 p ty d a b (fun n x y => x.sshiftRight (y.toNat % n)) s
/-- VROT (R287). -/
def execVrot (p : Pred) (ty : Ty) (d a : VReg) (b : VSrc) (s : State) : Out :=
  vec3 p ty d a b (fun n x y => x.rotateLeft (y.toNat % n)) s
/-- VMIN (R287). -/
def execVmin (p : Pred) (ty : Ty) (d a : VReg) (b : VSrc) (s : State) : Out :=
  vec3 p ty d a b (fun _ x y => minV ty.signed x y) s
/-- VMAX (R287). -/
def execVmax (p : Pred) (ty : Ty) (d a : VReg) (b : VSrc) (s : State) : Out :=
  vec3 p ty d a b (fun _ x y => maxV ty.signed x y) s
/-- VABS (R287). -/
def execVabs (p : Pred) (ty : Ty) (d a : VReg) (s : State) : Out := vec2 p ty d a (fun _ x => if x.msb then -x else x) s
/-- VNEG (R287). -/
def execVneg (p : Pred) (ty : Ty) (d a : VReg) (s : State) : Out := vec2 p ty d a (fun _ x => -x) s
/-- VCLZ (R287). -/
def execVclz (p : Pred) (ty : Ty) (d a : VReg) (s : State) : Out := vec2 p ty d a (fun _ x => clzV x) s
/-- VPOP (R287). -/
def execVpop (p : Pred) (ty : Ty) (d a : VReg) (s : State) : Out := vec2 p ty d a (fun _ x => popV x) s
/-- VSEL (R289). -/
def execVsel (p : Pred) (ty : Ty) (d a b : VReg) (c : MReg) (s : State) : Out :=
  regOp (fun w => [w.vDst ty d p, w.vSrc ty a, w.vSrc ty b])
    (fun w => .ok (w.putLanes ty d (w.active p)
      (fun l => if (w.m c).getLsbD l then w.lane ty a l else w.lane ty b l), {})) s
/-- A lane's integer value. -/
def laneInt (ty : Ty) (x : Word) : Int :=
  if ty.signed then (if ty.wide then x.toInt else (x.truncate 32 : Word32).toInt) else x.toNat
/-- Integer relations eq, ne, lt, le, gt, ge (R289). -/
def relInt (rel : BitVec 3) (x y : Int) : Bool :=
  match rel.toNat with
  | 0 => decide (x = y)
  | 1 => decide (x ≠ y)
  | 2 => decide (x < y)
  | 3 => decide (x ≤ y)
  | 4 => decide (x > y)
  | _ => decide (x ≥ y)
/-- VCMP (R289). -/
def execVcmp (p : Pred) (rel : BitVec 3) (ty : Ty) (d : MReg) (a : VReg) (b : VSrc) (s : State) : Out :=
  regOp (fun w => w.vSrc ty a :: w.bSrc ty b)
    (fun w =>
      let act := w.active p
      .ok (w.putMask d act (maskOf act (fun l => relInt rel (laneInt ty (w.lane ty a l)) (laneInt ty (w.blane ty b l)))), {})) s
/-- VMOV (R290). -/
def execVmov (p : Pred) (ty : Ty) (d a : VReg) (s : State) : Out := vec2 p ty d a (fun _ x => x) s
/-- A vector instruction with no vector source. -/
def vec1 (p : Pred) (ty : Ty) (d : VReg) (f : Warp → Nat → Word) (s : State) : Out :=
  regOp (fun w => [w.vDst ty d p]) (fun w => .ok (w.putLanes ty d (w.active p) (f w), {})) s
/-- VBCAST (R290). -/
def execVbcast (p : Pred) (ty : Ty) (d : VReg) (a : SReg) (s : State) : Out := vec1 p ty d (fun w _ => w.s a) s
/-- VMOVI (R290). -/
def execVmovi (p : Pred) (ty : Ty) (d : VReg) (v : Word32) (s : State) : Out := vec1 p ty d (fun _ _ => v.zeroExtend 64) s
/-- VLANE (R290), TY n32. -/
def execVlane (p : Pred) (d : VReg) (s : State) : Out := vec1 p .n32 d (fun _ l => BitVec.ofNat 64 l) s
/-- A lane result clamped to the range of a type, uncounted (R288). -/
def clampLane (ty : Ty) (x : Int) : Word := BitVec.ofNat 64 (clampTo ty x).bits
/-- VADDS (R288). -/
def execVadds (p : Pred) (ty : Ty) (d a : VReg) (b : VSrc) (s : State) : Out :=
  regOp (fun w => w.vDst ty d p :: w.vSrc ty a :: w.bSrc ty b)
    (fun w => .ok (w.putLanes ty d (w.active p)
      (fun l => clampLane ty (laneInt ty (w.lane ty a l) + laneInt ty (w.blane ty b l))), {})) s
/-- VSUBS (R288). -/
def execVsubs (p : Pred) (ty : Ty) (d a : VReg) (b : VSrc) (s : State) : Out :=
  regOp (fun w => w.vDst ty d p :: w.vSrc ty a :: w.bSrc ty b)
    (fun w => .ok (w.putLanes ty d (w.active p)
      (fun l => clampLane ty (laneInt ty (w.lane ty a l) - laneInt ty (w.blane ty b l))), {})) s

end Sys2Proof.Machine
end

