-- ==== Sys2Proof/Machine/Collective.lean ====
section
/-!
DEFINITION. Warp collectives and mask instructions, OPC 0x84-0x8A (R303-R309), with the G16 behaviour of R309 in each.
-/

namespace Sys2Proof.Machine

/-- The half of a lane in a G16 warp. -/
def halfBase (l : Nat) : Nat := 16 * (l / 16)

/-- A shuffle (R303, R309): the source lane is chosen from the lane and the index or distance; `none` keeps the lane's own value. -/
def shfl (p : Pred) (ty : Ty) (d a : VReg) (extra : Warp → List Span) (src : Warp → Nat → Option Nat) (s : State) : Out :=
  regOp (fun w => w.vDst ty d p :: w.vSrc ty a :: extra w)
    (fun w => .ok (w.putLanes ty d (w.active p) (fun l => w.lane ty a ((src w l).getD l)), {})) s

/-- SHFL.idx (R303). -/
def execShflIdx (p : Pred) (ty : Ty) (d a b : VReg) (s : State) : Out :=
  shfl p ty d a (fun w => [w.vSrc .n32 b])
    (fun w l =>
      let x := (w.lane .n32 b l).toNat
      some (if w.g16 then halfBase l + x % 16 else x % 32)) s
/-- SHFL.up (R303). -/
def execShflUp (p : Pred) (ty : Ty) (d a : VReg) (b : SSrc) (s : State) : Out :=
  shfl p ty d a (fun _ => [])
    (fun w l =>
      let n := (w.ssrc b false).toNat
      if (if w.g16 then l % 16 else l) ≥ n then some (l - n) else none) s
/-- SHFL.dn (R303). -/
def execShflDn (p : Pred) (ty : Ty) (d a : VReg) (b : SSrc) (s : State) : Out :=
  shfl p ty d a (fun _ => [])
    (fun w l =>
      let n := (w.ssrc b false).toNat
      if (if w.g16 then decide (l % 16 + n ≤ 15) else decide (l + n ≤ 31)) then some (l + n) else none) s
/-- SHFL.xor (R303). -/
def execShflXor (p : Pred) (ty : Ty) (d a : VReg) (b : SSrc) (s : State) : Out :=
  shfl p ty d a (fun _ => [])
    (fun w l =>
      let n := (w.ssrc b false).toNat
      some (l ^^^ (if w.g16 then n % 16 else n % 32))) s

/-- The lanes that vote together with a lane: all, or its half in a G16 warp (R304, R309). -/
def voters (g16 : Bool) (act : Word32) (l : Nat) : List Nat :=
  (lanesOf act).filter (fun k => !g16 || halfBase k == halfBase l)

/-- VOTE.all (R304). -/
def execVoteAll (p : Pred) (d a : MReg) (s : State) : Out :=
  warpOp (fun w =>
    let act := w.active p
    w.putMask d act (maskOf act (fun l => (voters w.g16 act l).all (fun k => (w.m a).getLsbD k)))) s
/-- VOTE.any (R304). -/
def execVoteAny (p : Pred) (d a : MReg) (s : State) : Out :=
  warpOp (fun w =>
    let act := w.active p
    w.putMask d act (maskOf act (fun l => (voters w.g16 act l).any (fun k => (w.m a).getLsbD k)))) s
/-- VOTE.eq (R304). -/
def execVoteEq (p : Pred) (ty : Ty) (d : MReg) (a : VReg) (s : State) : Out :=
  regOp (fun w => [w.vSrc ty a])
    (fun w =>
      let act := w.active p
      .ok (w.putMask d act (maskOf act (fun l =>
        (voters w.g16 act l).all (fun k => w.lane ty a k == w.lane ty a l))), {})) s
/-- VOTE.ballot (R304). -/
def execVoteBallot (p : Pred) (d : SReg) (a : MReg) (s : State) : Out :=
  warpOp (fun w => w.setS d ((w.m a &&& w.active p).zeroExtend 64)) s

/-! ## Trees (R223) -/

/-- One level of the tree: neighbours are combined, an absent input passes the other on. -/
def pairUp {α : Type} (f : α → α → α) : List (Option α) → List (Option α)
  | some a :: some b :: r => some (f a b) :: pairUp f r
  | some a :: none :: r => some a :: pairUp f r
  | none :: y :: r => y :: pairUp f r
  | l => l

/-- `n` levels of the tree. -/
def treeLevels {α : Type} (f : α → α → α) : Nat → List (Option α) → List (Option α)
  | 0, l => l
  | n + 1, l => treeLevels f n (pairUp f l)

/-- The root of the tree over 2^n lanes. -/
def tree {α : Type} (f : α → α → α) (n : Nat) (l : List (Option α)) : Option α := ((treeLevels f n l).head?).getD none

/-- A node of REDS and SCAN: the bits, and whether a node below or here saturated (R305). -/
def redNode (op : RedOp) (ty : Ty) (rm : RM) (sat : Bool) (x y : Word × Bool) : Word × Bool :=
  let w := ty.bits
  let sx (v : Word) : Int := laneInt ty v
  let f := fmtOf ty
  let fl (f : Fmt) (v : FVal → FVal → FVal) (r : RM) (t : Bool) : Word × Bool :=
    let z := f.round r t (v (f.decode x.1.toNat) (f.decode y.1.toNat))
    (BitVec.ofNat 64 z.bits, x.2 || y.2 || z.sat)
  match op with
  | .add => if ty.isFloat then fl f (FVal.add rm) rm sat else ((x.1 + y.1) &&& BitVec.ofNat 64 (2 ^ w - 1), false)
  | .min => if ty.isFloat then fl f FVal.min .rne false else (if sx x.1 ≤ sx y.1 then x.1 else y.1, false)
  | .max => if ty.isFloat then fl f FVal.max .rne false else (if sx x.1 ≤ sx y.1 then y.1 else x.1, false)
  | .and => (x.1 &&& y.1, false)
  | .or => (x.1 ||| y.1, false)
  | .xor => (x.1 ^^^ y.1, false)

/-- The identity of an operation (R305). -/
def redIdent (op : RedOp) (ty : Ty) : Word :=
  let w := ty.bits
  let f := fmtOf ty
  match op with
  | .add | .or | .xor => 0
  | .and => BitVec.ofNat 64 (2 ^ w - 1)
  | .min => BitVec.ofNat 64 (if ty.isFloat then f.infBits else lowBits w (intHi ty))
  | .max => BitVec.ofNat 64 (if ty.isFloat then f.infBits + f.signBit true else lowBits w (intLo ty))

/-- A reduction's result as written: a NaN is the canonical one, also when a single lane is present (R210). -/
def redValue (ty : Ty) (v : Word) : Word :=
  if ty.isFloat && (fmtOf ty).decode v.toNat == .nan then BitVec.ofNat 64 (fmtOf ty).nanBits else v

/-- Reduces the lanes that meet a condition, over the whole warp or over the half that starts at `base`. -/
def Warp.reduce (w : Warp) (op : RedOp) (ty : Ty) (a : VReg) (base n : Nat) (on : Nat → Bool) : Word × Bool :=
  let ls := (List.range (2 ^ n)).map (fun i => if on (base + i) then some (w.lane ty a (base + i), false) else none)
  let r := (tree (redNode op ty w.rm w.sat) n ls).getD (redIdent op ty, false)
  (redValue ty r.1, r.2)

/-- A reduction result is a NaN that counts. -/
def redNan (ty : Ty) (v : Word) : Bool := ty.isFloat && (fmtOf ty).decode v.toNat == .nan

/-- REDS (R305, R309). -/
def execReds (p : Pred) (op : RedOp) (ty : Ty) (d : QReg) (a : VReg) (s : State) : Out :=
  withWarp s fun w =>
    if w.g16 && ty.wide then trapOut w (trapOf 0x01) s
    else
      regOp (fun w => [w.vSrc ty a])
        (fun w =>
          let on (l : Nat) := (w.active p).getLsbD l
          let (v, sat, nan) : Word × Bool × Bool :=
            if w.g16 then
              let (lo, s0) := w.reduce op ty a 0 4 on
              let (hi, s1) := w.reduce op ty a 16 4 on
              ((hi.truncate 32 : Word32) ++ (lo.truncate 32 : Word32), s0 || s1, redNan ty lo || redNan ty hi)
            else
              let (x, st) := w.reduce op ty a 0 5 on
              (if ty == .i32 then (x.truncate 32 : Word32).signExtend 64 else x, st, redNan ty x)
          let sq := (w.qr[d.toNat]'d.isLt).2 + 1
          .ok ({ w with qr := w.qr.set d.toNat (v, sq) d.isLt },
            { tid := 0, sat := if sat then 1 else 0, nan := if nan then 1 else 0 })) s

/-- SCAN (R306, R309): each lane has its own tree. -/
def execScan (p : Pred) (op : RedOp) (ty : Ty) (excl : Bool) (d a : VReg) (s : State) : Out :=
  fop p ty d (fun w => [w.vSrc ty a])
    (fun w l =>
      let on (k : Nat) := (w.active p).getLsbD k && (if excl then decide (k < l) else decide (k ≤ l))
      let (v, sat) := if w.g16 then w.reduce op ty a (halfBase l) 4 on else w.reduce op ty a 0 5 on
      { bits := v.toNat, sat := sat, nan := redNan ty v }) s

/-! ## Masks (R307, R308) -/

/-- A mask instruction. -/
def maskOp (p : Pred) (d : MReg) (f : Warp → Word32) (s : State) : Out := warpOp (fun w => w.putMask d (w.active p) (f w)) s
/-- MAND (R307). -/
def execMand (p : Pred) (d a b : MReg) (s : State) : Out := maskOp p d (fun w => w.m a &&& w.m b) s
/-- MOR (R307). -/
def execMor (p : Pred) (d a b : MReg) (s : State) : Out := maskOp p d (fun w => w.m a ||| w.m b) s
/-- MXOR (R307). -/
def execMxor (p : Pred) (d a b : MReg) (s : State) : Out := maskOp p d (fun w => w.m a ^^^ w.m b) s
/-- MNOT (R307). -/
def execMnot (p : Pred) (d a : MReg) (s : State) : Out := maskOp p d (fun w => ~~~w.m a) s
/-- MMOV mask to mask (R307). -/
def execMmovMask (p : Pred) (d a : MReg) (s : State) : Out := maskOp p d (fun w => w.m a) s
/-- MMOV scalar to mask (R307). -/
def execMmovFromScalar (p : Pred) (d : MReg) (a : SReg) (s : State) : Out := maskOp p d (fun w => (w.s a).truncate 32) s
/-- MMOV mask to scalar (R307). -/
def execMmovToScalar (p : Pred) (d : SReg) (a : MReg) (s : State) : Out :=
  warpOp (fun w => w.setS d ((w.m a &&& w.active p).zeroExtend 64)) s
/-- A count over the set active bits, of the warp or of each half (R308, R309). -/
def maskCount (g16 : Bool) (x : Word32) (f : (n : Nat) → BitVec n → BitVec 32) : Word :=
  if g16 then f 16 (x.extractLsb' 16 16) ++ f 16 (x.extractLsb' 0 16) else (f 32 x).zeroExtend 64
/-- MCNT (R308). -/
def execMcnt (p : Pred) (d : SReg) (a : MReg) (s : State) : Out :=
  warpOp (fun w => w.setS d (maskCount w.g16 (w.m a &&& w.active p) (fun _ x => (popV x).zeroExtend 32))) s
/-- MFIRST (R308). -/
def execMfirst (p : Pred) (d : SReg) (a : MReg) (s : State) : Out :=
  warpOp (fun w => w.setS d (maskCount w.g16 (w.m a &&& w.active p) (fun _ x => (ctzV x).zeroExtend 32))) s

end Sys2Proof.Machine
end

