-- ==== Sys2Proof/Machine/LaunchRec.lean ====
section
/-!
DEFINITION. The fields of launch records, kernel descriptors and their flag words (R195, R196, R375), and the placement of workgroups
(R381).
-/

namespace Sys2Proof.Machine

/-- Bytes [o, o + n) of a record of a line, as a number. -/
def lineNat (d : LineData) (o n : Nat) : Nat := (d.toNat / 2 ^ (8 * o)) % 2 ^ (8 * n)
/-- A field of a launch record. -/
def Launch.fld (l : Launch) (o n : Nat) : Nat := lineNat l.lrec o n
/-- A field of the kernel descriptor. -/
def Launch.kd (l : Launch) (o n : Nat) : Nat := (l.desc.toNat / 2 ^ (8 * o)) % 2 ^ (8 * n)

/-- LFLAGS bits [lo + n - 1 : lo]. -/
def Launch.flag (l : Launch) (lo n : Nat) : Nat := l.fld 24 4 / 2 ^ lo % 2 ^ n
/-- LAT. -/
def Launch.lat (l : Launch) : Nat := l.flag 3 2
/-- ROLE: harvest. -/
def Launch.harvest (l : Launch) : Bool := l.flag 5 1 == 1
/-- BLV: levels declared, bit 0 `.quad`. -/
def Launch.blv (l : Launch) : BitVec 4 := BitVec.ofNat 4 (l.flag 8 4)
/-- SHARE. -/
def Launch.shareIx (l : Launch) : Nat := l.flag 16 8
/-- Header word of the kernel (R196). -/
def Launch.hdr (l : Launch) (lo n : Nat) : Nat := l.kd 0 4 / 2 ^ lo % 2 ^ n
/-- Progress class (R197, R375). -/
def Launch.prog (l : Launch) : Nat := if l.flag 2 1 = 1 then l.flag 0 2 else l.hdr 2 2
/-- Number of workgroups. -/
def Launch.wgs (l : Launch) : Nat := l.fld 8 4 * l.fld 12 4 * l.fld 16 4
/-- Warps of a workgroup. -/
def Launch.warps (l : Launch) : Nat := l.kd 36 2
/-- QUOTA. -/
def Launch.quota (l : Launch) : Nat := l.kd 4 2
/-- WRES. -/
def Launch.wres (l : Launch) : Nat := l.kd 22 2
/-- Exchange region size in bytes (R117). -/
def Launch.xsz (l : Launch) : Nat := l.hdr 16 8 * 4096
/-- Bytes from one context image of the pool to the next: packed, each at a multiple of 8 KiB (R44, R375, log 13). -/
def Launch.imgSize (l : Launch) : Nat := 8192 + (128 * l.wres + 8191) / 8192 * 8192
/-- Priority class of the launch's warps (R377): 0 latency-critical, 1 standard, 2 harvest. -/
def Launch.cls (l : Launch) : Nat := if l.harvest then 2 else if l.lat ≤ 1 then 0 else 1
/-- Core of a workgroup (R381). -/
def Launch.coreOf (l : Launch) (wg : Nat) : Nat := l.place.getD (wg % l.place.length) 0
/-- Workgroups on a core. -/
def Launch.wgsOn (l : Launch) (core : Nat) : List Nat :=
  match l.place.findIdx? (fun c => c == core) with
  | some i => (List.range ((l.wgs - i + l.place.length - 1) / l.place.length)).map (fun j => i + j * l.place.length)
  | none => []
/-- Names of a workgroup's warps: 256 * workgroup + index. -/
def Launch.warpsOf (l : Launch) (wg : Nat) : List Nat := (List.range l.warps).map (fun i => 256 * wg + i)

end Sys2Proof.Machine
end

