-- ==== Sys2Proof/Machine/Pad.lean ====
section
/-!
DEFINITION. Scratchpads: bytes, page grants, exchange courses (R113-R118).
-/

namespace Sys2Proof.Machine

/-- Page grant of a page to a context (R114). -/
def Core.granted (c : Core) (p ctx page : Nat) : Bool := c.grants.any (fun g => g.page == page && g.part == p && g.ctx == ctx)
/-- The page is being returned by a revoked harvest context (R200). -/
def Core.returning (c : Core) (page : Nat) : Bool := c.ret.any (fun g => g.page == page)

/-- First byte of the exchange region; the end of the scratchpad without one (R117). -/
def Core.xb (c : Core) : Nat := 0x100000 - c.xch.e
/-- Size of a course (R117). -/
def Core.course (c : Core) : Nat := c.xch.e / 2

/-- Place in pad memory of byte `o` of course `k` of a core. -/
def State.coursePhys (s : State) (core k o : Nat) : Nat :=
  let c := s.core core
  core * 2 ^ 20 + c.xb + k * c.course + o

/-- Place in pad memory of a local offset: the front course stands at XB (R117, R118). -/
def State.padPhys (s : State) (core off : Nat) : Nat :=
  let c := s.core core
  if c.xb ≤ off ∧ off < c.xb + c.course then s.coursePhys core (if c.xch.ph then 1 else 0) (off - c.xb)
  else core * 2 ^ 20 + off

/-- Bytes [off, off + n) lie in the scratchpad, on granted pages, outside the back course (R115). -/
def State.padOK (s : State) (core p ctx off n : Nat) : Bool :=
  let c := s.core core
  decide (off + n ≤ 0x100000) &&
    (List.range ((off + n + 8191) / 8192 - off / 8192)).all (fun i => c.granted p ctx (off / 8192 + i)) &&
    (c.xch.e == 0 || decide (off + n ≤ c.xb + c.course))

/-- The access must wait for a page that a harvest context still returns (R114, R200). -/
def State.padWait (s : State) (core off n : Nat) : Bool :=
  (List.range ((off + n + 8191) / 8192 - off / 8192)).any (fun i => (s.core core).returning (off / 8192 + i))

/-- Bytes of a scratchpad. -/
def State.padRead (s : State) (core off n : Nat) : List Byte :=
  (List.range n).map (fun i => Memory.get s.pads (s.padPhys core (off + i)))

/-- Writes bytes of a scratchpad. -/
def State.padWrite (s : State) (core off : Nat) (bs : List Byte) : State :=
  { s with pads := bs.zipIdx.foldl (fun m (b, i) => Memory.set m (s.padPhys core (off + i)) b) s.pads }

/-- Zeroes a byte range of pad memory. -/
def zeroRange (m : Memory) (lo n : Nat) : Memory := m.filter (fun e => !(decide (lo ≤ e.1) && decide (e.1 < lo + n)))

/-- Grants a page; it is zeroed unless the context held it last (R114). -/
def State.grantPage (s : State) (core page p ctx launch : Nat) : State :=
  let c := s.core core
  let same := c.last.any (fun g => g.page == page && g.part == p && g.ctx == ctx)
  let g : Grant := { page := page, part := p, ctx := ctx, launch := launch }
  let s := if same then s else { s with pads := zeroRange s.pads (core * 2 ^ 20 + page * 8192) 8192 }
  s.updCore core (fun c => { c with grants := c.grants ++ [g], last := g :: c.last.filter (fun x => !(x.page == page)) })

/-- Grants a page that a harvest context still returns: it is zeroed when it has been returned (R200). -/
def State.grantLater (s : State) (core page p ctx launch : Nat) : State :=
  let g : Grant := { page := page, part := p, ctx := ctx, launch := launch }
  s.updCore core (fun c => { c with grants := c.grants ++ [g], last := g :: c.last.filter (fun x => !(x.page == page)) })

/-- Takes back pages that meet a condition. -/
def State.dropGrants (s : State) (core : Nat) (q : Grant → Bool) : State :=
  s.updCore core (fun c => { c with grants := c.grants.filter (fun g => !q g) })

/-- Pages of a core that no context holds. -/
def Core.freePages (c : Core) : List Nat :=
  (List.range 128).filter (fun i => !(c.grants.any (fun g => g.page == i)) && !(c.returning i))

/-- A packet that would cross a closed seam, between two partitions or inside a merged one, is refused there, and logged against the partition that
sent it (R105, R409, R434). -/
def State.crosses (s : State) (k : XPkt) : Bool := !s.routed (coreQuarter k.src) (coreQuarter k.dst)

/-- A packet waits for a page that a harvest context still returns and that it writes (R114). -/
def State.pktWaits (s : State) (k : XPkt) : Bool :=
  !s.crosses k && k.bytes.any (fun e => (s.core k.dst).returning (s.coursePhys k.dst (if k.ph then 0 else 1) e.1 % 2 ^ 20 / 8192))

/-- An exchange or multicast store lands (R118): course (ph + 1) mod 2 of the receiver.  A core that has no region now is a member
that left with its region lost (R127): the bytes are discarded. -/
def State.deliver (s : State) (k : XPkt) : State :=
  if s.crosses k then s.updPart (s.partOfCore k.src) (fun q => { q with netErr := q.netErr + 1 })
  else if (s.core k.dst).xch.e = 0 ∨ !s.coreLive k.dst then s
  else
    let course := if k.ph then 0 else 1
    { s with pads := k.bytes.foldl (fun m (o, b) => Memory.set m (s.coursePhys k.dst course o) b) s.pads }

/-- Delivers the packets in flight that meet a condition, in their order. -/
def State.deliverAll (s : State) (q : XPkt → Bool) : State :=
  (s.pkts.filter q).foldl (fun s k => s.deliver k) { s with pkts := s.pkts.filter (fun k => !q k) }

end Sys2Proof.Machine
end

