-- ==== Sys2Proof/Machine/Records.lean ====
section
/-!
DEFINITION. Warp-start records (R189-R192): the atomics on a record and the ready queues.
-/

namespace Sys2Proof.Machine

/-- Priority class of a launch by its identity. -/
def State.launchCls (s : State) (uid : Nat) : Nat :=
  match s.launch? uid with
  | some l => l.cls
  | none => 1

/-- The core whose ready queue takes a record: a live core itself, else the nearest live core of the partition, ties to the lower
id (R192). -/
def State.queueCore (s : State) (p core : Nat) : Nat :=
  if s.coreLive core then core
  else
    ((s.liveCores p).foldl (fun best c =>
      match best with
      | none => some c
      | some b => if hops c core < hops b core then some c else some b) none).getD core

/-- A ready queue holds 65,536 records (R192). -/
def State.queueFull (s : State) (core cls : Nat) : Bool :=
  decide ((s.ready.filter (fun r => r.core == core && r.cls == cls)).length ≥ 65536)

/-- Appends a record to the ready queue of a core, stamped with the cycle count (R190, R192). -/
def State.enqueue (s : State) (r : Ready) : State :=
  { s with ready := s.ready ++ [{ r with core := s.queueCore r.part r.core, stamp := s.plat.cc }] }

/-- The launch under which a record is outstanding, with the core that runs it (R190); the records of a failed launch are abandoned. -/
def State.holder (s : State) (p : Nat) (asid : BitVec 12) (addr : Nat) : Option (Launch × Nat) :=
  s.launches.findSome? (fun l =>
    if l.part == p && l.asid == asid && !l.failed then (l.outst.find? (fun o => o.1 == addr)).map (fun o => (l, o.2)) else none)

/-- The ready record of a posted record under its launch. -/
def postedReady (l : Launch) (core addr : Nat) (d : LineData) : Ready :=
  let k := addr % 128
  { core := core, cls := l.cls, stamp := 0, part := l.part, ctx := l.ctx, launch := l.uid,
    src := .posted addr (lineNat d k 8) (lineNat d (k + 8) 8) (lineNat d (k + 24) 4) }

/-- What an atomic on a record answers: a walk status, poison, a full ready queue, the value found, or a refusal of POST. -/
inductive RecRes where
  | fail (wst : Nat)
  | poison
  | full
  | found (jcnt : Nat)
  | refused (cause : Nat)
  | done
  deriving DecidableEq, Repr

/-- Bytes that an atomic on a record writes: offset in its line, how many, value. -/
abbrev RecPut := Nat × Nat × Nat

/-- The line and mask of the bytes that an atomic on a record writes. -/
def recLine (ps : List RecPut) : LineData × LineMask :=
  ps.foldl (fun (acc : LineData × LineMask) p =>
    (mergeLine (spanMask p.1 p.2.1) acc.1 (BitVec.ofNat 1024 (p.2.2 % 2 ^ (8 * p.2.1)) <<< (8 * p.1)), acc.2 ||| spanMask p.1 p.2.1)) (0, 0)

/-- Reads a record's line as an atomic finds it at its home; an aperture gives PA_RANGE (R323). -/
def recRead (core : Nat) (k : LineKey) (user : Bool) : SM (Except RecRes LineData) := do
  match ← homePeek core k user with
  | .error w => pure (.error (.fail w))
  | .ok r =>
    if r.aper.isSome then pure (.error (.fail 4))
    else if r.poi then do
      let _ ← atomicHome core k user (fun _ => (0, 0))
      pure (.error .poison)
    else pure (.ok r.data)

/-- One atomic on a record's line at its home that writes bytes of it (R93, R190). -/
def recPut (core : Nat) (k : LineKey) (user : Bool) (ps : List RecPut) : SM Unit := do
  let _ ← atomicHome core k user (fun _ => recLine ps)
  pure ()

/-- The decrement of JOIN or of an engine completion (R190, R261): the count found; a record that becomes ready is enqueued when a
launch holds it outstanding.  Nothing happens while the ready queue has no room (R192). -/
def recDecrement (core : Nat) (k : LineKey) (addr : Nat) (user : Bool) : SM RecRes := do
  match ← recRead core k user with
  | .error e => pure e
  | .ok d =>
    let o := addr % 128
    let j := lineNat d (o + 16) 4
    if j = 0 then do
      recPut core k user []
      pure (.found 0)
    else do
      let s ← get
      let h := if j = 1 && lineNat d (o + 21) 1 % 2 = 1 then s.holder k.part k.asid addr else none
      match h with
      | none => do
        recPut core k user [(o + 16, 4, j - 1)]
        pure (.found j)
      | some (l, c) =>
        if s.queueFull (s.queueCore l.part c) l.cls then pure .full
        else do
          recPut core k user [(o + 16, 4, j - 1)]
          modify fun s => s.enqueue (postedReady l c addr d)
          pure (.found j)

/-- POST of a record for a launch (R190, R191): checks, then P and LREF are set and a record with JCNT 0 is enqueued. -/
def recPost (core p ctx : Nat) (k : LineKey) (addr uid : Nat) (user : Bool) : SM RecRes := do
  match ← recRead core k user with
  | .error e => pure e
  | .ok d =>
    let o := addr % 128
    let s ← get
    let dst := lineNat d (o + 22) 2
    let c := if dst = 0xFFFF then core else dst
    if lineNat d (o + 21) 1 ≠ 0 || lineNat d (o + 28) 4 ≠ 0 then pure (.refused 0x02)
    else if lineNat d (o + 20) 1 ≠ ctx then pure (.refused 0x10)
    else if !(s.coreLive c && s.partOfCore c == p) then pure (.refused 0x0A)
    else
      match s.launch? uid with
      | none => pure (.refused 0x10)
      | some l =>
        let ready := decide (lineNat d (o + 16) 4 = 0)
        if ready && s.queueFull c l.cls then pure .full
        else do
          recPut core k user [(o + 21, 1, 1), (o + 28, 4, (Config.launchRef uid).toNat)]
          modify fun s => s.updLaunch uid (fun l => { l with outst := l.outst ++ [(addr, c)] })
          if ready then modify fun s => s.enqueue (postedReady l c addr d)
          pure .done

/-- A slot takes a posted record: the device clears P and LREF (R190). -/
def recTaken (l : Launch) (core addr : Nat) : SM Unit := do
  let k : LineKey := { part := l.part, asid := l.asid, ln := addr / 128 }
  let o := addr % 128
  match ← recRead core k false with
  | .error _ => pure ()
  | .ok _ => recPut core k false [(o + 21, 1, 0), (o + 28, 4, 0)]
  modify fun s => s.updLaunch l.uid (fun l => { l with outst := l.outst.filter (fun x => x.1 != addr) })

end Sys2Proof.Machine
end

