-- ==== Sys2Proof/Machine/MapPage.lean ====
section
/-!
DEFINITION. The resource map: a rise of its version (R404, R405) and acknowledgements.
-/

namespace Sys2Proof.Machine

/-- The states of a warp for which its context owes an acknowledgement (R405). -/
def owes (st : WState) : Bool := st == .ready || st == .running || st == .parkedFault

/-- A warp in Ready, Running or Parked-fault. -/
def owing (w : Warp) : Bool := owes w.st

/-- The post of CTX_MAPREC (R405): bound to the context's oldest launch with such a warp, skipped without a report when the record is
not free. -/
def postMapRec (p c : Nat) : SM Unit := do
  let s ← get
  let k := s.ctx p c
  let a := k.maprec.toNat
  let mine (w : Warp) := w.part == p && w.ctx == c && owing w
  let pick := s.launches.find? (fun l => l.part == p && l.ctx == c && s.warps.any (fun w => mine w && w.launch == l.uid))
  match pick, s.warps.find? mine with
  | some l, some w =>
    if a = 0 ∨ a / 2 ^ 56 ≠ 0 then pure ()
    else do
      let key := w.key a
      match ← recRead w.core key false with
      | .error _ => pure ()
      | .ok d =>
        if lineNat d (a % 128 + 16) 4 ≠ 0 then pure ()
        else do
          match ← recPost w.core p c key a l.uid false with
          | .full => modify fun s => s.updCtx p c (fun k => { k with posting := some l.uid })
          | _ => modify fun s => s.updCtx p c (fun k => { k with posting := none })
  | _, _ => pure ()

/-- A POST of CTX_MAPREC that found a ready queue full is tried again when an entry has left one (R192). -/
def retryMapRecs : SM Unit := do
  let s ← get
  (List.range 4).forM (fun p => (List.range 64).forM (fun c => if (s.ctx p c).posting.isSome then postMapRec p c else pure ()))

/-- A rise of a partition's map version (R404, R405); a saved context is told when it resumes (R389). -/
def riseMap (p kind obj : Nat) : SM Unit := do
  modify fun s => s.updPart p (fun q =>
    { q with version := (q.version + 1) % 2 ^ 64, mapTime := s.timeNs, lastKind := kind, lastObj := obj })
  let s ← get
  let cs := (List.range 64).filter (fun c => s.warps.any (fun w => w.part == p && w.ctx == c && owing w))
  let late := (List.range 64).filter (fun c => (s.ctx p c).saved && s.warps.any (fun w => w.part == p && w.ctx == c && w.st == .saved && owes w.back))
  modify fun s => late.foldl (fun (s : State) c => s.updCtx p c (fun k => { k with missed := true })) s
  cs.forM (fun c => do
    modify fun s => s.postCtx p c 4 0 0 0 (BitVec.ofNat 64 (s.part p).version)
    modify fun s => s.updCtx p c (fun k => { k with owes := some (k.owes.getD s.plat.cc) })
    postMapRec p c)

/-- The controller records an acknowledgement of the current version for a context (R278, R405). -/
def State.acked (s : State) (p c : Nat) : State :=
  s.updCtx p c (fun k => { k with ackv := (s.part p).version, owes := none })

end Sys2Proof.Machine
end

