-- ==== Sys2Proof/Machine/EngBase.lean ====
section
/-!
DEFINITION. What the engine instructions and the engines share: agents and their accesses (R174), probes (R352), the range-lock tables,
ring headers (R357-R362), and completion (R175, R349).
-/

namespace Sys2Proof.Machine

/-! ## Agents -/

/-- Who makes an access: core, partition, context and ASID. -/
structure Agent where
  core : Nat
  part : Nat
  ctx  : Nat
  asid : BitVec 12
  deriving DecidableEq, Repr

/-- User level (R249). -/
def Agent.user (g : Agent) : Bool := g.asid != 0#12
/-- The cached line that holds a VA. -/
def Agent.key (g : Agent) (va : Nat) : LineKey := { part := g.part, asid := g.asid, ln := va % 2 ^ 56 / 128 }
/-- A warp as an agent. -/
def Warp.agent (w : Warp) : Agent := { core := w.core, part := w.part, ctx := w.ctx, asid := w.asid }
/-- An operation as an agent. -/
def EngOp.agent (o : EngOp) : Agent := { core := o.core, part := o.part, ctx := o.ctx, asid := o.asid }

/-! ## Accesses at the homes -/

/-- The line of an address as an engine reads it, or none when the access fails or consumes poison (R174). -/
def engFill (g : Agent) (va : Word) : SM (Option Fill) := do
  if va.extractLsb' 56 8 != 0#8 then pure none
  else
    let k := g.key va.toNat
    settle k
    match ← anchorRead g.core k .load g.user {} with
    | .error _ => pure none
    | .ok f => pure (if f.poi then none else some f)

/-- Bytes of a line from an address on. -/
def lineBytes (d : LineData) (va : Word) (n : Nat) : List Byte := (List.range n).map (fun i => LineData.byte d ((va.toNat + i) % 128))

/-- Bytes of one line for an engine, or none when the access fails; of an aperture those that an access by whole lines gives. -/
def engRead (g : Agent) (va : Word) (n : Nat) : SM (Option (List Byte)) := do
  match ← engFill g va with
  | none => pure none
  | some f => do
    let s ← get
    let d := match f.aper with
      | some o => s.aperLine g.part o
      | none => f.data
    pure (some (lineBytes d va n))

/-- Writes bytes of one line for an engine: false when the access fails, the aperture when it names one. -/
def engTry (g : Agent) (va : Word) (bs : List Byte) : SM (Bool × Option Nat) := do
  if va.extractLsb' 56 8 != 0#8 then pure (false, none)
  else
    let k := g.key va.toNat
    match ← probeStore g.core k .store g.user with
    | .error _ => pure (false, none)
    | .ok (_, _, some a) => pure (true, some a)
    | .ok (_, _, none) => do
      let o := va.toNat % 128
      anchorWrite g.core k (spanMask o bs.length) (BitVec.ofNat 1024 (leNat bs) <<< (8 * o)) true false
      pure (true, none)

/-- Writes bytes of one line for an engine; false when the access fails. -/
def engWrite (g : Agent) (va : Word) (bs : List Byte) : SM Bool := do
  let r ← engTry g va bs
  pure r.1

/-- Reads bytes at a place: the issuing core's scratchpad or global memory, within one line. -/
def placeRead (g : Agent) (pad : Bool) (a : Word) (n : Nat) : SM (Option (List Byte)) := do
  if pad then
    let s ← get
    pure (if s.padOK g.core g.part g.ctx a.toNat n then some (s.padRead g.core a.toNat n) else none)
  else engRead g a n

/-- Writes bytes at a place. -/
def placeWrite (g : Agent) (pad : Bool) (a : Word) (bs : List Byte) : SM Bool := do
  if pad then
    let s ← get
    if s.padOK g.core g.part g.ctx a.toNat bs.length then do
      set (s.padWrite g.core a.toNat bs)
      pure true
    else pure false
  else engWrite g a bs

/-! ## Probes -/

/-- Probes a page at the gate of its line: a walk status, 0 when it grants the access. -/
def probePage (g : Agent) (va : Nat) (a : Acc) : SM Nat := do
  if va / 2 ^ 56 ≠ 0 then pure 5
  else
    let s ← get
    let gate := bankRet (s.anchor (g.key va))
    gateProbe gate g.part g.asid va a g.user

/-- The first address of every page that `n` bytes from an address touch. -/
def pageStarts (a : Word) (n : Nat) : List Nat :=
  let lo := a.toNat
  lo :: (List.range ((lo + n - 1) / 65536 - lo / 65536)).map (fun i => (lo / 65536 + 1 + i) * 65536 % 2 ^ 64)

/-- One entry for each page: its lowest address. -/
def lowestPages (l : List Nat) : List Nat :=
  l.foldl (fun acc a =>
    match acc.find? (fun b => b / 65536 == a / 65536) with
    | some b => if a < b then a :: acc.erase b else acc
    | none => a :: acc) []

/-- Probes pages, and gives the walk status and address of the lowest failing one. -/
def probeAll (g : Agent) (l : List (Nat × Acc)) : SM (Option (Nat × Nat)) :=
  l.foldlM (fun best (va, a) => do
    let w ← probePage g va a
    pure (if w = 0 then best
      else match best with
        | some (_, v) => if va < v then some (w, va) else best
        | none => some (w, va))) none

/-- Raises the trap of a failed probe. -/
def orProbe (m : SM (Option (Nat × Nat))) : M Unit := do
  match ← m with
  | none => pure ()
  | some (w, va) => throw { cause := wstCause w, wst := w, va := BitVec.ofNat 64 va }

/-! ## Range locks (R174) -/

/-- Operations that hold entries of a core's range-lock table; what a saved context holds stands in its save area (R178). -/
def State.lockOps (s : State) (core : Nat) : List EngOp := s.ops.filter (fun o => o.core == core && !o.freed && !o.held)
/-- Free entries of a core's range-lock table. -/
def State.freeLocks (s : State) (core : Nat) : Nat := 256 - ((s.lockOps core).flatMap (fun o => o.locks)).length
/-- Locks of an ASID on a line in a core's table. -/
def State.locksOn (s : State) (g : Agent) (pad : Bool) (ln : Nat) : List Lock :=
  ((s.lockOps g.core).filter (fun o => o.part == g.part && o.asid == g.asid)).flatMap (fun o =>
    o.locks.filter (fun l => l.pad == pad && decide (l.lo ≤ ln) && decide (ln ≤ l.hi)))
/-- An access of a warp to a line is locked out. -/
def State.locked (s : State) (g : Agent) (pad : Bool) (ln : Nat) (write : Bool) : Bool :=
  (s.locksOn g pad ln).any (fun l => l.wr || write)

/-- The lock of `n` bytes from an address, rounded out to lines. -/
def lockOf (pad : Bool) (a n : Nat) (wr : Bool) : Lock := { pad := pad, lo := a / 128, hi := (a + n - 1) / 128, wr := wr }
/-- Two locks name a common line. -/
def Lock.meets (a b : Lock) : Bool := a.pad == b.pad && decide (a.lo ≤ b.hi) && decide (b.lo ≤ a.hi)

/-- The issue release of R174: the issuing core's dirty bytes are written back, and its copies of destination lines dropped. -/
def issueRelease (g : Agent) (locks : List Lock) : SM Unit := do
  releaseAct g.core g.part g.asid false (fun _ => true)
  dropL1 g.core (fun l => l.key.part == g.part && l.key.asid == g.asid &&
    locks.any (fun k => k.wr && !k.pad && decide (k.lo ≤ l.key.ln) && decide (l.key.ln ≤ k.hi)))

/-! ## Ring headers (R357) -/

/-- A ring header. -/
structure Ring where
  base   : Nat
  slotsz : Nat
  nslot  : Nat
  flags  : Nat
  err    : Nat
  cl     : Nat
  wr     : Nat
  tk     : Nat
  rl     : Nat
  done   : Nat
  core   : Nat
  rsv    : Nat
  deriving DecidableEq, Repr

/-- The fields of a header of 64 bytes. -/
def ringOf (bs : List Byte) : Ring :=
  let f (o n : Nat) : Nat := leNat ((bs.drop o).take n)
  { base := f 0 8, slotsz := f 8 4, nslot := f 12 2, flags := f 14 1, err := f 15 1, cl := f 16 4, wr := f 20 4, tk := f 24 4,
    rl := f 28 4, done := f 32 8, core := f 40 2, rsv := f 42 22 }

/-- Slots lie in the scratchpad. -/
def Ring.pad (r : Ring) : Bool := r.flags % 2 == 1
/-- Difference of two counters modulo 2^32. -/
def ctrDiff (a b : Nat) : Nat := (a + 2 ^ 32 - b) % 2 ^ 32
/-- The fields that RINIT does not write keep R357. -/
def Ring.baseOK (r : Ring) : Bool :=
  r.rsv == 0 && r.base % 128 == 0 && r.slotsz % 128 == 0 && decide (128 ≤ r.slotsz) && decide (r.slotsz ≤ 1048576) &&
    decide (r.flags ≤ 1)
/-- A header that every ring operation accepts, from a core (R357). -/
def Ring.ok (r : Ring) (core : Nat) : Bool :=
  r.baseOK && decide (1 ≤ r.nslot) && decide (r.nslot ≤ 4096) &&
    decide (ctrDiff r.tk r.rl ≤ ctrDiff r.wr r.rl) && decide (ctrDiff r.wr r.rl ≤ ctrDiff r.cl r.rl) &&
    decide (ctrDiff r.cl r.rl ≤ r.nslot) && decide (ctrDiff r.cl r.wr ≤ 64) && (!r.pad || r.core == core)

/-- Reads the header at a place address, at its home as an atomic or in the scratchpad. -/
def ringRead (g : Agent) (a : Word) : M Ring := do
  if a.msb then
    let s ← get
    if a.extractLsb' 20 43 != 0#43 || !s.padOK g.core g.part g.ctx (a.toNat % 2 ^ 20) 64 then throw { cause := 0x0D, va := a }
    if s.padWait g.core (a.toNat % 2 ^ 20) 64 then throw (waitAt 0)
    pure (ringOf (s.padRead g.core (a.toNat % 2 ^ 20) 64))
  else if a.extractLsb' 56 8 != 0#8 then throw { cause := 0x06, wst := 5, va := a }
  else
    let r ← orTrap a.toNat (homePeek g.core (g.key a.toNat) g.user)
    if r.aper.isSome then throw { cause := 0x06, wst := 4, va := a }
    if r.poi then throw { cause := 0x13, va := a }
    pure (ringOf ((List.range 64).map (fun i => LineData.byte r.data (a.toNat % 128 + i))))

/-- One atomic on a header that was read: it writes fields, each an offset, its bytes and its value. -/
def ringWrite (g : Agent) (a : Word) (ps : List RecPut) : SM Unit :=
  if a.msb then ps.forM (fun p => modify fun s => s.padWrite g.core (a.toNat % 2 ^ 20 + p.1) (toBytes p.2.2 p.2.1))
  else recPut g.core (g.key a.toNat) g.user (ps.map (fun p => (a.toNat % 128 + p.1, p.2)))

/-- WR and DONE after set bits at its foot have been passed. -/
def ringAdvance : Nat → Nat → Nat → Nat × Nat
  | 0, wr, done => (wr, done)
  | n + 1, wr, done => if done % 2 = 1 then ringAdvance n ((wr + 1) % 2 ^ 32) (done / 2) else (wr, done)

/-- A fill completes (R359); false when the header cannot be updated. -/
def ringFill (g : Agent) (a : Word) (seq : Nat) (ok : Bool) : SM Bool := do
  match ← (ringRead g a).run with
  | .error _ => pure false
  | .ok r => do
    let i := ctrDiff seq r.wr
    let done := if i < 64 then r.done ||| 2 ^ i else r.done
    let (wr, done) := ringAdvance 64 r.wr done
    ringWrite g a ([(20, 4, wr), (32, 8, done)] ++ (if ok then [] else [(15, 1, 1)]))
    pure true

/-! ## Completion (R175) -/

/-- KIND of a completion record (R349). -/
def OpDesc.kind : OpDesc → Nat
  | .copy _ => 0
  | .mvs _ => 1
  | .cred _ => 2
  | .cmc _ => 3
  | .cag _ => 4

/-- The completion record (R349). -/
def EngOp.record (o : EngOp) (time : Nat) : List Byte :=
  toBytes o.status 1 ++ toBytes o.desc.kind 1 ++ toBytes o.batch 2 ++ toBytes 0 4 ++ toBytes o.prog 8 ++ toBytes o.cmask.toNat 8 ++
    toBytes time 8

/-- Some warp still holds an operation in its pending set or in a batch (R355). -/
def State.opHeld (s : State) (oid : Nat) : Bool :=
  s.warps.any (fun w => w.st != .killed && (w.pend.contains oid || w.batches.any (fun b => b.2.contains oid)))

/-- Forgets completed operations that no warp holds; a fill at `.sys` stays until its slot is taken (R361). -/
def State.gcOps (s : State) : State :=
  { s with ops := s.ops.filter (fun o => !(o.posted && o.jrec == 0 && !s.opHeld o.oid && !(o.ring.isSome && o.sys))) }

/-- Posts a completion (R175): the release, at `.sys` with what it writes to memory, then the ring's fill and the record; false while the stacks have
not taken all writes (R94). -/
def postRecord (o : EngOp) : SM Bool := do
  drainInvs (fun k => k.part == o.part && k.asid == o.asid)
  if o.sys then sysClean o.part o.asid (fun _ => true)
  if !(← if o.sys then mcFlush o.part o.asid else pure true) then pure false
  else do
    let ok ← (match o.ring with
      | some (a, seq) => ringFill o.agent a seq (o.status == 1)
      | none => pure true)
    let o := if ok then o else { o with status := 5 }
    modify fun s => s.updOp o.oid (fun x => { x with status := o.status, freed := true, posted := true, locks := [] })
    if o.crec ≠ 0 then do
      let s ← get
      let _ ← engWrite o.agent (BitVec.ofNat 64 o.crec) (o.record s.timeNs)
      if o.sys then cleanLine (o.agent.key o.crec)
    pure true

/-- The join counter that a completed operation names is decremented, once there is room for a record that becomes ready (R190, R192). -/
def joinOp (o : EngOp) : SM Unit := do
  match ← recDecrement o.core (o.agent.key o.jrec) o.jrec o.agent.user with
  | .full => pure ()
  | _ => modify fun s => s.updOp o.oid (fun x => { x with jrec := 0 })

/-- The record of an operation that has ended, then its join counter. -/
def finishOp (o : EngOp) : SM Unit := do
  if ← (if o.posted then pure true else postRecord o) then do
    if o.jrec ≠ 0 then joinOp o
    modify fun s => s.gcOps

/-- An operation that has ended and is not held by a save completes (R175, R178): its locks are released, then its record and its join counter follow
when the stacks let them.  One that a shoot-down stops while a save holds it posts its PARTIAL record when its context has resumed, and the PGPURGE
waits until then: R35 asks for the record and R178 forbids it, and the order is the model's choice (log 38). -/
def completeOp (oid : Nat) : SM Unit := do
  let s ← get
  match s.op? oid with
  | none => pure ()
  | some o =>
    if o.status = 0 || o.held then pure ()
    else do
      modify fun s => s.updOp oid (fun x => { x with freed := true })
      attempt (finishOp o)

/-- Starts an operation for a warp: it joins the pending set (R347, R355). -/
def addOp (w : Warp) (o : EngOp) : SM (Warp × Nat) := do
  let s ← get
  set { s with ops := s.ops ++ [{ o with oid := s.fresh }], fresh := s.fresh + 1 }
  pure ({ w with pend := w.pend ++ [s.fresh] }, s.fresh)

end Sys2Proof.Machine
end

