-- ==== Sys2Proof/Machine/Barrier.lean ====
section
/-!
DEFINITION. Releases and acquires of a warp at a scope (R94, R95), and barriers (R186-R188, R331-R334).
-/

namespace Sys2Proof.Machine

/-- The scope reaches beyond the core. -/
def wideScope : Scope → Bool
  | .warp | .core => false
  | _ => true
/-- The scope is `.sys` or `.pod`. -/
def sysScope : Scope → Bool
  | .sys | .pod => true
  | _ => false

/-- The release actions of R94 for a warp. -/
def relAt (w : Warp) (sc : Scope) : SM Unit :=
  if wideScope sc then releaseAct w.core w.part w.asid (sysScope sc) (fun _ => true) else pure ()

/-- A release of a warp, complete when the stacks have taken what it writes to memory (R94). -/
def release (w : Warp) (sc : Scope) : M Unit := do
  (relAt w sc : SM Unit)
  if sysScope sc then
    if !(← (mcFlush w.part w.asid : SM Bool)) then throw (waitAt w.mid)

/-- A system acquire of the warp's ASID must wait (R95). -/
def State.acqWaits (s : State) (w : Warp) (sc : Scope) : Bool := sysScope sc && s.acqFull w.part w.asid

/-- The acquire actions of R94 for a warp. -/
def acqAt (w : Warp) (sc : Scope) : SM Unit := do
  if wideScope sc then acquireL1 w.core w.part w.asid false (fun _ => true)
  if sysScope sc then bumpEpoch w.part w.asid

/-! ## Barrier instances -/

/-- Number of a barrier level in the model's tables: `.sys` shares the ids of `.wafer` (R331). -/
def lvlKey : Scope → Nat
  | .warp => 0 | .core => 1 | .quad => 2 | .ret => 3 | .wafer => 4 | .sys => 4 | .pod => 6
/-- SCOPE as the status word gives it (R333). -/
def lvlCode : Scope → Nat
  | .warp => 0 | .core => 1 | .quad => 2 | .ret => 3 | .wafer => 4 | .sys => 5 | .pod => 6

/-- A workgroup of a launch lies in an extent of a level (R186). -/
def Launch.inExtent (l : Launch) (lvl ext wg : Nat) : Bool := barExtent lvl (l.coreOf wg) wg == ext

/-- The participants of a level in an extent (R188). -/
def Launch.participants (l : Launch) (lvl ext : Nat) : List Nat :=
  ((List.range l.wgs).filter (fun wg => l.inExtent lvl ext wg)).flatMap l.warpsOf

/-- A barrier id of a launch in an extent, in its first instance when nothing is recorded. -/
def State.bar (s : State) (p uid lvl ext bid : Nat) : Bar :=
  (s.bars.find? (fun b => b.part == p && b.launch == uid && b.lvl == lvl && b.ext == ext && b.bid == bid)).getD
    { part := p, launch := uid, lvl := lvl, ext := ext, bid := bid, phase := 0, arr := [], exc := [], rels := [], seen := 0 }

/-- Stores a barrier id's record. -/
def State.setBar (s : State) (b : Bar) : State :=
  { s with bars := b :: s.bars.filter (fun x =>
      !(x.part == b.part && x.launch == b.launch && x.lvl == b.lvl && x.ext == b.ext && x.bid == b.bid)) }

/-- Kills of a launch in an extent from a place of its list on: whether by the retirement of a core, whether on a live core (R333). -/
def Launch.killsSince (l : Launch) (n lvl ext : Nat) : Bool × Bool :=
  let ks := (l.kills.drop n).filter (fun k => l.inExtent lvl ext (k.1 / 256))
  (ks.any (fun k => k.2), ks.any (fun k => !k.2))

/-- Every participant of the open instance has arrived, excused itself, exited or been killed (R332). -/
def Launch.complete (l : Launch) (b : Bar) : Bool :=
  b.arr != [] && (l.participants b.lvl b.ext).all (fun x => b.arr.contains x || b.exc.contains x || l.gone.contains x)

/-- Releases the open instance. -/
def Launch.releaseBar (l : Launch) (b : Bar) : Bar :=
  let k := l.killsSince b.seen b.lvl b.ext
  { b with phase := b.phase + 1, arr := [], rels := (b.rels.drop (b.rels.length - 1)) ++ [(b.phase, k.1, k.2)], seen := l.kills.length }

/-- An arrival or excusing reaches its tree (R332). -/
def State.takeBarMsg (s : State) (m : BarMsg) : State :=
  let b := s.bar m.part m.launch m.lvl m.ext m.bid
  let b := if m.exc then { b with exc := m.who :: b.exc.filter (fun x => x != m.who) } else { b with arr := m.who :: b.arr }
  match s.launch? m.launch with
  | some l => if l.complete b then s.setBar (l.releaseBar b) else s.setBar b
  | none => s

/-- The first barrier whose open instance is complete. -/
def State.doneBar (s : State) : Option (Launch × Bar) :=
  s.bars.findSome? (fun b => (s.launch? b.launch).bind (fun l => if l.complete b then some (l, b) else none))

/-! ## A warp at a barrier -/

/-- The warp's name among the participants of its launch. -/
def Warp.who (w : Warp) : Nat := 256 * w.wgid + w.widx
/-- The warp's arrival state on a level and id. -/
def Warp.barSt (w : Warp) (lvl bid : Nat) : Option BarSt := w.bars.find? (fun b => b.lvl == lvl && b.bid == bid)
/-- Stores an arrival state. -/
def Warp.setBarSt (w : Warp) (b : BarSt) : Warp :=
  { w with bars := b :: w.bars.filter (fun x => !(x.lvl == b.lvl && x.bid == b.bid)) }
/-- The record of the barrier id that a warp names. -/
def State.barOf (s : State) (w : Warp) (lvl bid : Nat) : Bar := s.bar w.part w.launch lvl (barExtent lvl w.core w.wgid) bid
/-- The instance of the warp's last arrival has released. -/
def State.barDone (s : State) (w : Warp) (b : BarSt) : Bool := decide (b.phase < (s.barOf w b.lvl b.bid).phase)

/-- The status word (R333). -/
def barWord (sc : Scope) (phase : Nat) (npart arrv xcore xwarp rel : Bool) : Word :=
  0#24 ++ BitVec.ofNat 8 (lvlCode sc) ++ BitVec.ofNat 16 phase ++ 0#10 ++ BitVec.ofBool npart ++ BitVec.ofBool arrv ++
    BitVec.ofBool xcore ++ BitVec.ofBool xwarp ++ BitVec.ofBool (xcore || xwarp) ++ BitVec.ofBool rel

/-- Writes D and the flags from a status word, and retires (R333, R399). -/
def Warp.barStatus (w : Warp) (d : SReg) (x : Word) : Warp :=
  let v := (w.setS d x).setFlags
    (BitVec.ofBool (x.getLsbD 0 && !x.getLsbD 1) ++ BitVec.ofBool (x.getLsbD 5) ++ 0#1 ++ BitVec.ofBool (x.getLsbD 1))
  v.retireRegion (nextSlot w.pc)

/-- The check of R187: `.core` needs progress class 1, wider levels class 2 and their declaration. -/
def Warp.barLegal (w : Warp) (sc : Scope) : Bool :=
  match sc with
  | .core => w.prog != 0
  | .quad => w.prog == 2 && w.blv.getLsbD 0
  | .ret => w.prog == 2 && w.blv.getLsbD 1
  | .wafer | .sys => w.prog == 2 && w.blv.getLsbD 2
  | .pod => w.prog == 2 && w.blv.getLsbD 3
  | .warp => false

/-- The warp completes any BAR on this level and id alone (R331): it is posted or has excused itself. -/
def Warp.barAlone (w : Warp) (lvl bid : Nat) : Bool := w.posted || (w.barSt lvl bid).any (fun b => b.exc)

/-- Sends an arrival or excusing, and records it in the warp. -/
def barSend (w : Warp) (lvl bid : Nat) (exc : Bool) : SM (Warp × Nat) := do
  let s ← get
  let ph := (s.barOf w lvl bid).phase
  let m : BarMsg := { part := w.part, launch := w.launch, lvl := lvl, ext := barExtent lvl w.core w.wgid, bid := bid, who := w.who, exc := exc }
  set { s with barq := s.barq ++ [m] }
  let seen := match w.barSt lvl bid with | some b => b.seen | none => 0
  pure (w.setBarSt { lvl := lvl, bid := bid, phase := ph, open' := !exc, exc := exc, seen := seen }, ph)

/-- The departure of a warp from the instance of its last arrival (R179, R332): the status with the kills not yet shown to it. -/
def State.barLeave (s : State) (w : Warp) (sc : Scope) (b : BarSt) : Warp × Word :=
  let bar := s.barOf w b.lvl b.bid
  let (rc, rw) := match bar.rels.find? (fun r => r.1 == b.phase) with
    | some r => r.2
    | none => (false, false)
  let (kc, kw, n) := match s.launch? w.launch with
    | some l =>
      let k := l.killsSince b.seen b.lvl (barExtent b.lvl w.core w.wgid)
      (k.1, k.2, l.kills.length)
    | none => (false, false, b.seen)
  (w.setBarSt { b with open' := false, seen := n }, barWord sc b.phase false false (rc || kc) (rw || kw) true)

/-- Departs from a released instance with the level's acquire. -/
def barDepart (w : Warp) (sc : Scope) (d : SReg) (b : BarSt) : M Warp := do
  let s ← get
  if s.acqWaits w sc then throw (waitAt w.mid)
  (acqAt w sc : SM Unit)
  let s ← get
  let (w, x) := s.barLeave w sc b
  pure (w.barStatus d x)

/-- A BAR that completes alone (R188, R333), with the release and acquire of its form. -/
def barLone (w : Warp) (sc : Scope) (d : SReg) (rel acq : Bool) : M Warp := do
  let s ← get
  if acq && s.acqWaits w sc then throw (waitAt w.mid)
  if rel then release w sc
  if acq then (acqAt w sc : SM Unit)
  pure (w.barStatus d (barWord sc 0 true false false false true))

/-- BAR (R331-R333).  `arrive` and `wait` name the parts of the form: arrive, wait or both. -/
def barForm (w : Warp) (sc : Scope) (bid : Nat) (d : SReg) (arrive wait : Bool) : M Warp := do
  let lvl := lvlKey sc
  if !w.barLegal sc then throw (trapOf 0x01)
  if w.barAlone lvl bid then barLone w sc d arrive wait
  else do
    let s ← get
    match w.barSt lvl bid, arrive && w.mid == 0 with
    | none, false => barLone w sc d false true
    | some b, false =>
      if s.barDone w b then barDepart w sc d b else throw (waitAt w.mid)
    | st, true =>
      match (match st with | some b => !s.barDone w b | none => false) with
      | true => throw (waitAt 0)
      | false => do
        release w sc
        let (w', ph) ← (barSend w lvl bid false : SM (Warp × Nat))
        if wait then pure { w' with wait := true, mid := 1 }
        else pure (w'.barStatus d (barWord sc ph false true false false false))

end Sys2Proof.Machine
end

