-- ==== Sys2Proof/Machine/Exchange.lean ====
section
/-!
DEFINITION. Sharing groups, their barrier and exchange stores (R120-R129).
-/

namespace Sys2Proof.Machine

/-- Changes the exchange state of a core. -/
def State.updXch (s : State) (core : Nat) (f : Exch → Exch) : State := s.updCore core (fun c => { c with xch := f c.xch })

/-- The lowest index that no member holds.  A member that leaves holds its index until its GLEAVE retires, which is after every member has taken
the revocation of its slot (R126); that a joiner cannot have it before is the model's reading (log 23). -/
def Group.freeIndex (g : Group) : Nat :=
  ((List.range 65).find? (fun k => !(g.members ++ g.leaving).any (fun m => m.ix == k))).getD 64

/-- Members, those that leave among them, and joiners (R121). -/
def Group.size (g : Group) : Nat := g.members.length + g.leaving.length + g.joiners.length

/-- The joiners become members, each at the lowest free index (R121). -/
def Group.takeJoiners (g : Group) : Group :=
  g.joiners.foldl (fun g c => { g with members := g.members ++ [{ ix := g.freeIndex, wg := c.2, core := c.1 }] }) { g with joiners := [] }

/-! How far a warp that waits in GJOIN, GLEAVE or GBAR has come: it waits, or what it waits for has happened and its result stands. -/

/-- GJOIN waits. -/
def joinWait : Nat := 2000000
/-- The join that GJOIN waits for has taken effect at an index. -/
def joinedAt (k : Nat) : Nat := 2000001 + k
/-- The join that GJOIN waits for was withdrawn. -/
def joinGone : Nat := 2000100
/-- GLEAVE waits. -/
def leaveWait : Nat := 3000000
/-- The core is no member any more. -/
def leaveDone : Nat := 3000001
/-- GBAR waits. -/
def gbarWait : Nat := 4000000
/-- The core has swapped: its parity, and whether that release abandoned a member or a warp. -/
def gbarDone (ph abn : Bool) : Nat := 4000001 + ph.toNat + 2 * abn.toNat

/-- Warps of a core that wait with one mark get another; those of a saved context wait for their own group and stand elsewhere (R127). -/
def State.remark (s : State) (core old new : Nat) : State :=
  s.updWarps (fun w => w.core == core && w.mid == old && w.st != .killed && w.st != .saved) (fun w => { w with mid := new })

/-- The context of a group is saved: what is on its way to its members waits until they are resumed together (R127). -/
def State.away (s : State) (g : Group) : Bool := (s.launch? g.launch).any (fun l => (s.ctx l.part l.ctx).saved)

/-- When every awaited member has arrived the controller releases the phase (R124). -/
def State.checkGroup (s : State) (p gid : Nat) : State :=
  match s.group? p gid with
  | none => s
  | some g =>
    if g.size = 0 then { s with groups := s.groups.filter (fun x => !(x.part == p && x.gid == gid)) }
    else if g.members.all (fun m => g.arr.contains m.ix) && (g.members != [] || g.joiners != []) then
      let abn := g.members.any (fun m => (s.core m.core).xch.lost)
      let g : Group := { g.takeJoiners with phase := (g.phase + 1) % 65536, arr := [] }
      let g : Group := { g with rels := g.rels ++ g.members.map (fun m => (m.core, abn)) }
      let s := g.members.foldl (fun (s : State) m => s.updXch m.core (fun x => { x with lost := false })) s
      s.updGroup p gid (fun _ => g)
    else s

/-- The result of GJOIN when it does not wait (R121), or none. -/
def State.joinNow (s : State) (p : Nat) (asid : BitVec 12) (core gid : Nat) : Option Int :=
  let x := (s.core core).xch
  if x.e = 0 then some (-5)
  else
    match x.mem, x.join with
    | some (g, k), _ => if g = gid then some k else some (-4)
    | none, some j => if j = gid then none else some (-4)
    | none, none =>
      match s.group? p gid with
      | none => none
      | some g =>
        if g.size = 0 then none
        else if g.asid ≠ asid ∨ g.launch ≠ x.launch then some (-3)
        else if g.e ≠ x.e then some (-2)
        else if g.size ≥ 64 then some (-1)
        else none

/-- A core becomes a joiner for a workgroup, or the first member at once (R121); the index in that case. -/
def State.join (s : State) (p : Nat) (asid : BitVec 12) (core wg gid : Nat) : State × Option Int :=
  let x := (s.core core).xch
  if (s.group? p gid).any (fun g => g.size != 0) then
    let s := s.updGroup p gid (fun g => { g with joiners := g.joiners ++ [(core, wg)] })
    (s.updXch core (fun x => { x with join := some gid, wgid := wg }), none)
  else
    let g : Group := { part := p, gid := gid, asid := asid, launch := x.launch, e := x.e, phase := 0,
                       members := [{ ix := 0, wg := wg, core := core }], leaving := [], joiners := [], arr := [], rels := [], revs := [] }
    let s := { s with groups := g :: s.groups.filter (fun o => !(o.part == p && o.gid == gid)) }
    (s.updXch core (fun x => { x with mem := some (gid, 0), wgid := wg, ph := false, copy := [(0, core)], arrived := false }), some 0)

/-- The membership as a release brings it to a core: the members, and those that leave whose revocation the core has not taken (R126). -/
def Group.copyFor (g : Group) (core : Nat) : List (Nat × Nat) :=
  (g.members ++ g.leaving.filter (fun m => g.revs.contains (core, m.ix))).map (fun m => (m.ix, m.core))

/-- A release reaches a core (R124, R125): a joiner opens in the new phase, a member swaps; the warps that wait for it have their result. -/
def State.takeRelease (s : State) (g : Group) (core : Nat) (abn : Bool) : State :=
  let s := s.updGroup g.part g.gid (fun g => { g with rels := g.rels.filter (fun r => r.1 != core) })
  match (s.core core).xch.mem with
  | some _ =>
    let s := s.remark core gbarWait (gbarDone (!(s.core core).xch.ph) abn)
    s.updXch core (fun x => { x with ph := !x.ph, arrived := false, copy := g.copyFor core })
  | none =>
    match g.members.find? (fun m => m.core == core) with
    | some m =>
      let s := s.remark core joinWait (joinedAt m.ix)
      s.updXch core (fun x =>
        { x with mem := some (g.gid, m.ix), join := none, ph := g.phase % 2 == 1, arrived := false, copy := g.copyFor core })
    | none => s

/-- A member meets the conditions of R124: every live warp of its workgroup has issued GBAR, and the core's exchange stores have landed. -/
def State.canArrive (s : State) (core : Nat) : Bool :=
  let x := (s.core core).xch
  match x.mem, s.launch? x.launch with
  | some _, some l =>
    !x.arrived && !x.leaving && !s.pkts.any (fun k => k.src == core) &&
      (l.warpsOf x.wgid).all (fun n => l.gone.contains n ||
        s.warps.any (fun w => w.launch == l.uid && !w.posted && w.who == n && w.mid == gbarWait))
  | _, _ => false

/-- A member arrives (R124). -/
def State.arriveGroup (s : State) (core : Nat) : State :=
  match (s.core core).xch.mem with
  | some (gid, k) =>
    let p := s.partOfCore core
    let s := s.updXch core (fun x => { x with arrived := true })
    (s.updGroup p gid (fun g => { g with arr := k :: g.arr })).checkGroup p gid
  | none => s

/-- A member leaves: the open collective instances of its group are abandoned (R365). -/
def State.collLeave (s : State) (p gid : Nat) : State :=
  { s with colls := s.colls.map (fun x =>
      if x.part == p && x.whr == 0 && x.gid == gid then { x with gone := true } else x) }

/-- A member is no longer awaited, and every other member is sent the revocation of its slot (R126 steps 1 and 2). -/
def Group.drop (g : Group) (k : Nat) : Group :=
  { g with members := g.members.filter (fun m => m.ix != k), leaving := g.leaving ++ g.members.filter (fun m => m.ix == k),
           arr := g.arr.filter (fun a => a != k),
           revs := g.revs ++ ((g.members.filter (fun m => m.ix != k)) ++ g.leaving).map (fun m => (m.core, k)),
           rels := g.rels.filter (fun r => !g.members.any (fun m => m.ix == k && m.core == r.1)) }

/-- GLEAVE of a member begins (R126). -/
def State.startLeave (s : State) (core : Nat) : State :=
  let x := (s.core core).xch
  match x.mem, x.leaving with
  | some (gid, k), false =>
    let p := s.partOfCore core
    let s := s.updXch core (fun x => { x with leaving := true })
    ((s.updGroup p gid (fun g => g.drop k)).collLeave p gid).checkGroup p gid
  | _, _ => s

/-- A leaving member is a member no more: its slot is free.  What was on its way to a member that left is gone; a core that only gave up the slot of
a join may have joined again, and what is on its way to it is its own (R125). -/
def Group.finish (g : Group) (m : Member) (here : Bool) : Group :=
  { g with leaving := g.leaving.filter (fun x => x.ix != m.ix), revs := g.revs.filter (fun r => !here || r.1 != m.core),
           rels := g.rels.filter (fun r => !here || r.1 != m.core) }

/-- GLEAVE of a member ends once every member has taken the revocation and every store to and from the core has landed: the core
swaps once and is no member (R126); a GBAR of the core that still waits retires at that swap, as no rule says (log 23).  A core without its region
(R127), or one that withdrew its join, only gives up its slot. -/
def State.finishOne (s : State) (g : Group) (m : Member) : State :=
  let x := (s.core m.core).xch
  let here := x.leaving && x.mem == some (g.gid, m.ix)
  if s.away g || g.revs.any (fun r => r.2 == m.ix) || (here && s.pkts.any (fun q => q.src == m.core || q.dst == m.core)) then s
  else
    let s := s.updGroup g.part g.gid (fun g => g.finish m here)
    if here then
      let s := (s.remark m.core leaveWait leaveDone).remark m.core gbarWait (gbarDone (!x.ph) x.lost)
      s.updXch m.core (fun x => { x with ph := !x.ph, mem := none, leaving := false, arrived := false, copy := [], lost := false })
    else s

/-- Every leaving that can end ends; a group with nobody left is gone (R120). -/
def State.finishLeaves (s : State) : State :=
  let s := s.groups.foldl (fun (s : State) g => g.leaving.foldl (fun (s : State) m =>
    match s.group? g.part g.gid with
    | some g => s.finishOne g m
    | none => s) s) s
  { s with groups := s.groups.filter (fun g => g.size != 0) }

/-- A joining core withdraws, and every GJOIN that waits for it has its result (R125).  A core whose join the controller has already released
gives up the slot as a leaving member does. -/
def State.withdraw (s : State) (core gid : Nat) : State :=
  let p := s.partOfCore core
  let s := s.updGroup p gid (fun g =>
    let g := { g with joiners := g.joiners.filter (fun c => c.1 != core) }
    match g.members.find? (fun m => m.core == core) with
    | some m => g.drop m.ix
    | none => g)
  let s := (s.remark core joinWait joinGone).updXch core (fun x => { x with join := none })
  (s.checkGroup p gid).finishLeaves

/-- A member takes a revocation (R126). -/
def State.takeRevocation (s : State) (g : Group) (core k : Nat) : State :=
  let s := s.updGroup g.part g.gid (fun g => { g with revs := g.revs.erase (core, k) })
  (s.updXch core (fun x => { x with copy := x.copy.filter (fun m => m.1 != k) })).finishLeaves

/-- The core of an exchange slot in a core's copy of the membership. -/
def Exch.slotCore (x : Exch) (k : Nat) : Option Nat := (x.copy.find? (fun m => m.1 == k)).map (fun m => m.2)

end Sys2Proof.Machine
end

