-- ==== Sys2Proof/Machine/Control.lean ====
section
/-!
DEFINITION. Branches, calls, warp lifetime, traps and waiting: OPC 0x20-0x2A, 0x30, 0x31, 0x34, 0x36, 0x37 (R256-R272, R278).
-/

namespace Sys2Proof.Machine

/-- A branch (R256): the target is checked only when it is taken. -/
def branchTo (taken : Warp → Bool) (disp : Word32) (s : State) : Out :=
  withWarp s fun w => runM w (do
    let tgt := branchTarget w.pc disp
    if !taken w then pure w.retire
    else if ← (badTarget w tgt : SM Bool) then throw (trapOf 0x04)
    else pure (w.goTo tgt)) s

/-- BR (R256). -/
def execBr (disp : Word32) (s : State) : Out := branchTo (fun _ => true) disp s
/-- BCC (R256). -/
def execBcc (k : BitVec 4) (disp : Word32) (s : State) : Out := branchTo (fun w => w.cond k) disp s
/-- BMZ (R256). -/
def execBmz (m : MReg) (disp : Word32) (s : State) : Out := branchTo (fun w => w.m m == 0#32) disp s
/-- BMNZ (R256). -/
def execBmnz (m : MReg) (disp : Word32) (s : State) : Out := branchTo (fun w => w.m m != 0#32) disp s

/-- CALL and CALLI (R257). -/
def callTo (tgt : Warp → Word) (f : Nat) (s : State) : Out :=
  withWarp s fun w => runM w (do
    let t := tgt w
    if decide (w.depth ≥ 256) || decide (w.wbo < f) then throw (trapOf 0x0E)
    else if ← (badTarget w t : SM Bool) then throw (trapOf 0x04)
    else do
      storeLink w (nextSlot w.pc) f
      pure { w.retireRegion t with depth := w.depth + 1, wbo := w.wbo - f }) s

/-- CALL (R257). -/
def execCall (slide : Byte) (disp : Word32) (s : State) : Out := callTo (fun w => branchTarget w.pc disp) slide.toNat s
/-- CALLI (R257). -/
def execCalli (a : SReg) (slide : Byte) (s : State) : Out := callTo (fun w => w.s a) slide.toNat s
/-- RET (R257).  A slide back past the 16 bits of WBO keeps an unbounded number, which WCTX_WIN and the control block cut to 16 bits: the
model's choice, since R57 does not say (log 61). -/
def execRet (s : State) : Out :=
  withWarp s fun w => runM w (do
    if w.depth = 0 then throw (trapOf 0x0E)
    else do
      let (t, f) ← loadLink w
      if ← (badTarget w t : SM Bool) then throw (trapOf 0x04)
      else pure { w.retireRegion t with depth := w.depth - 1, wbo := w.wbo + f }) s

/-- The last live warp of a workgroup takes its core out of its sharing group (R259); a join that its workgroup began is withdrawn. -/
def State.lastLeaves (s : State) (w : Warp) : State :=
  let x := (s.core w.core).xch
  match s.launch? w.launch with
  | some l =>
    if x.e ≠ 0 ∧ x.launch = w.launch ∧ (l.warpsOf w.wgid).all (fun n => l.gone.contains n) then
      match x.join with
      | some gid => if x.wgid = w.wgid then s.withdraw w.core gid else s
      | none => (s.startLeave w.core).finishLeaves
    else s
  | none => s

/-- A warp ends: its place in the launch, its image and its slot are freed (R206, R259). -/
def State.endWarp (s : State) (w : Warp) : State :=
  let s := s.updLaunch w.launch (fun l =>
    { l with gone := if w.posted then l.gone else w.who :: l.gone, left := l.left - 1, imgs := l.imgs.erase w.imgIx })
  let s := if w.posted then s else s.lastLeaves w
  (s.dropWarp w.wid).gcOps

/-- EXIT (R259). -/
def execExit (s : State) : Out := withWarp s fun w => .next (s.endWarp w)

/-- Raises what an atomic on a record answers, or gives the count found. -/
def recOut (addr : Word) : RecRes → M Nat
  | .fail e => throw { cause := wstCause e, wst := e, va := addr }
  | .poison => throw { cause := 0x13, va := addr }
  | .full => throw (waitAt 0)
  | .refused c => throw (trapOf c)
  | .found j => pure j
  | .done => pure 0

/-- An atomic of a warp on a record: ALIGN, NONCANON, then the release at `.wafer` and the atomic (R260, R261). -/
def recordOp (w : Warp) (addr : Word) (m : SM RecRes) : M Nat := do
  if addr.extractLsb' 0 5 != 0#5 then throw { cause := 0x05, va := addr }
  else if addr.extractLsb' 56 8 != 0#8 then throw { cause := 0x06, wst := 5, va := addr }
  else do
    memReady w
    release w .wafer
    let r ← (m : SM RecRes)
    recOut addr r

/-- POST (R260). -/
def execPost (a : SReg) (s : State) : Out :=
  withWarp s fun w => runM w (do
    let addr := w.s a
    let _ ← recordOp w addr (recPost w.core w.part w.ctx (w.key addr.toNat) addr.toNat w.launch (!w.sup))
    pure (w.retireRegion (nextSlot w.pc))) s

/-- JOIN (R261). -/
def execJoin (d a : SReg) (s : State) : Out :=
  withWarp s fun w => runM w (do
    let addr := w.s a
    let j ← recordOp w addr (recDecrement w.core (w.key addr.toNat) addr.toNat (!w.sup))
    let v : Word := if j = 0 then BitVec.allOnes 64 else BitVec.ofNat 64 (j - 1)
    pure ((w.setS d v).retireRegion (nextSlot w.pc))) s

/-- YIELD (R262). -/
def execYield (s : State) : Out := warpOp (fun w => { w with age := s.plat.cc }) s
/-- REGION (R263). -/
def execRegion (s : State) : Out := warpOp (fun w => { w with regpc := w.pc, rcnt := 0 }) s

/-- The warp index as QUOTA and WARP_ID name it (R264, R275). -/
def Warp.index (w : Warp) : Nat := if w.posted then 0xFF else w.widx
/-- A warp holds its slot and its quota. -/
def Warp.resident (w : Warp) : Bool := w.st != .kennel && w.st != .saved && w.st != .killed

/-- The target of a move of quota, if the move is permitted (R60, R264). -/
def State.quotaTarget (s : State) (w : Warp) (a b : Word) : Option Warp :=
  match s.warps.find? (fun x => x.launch == w.launch && x.wgid == w.wgid && !x.posted && x.widx == a.toNat && x.resident) with
  | some x =>
    if decide (a.toNat < w.warps) && !w.posted && x.sub == w.sub && x.core == w.core && x.harvest == w.harvest &&
        decide (32 + b.toNat ≤ w.ql) && decide (x.ql + b.toNat ≤ 1280) then some x else none
  | none => none

/-- QUOTA (R264). -/
def execQuota (a b : SReg) (s : State) : Out :=
  withWarp s fun w =>
    if w.s b = 0 ∨ (w.s a).toNat = w.index then .next (s.setWarp (w.retireRegion (nextSlot w.pc)))
    else
      match s.quotaTarget w (w.s a) (w.s b) with
      | none => trapOut w (trapOf 0x0F) s
      | some x =>
        let n := (w.s b).toNat
        let v : Warp := { w.retireRegion (nextSlot w.pc) with ql := w.ql - n }
        .next ((s.setWarp { x with ql := x.ql + n }).setWarp { v with shed := v.overQuota })

/-- TRAP (R270). -/
def execTrap (code : BitVec 16) (s : State) : Out :=
  withWarp s fun w => trapOut w { cause := 0x11, code := code.toNat, nxt := true } s

/-- RTE (R269). -/
def execRte (s : State) : Out :=
  withWarp s fun w =>
    match w.rte with
    | .ok w' => .next (s.setWarp w')
    | .error t => trapOut w t s

/-- PARK (R271): the warp parks whatever TEN and TL hold. -/
def execPark (s : State) : Out := withWarp s fun w => .next (s.park w { cause := 0x11, code := 0xFFFF, nxt := true })

/-- PAUSE (R272). -/
def execPause (n : BitVec 16) (s : State) : Out :=
  withWarp s fun w =>
    match w.pause with
    | some t => if t ≤ s.plat.cc then .next (s.setWarp w.retire) else .next s
    | none => .next (s.setWarp (if n = 0 then w.retire else { w with pause := some (s.plat.cc + n.toNat) }))

/-- RMACK (R278). -/
def execRmack (a : SReg) (s : State) : Out :=
  withWarp s fun w =>
    if (w.s a).toNat = (s.part w.part).version then .next ((s.acked w.part w.ctx).setWarp { w with z := true }.retire)
    else .next (s.setWarp { w with z := false }.retire)

end Sys2Proof.Machine
end

