-- ==== Sys2Proof/Machine/Image.lean ====
section
/-!
DEFINITION. The context image of a warp: the control block and the areas beside the window (R44, R394), the write-back of R46 and the
reload at resumption.
-/

namespace Sys2Proof.Machine

/-- WCTX_WIN (R48). -/
def Warp.winReg (w : Warp) : Word := BitVec.ofNat 16 w.wres ++ 0#7 ++ BitVec.ofNat 9 w.depth ++ 0#16 ++ BitVec.ofNat 16 w.wbo
/-- WCTX_VIEWS (R48). -/
def Warp.viewsReg (w : Warp) : Word32 := 0#5 ++ BitVec.ofNat 9 w.va ++ BitVec.ofNat 9 w.vt ++ BitVec.ofNat 9 w.vv
/-- WCTX_QUOTA (R48). -/
def Warp.quotaReg (w : Warp) : Word32 := 0#5 ++ BitVec.ofNat 11 w.lines.length ++ 0#5 ++ BitVec.ofNat 11 w.ql

/-- STATE of the control block (R394). -/
def stateCode : WState → BitVec 8
  | .parkedFault => 3
  | .suspended => 6
  | _ => 1

/-- The control block (R394), 256 bytes as two lines, at a cycle count. -/
def Warp.ctlBlock (w : Warp) (cc : Nat) (st : WState) : BitVec 2048 :=
  let ident : Word := (w.id.extractLsb' 60 4) ++ 0#52 ++ w.id.extractLsb' 0 8
  let flg : Byte := 0#3 ++ BitVec.ofBool w.tl ++ w.flags
  (0#1280 ++ (BitVec.ofNat 64 w.age - BitVec.ofNat 64 cc) ++ ident ++ w.fseq ++ 0#8 ++ BitVec.ofNat 8 w.batches.length ++
    BitVec.ofNat 16 w.nbatch ++ w.viewsReg ++ w.trpLanes ++ w.trpAddr ++ w.trpCause ++ w.trpPc ++ w.regpc ++ w.fmode ++ w.quotaReg ++
    w.winReg ++ 0#40 ++ stateCode st ++ BitVec.ofNat 8 w.rcnt ++ flg ++ w.pc)

/-- The first 1,024 bytes of the image (R44): control block, scalars, masks, crossing registers, reserved. -/
def Warp.headLines (w : Warp) (cc : Nat) (st : WState) : List LineData :=
  let c := w.ctlBlock cc st
  let sline (j : Nat) : LineData :=
    (List.range 16).foldl (fun (acc : LineData) i =>
      let v := if 16 * j + i = 0 then 0 else (w.sr[16 * j + i]?).getD 0
      acc ||| (BitVec.zeroExtend 1024 v <<< (64 * i))) 0
  let m : LineData := (List.range 16).foldl (fun (acc : LineData) i =>
    let v : Word32 := if i = 0 then BitVec.allOnes 32 else (w.mr[i]?).getD 0
    acc ||| (BitVec.zeroExtend 1024 v <<< (32 * i))) 0
  let q : LineData := (List.range 4).foldl (fun (acc : LineData) i =>
    let v : Word × BitVec 16 := (w.qr[i]?).getD (0, 0)
    acc ||| (BitVec.zeroExtend 1024 (v.2 ++ v.1) <<< (512 + 128 * i))) 0
  [c.extractLsb' 0 1024, c.extractLsb' 1024 1024, sline 0, sline 1, sline 2, sline 3, m ||| q, 0]

/-- Lines of the areas of the image that are written as zero beside the first 1,024 bytes (R44). -/
def zeroLines : List Nat := (List.range 24).map (fun j => 40 + j)

/-- A warp with what the first lines of its image hold (R394), its quota where `room` lines are free for it.  What a control block that
software changed does where the resources of the core forbid it is the model's choice (log 12). -/
def Warp.fromHead (w : Warp) (cc room : Nat) (ls : List LineData) : Warp :=
  let l (i : Nat) : LineData := ls.getD i 0
  let c := l 0
  let f (o n : Nat) : Nat := (c.toNat / 2 ^ (8 * o)) % 2 ^ (8 * n)
  let sv (i : Nat) : Word := if i = 0 then 0 else (l (2 + i / 16)).extractLsb' (64 * (i % 16)) 64
  let mv (i : Nat) : Word32 := if i = 0 then BitVec.allOnes 32 else (l 6).extractLsb' (32 * i) 32
  let qv (i : Nat) : Word × BitVec 16 := ((l 6).extractLsb' (512 + 128 * i) 64, (l 6).extractLsb' (576 + 128 * i) 16)
  let flg := f 8 1
  let win := BitVec.ofNat 64 (f 0x10 8)
  let views := f 0x44 4
  let ql := f 0x18 4 % 2048
  let ident := BitVec.ofNat 64 (f 0x50 8)
  (Warp.setFlags { w with
    pc := BitVec.ofNat 64 (f 0 8), tl := flg / 16 % 2 == 1, rcnt := f 9 1 % 4,
    wres := (win.extractLsb' 48 16).toNat, depth := (win.extractLsb' 32 9).toNat, wbo := (win.extractLsb' 0 16).toNat,
    fmode := BitVec.ofNat 32 (f 0x1C 4 % 8), regpc := BitVec.ofNat 64 (f 0x20 8), trpPc := BitVec.ofNat 64 (f 0x28 8),
    trpCause := BitVec.ofNat 64 (f 0x30 8), trpAddr := BitVec.ofNat 64 (f 0x38 8), trpLanes := BitVec.ofNat 32 (f 0x40 4),
    vv := views % 512, vt := views / 512 % 512, va := views / 2 ^ 18 % 512,
    ql := (if 32 ≤ ql ∧ ql ≤ room then ql else w.ql), batches := w.batches.take (f 0x4A 1),
    harvest := ident.getLsbD 62, posted := ident.getLsbD 60, widx := (if ident.getLsbD 60 then w.widx else ident.toNat % 256),
    nbatch := f 0x48 2, fseq := BitVec.ofNat 32 (f 0x4C 4), age := (BitVec.ofNat 64 (f 0x58 8) + BitVec.ofNat 64 cc).toNat,
    sr := Vector.ofFn (fun i => sv i.val), mr := Vector.ofFn (fun i => mv i.val), qr := Vector.ofFn (fun i => qv i.val) }
    (BitVec.ofNat 4 flg))

/-- The line of a VA of the warp's image. -/
def Warp.imgKey (w : Warp) (i : Nat) : LineKey := w.key (w.img + 128 * i)

/-- A VA lies in the warp's image. -/
def Warp.inImg (w : Warp) (k : LineKey) : Bool :=
  k.part == w.part && k.asid == w.asid && decide (w.img / 128 ≤ k.ln) && decide (k.ln < w.img / 128 + 64 + w.wres)

/-- Writes a whole line of the image to its home.  A checked write to a page that no longer takes it is an orphan of the warp's context; of a
context that is released it is lost (R45, R184). -/
def putImg (w : Warp) (i : Nat) (d : LineData) (checked : Bool) : SM Unit := do
  dropL1 w.core (fun l => l.key == w.imgKey i)
  match ← probeStore w.core (w.imgKey i) .store false with
  | .ok _ => anchorWrite w.core (w.imgKey i) (BitVec.allOnes 128) d true false
  | .error _ => if checked then modify fun s => s.orphan w.part w.ctx (BitVec.ofNat 64 (w.img + 128 * i))

/-- The control state and the other areas of the image as a full save writes them (R64): the link stack is already in memory order. -/
def saveHead (w : Warp) (st : WState) (checked : Bool) : SM Unit := do
  let s ← get
  (w.headLines s.plat.cc st).zipIdx.forM (fun (d, i) => putImg w i d checked)
  zeroLines.forM (fun i => putImg w i 0 checked)

/-- The image's L1 lines go to their homes and the homes to memory: a write-back that the gate checks, but for a context that is released (R184). -/
def settleImg (w : Warp) (checked : Bool) : SM Unit := do
  let s ← get
  let ls := (s.core w.core).l1.filter (fun l => w.inImg l.key)
  dropL1 w.core (fun l => w.inImg l.key)
  ls.forM (fun l => if l.dirty ≠ 0 then anchorWrite w.core l.key l.dirty l.data true false else pure ())
  removeLines w.part w.inImg checked

/-- The state that a warp's image says it resumes into (R394): for a warp that comes back through Ready the one that follows. -/
def Warp.imgState (w : Warp) : WState :=
  match w.st with
  | .ready | .saved | .kennel | .parkedHarvest => w.back
  | st => st

/-- A line that has been written back. -/
def WLine.clean (l : WLine) : WLine := { l with dirty := false }

/-- The window lines of a warp that are dirty reach its image; where the register cache and the Kennel hold one line, the register cache's is the later
one. -/
def putWindow (w : Warp) (checked : Bool) : SM Unit :=
  (w.kennel ++ w.lines).forM (fun l => if l.dirty then putImg w (64 + l.idx) l.data checked else pure ())

/-- The write-back of R46: every dirty window line and every non-window area reach memory; the warp keeps its lines (R396). -/
def imgWriteBack (w : Warp) (checked : Bool) : SM Unit := do
  saveHead w w.imgState checked
  putWindow w checked
  settleImg w checked
  modify fun s => s.updWarps (fun x => x.wid == w.wid) (fun x => { x with lines := x.lines.map WLine.clean, kennel := x.kennel.map WLine.clean })

/-- Reads the image's first lines at their home, or gives a walk status and an address. -/
def readHead (w : Warp) : Nat → Nat → SM (Except (Nat × Nat) (List LineData))
  | 0, _ => pure (.ok [])
  | n + 1, i => do
    dropL1 w.core (fun l => l.key == w.imgKey i)
    match ← anchorRead w.core (w.imgKey i) .load false { cnt := false } with
    | .error e => pure (.error (e, w.img + 128 * i))
    | .ok f =>
      match ← readHead w n (i + 1) with
      | .error e => pure (.error e)
      | .ok r => pure (.ok (f.data :: r))

/-- Clean lines of a window as the image holds them now; one that does not read leaves (R46, log 12). -/
def reread (w : Warp) : List WLine → SM (List WLine)
  | [] => pure []
  | l :: r => do
    let k := w.imgKey (64 + l.idx)
    let rest ← reread w r
    if l.dirty then pure (l :: rest)
    else do
      dropL1 w.core (fun x => x.key == k)
      match ← anchorRead w.core k .load false { cnt := false } with
      | .ok f => pure (if f.poi then rest else { l with data := f.data } :: rest)
      | .error _ => pure rest

/-- The lines that the quota of a warp may take: those that no other warp of its sub-core has (R52), for a harvest warp under the cap of R61. -/
def State.quotaRoom (s : State) (w : Warp) : Nat :=
  let mates := s.warps.filter (fun x => x.wid != w.wid && x.core == w.core && x.sub == w.sub && x.st != .saved)
  let held := ((mates.filter (fun x => x.st != .kennel)).map (fun x => x.ql)).sum
  let cap := ((mates.filter (fun x => x.harvest)).map (fun x => x.ql + 8)).sum
  if w.harvest then min (1280 - held) (512 - cap - 8) else 1280 - held

/-- What a stopped instruction keeps of how far it had come: a shoot-down issues again from the start (R280). -/
def Warp.restart (w : Warp) : Nat := if w.mid = purgeWait then 0 else w.mid

/-- The state that STATE of a control block names, for a warp that comes back through Ready; another number leaves what the device holds
(R394, log 12). -/
def stateOf (w : Warp) (ls : List LineData) : WState :=
  match ((ls.getD 0 0).extractLsb' 80 8).toNat, w.back with
  | 1, .ready => .ready
  | 1, _ => .running
  | 3, _ => .parkedFault
  | 6, _ => .suspended
  | _, st => st

/-- The warp as its image's first lines leave it, in a state; what it had done of its instruction stands when its PC does, but a
shoot-down issues again from the start (R280). -/
def Warp.reloaded (w : Warp) (cc room : Nat) (ls : List LineData) (st : WState) : Warp :=
  let v := w.fromHead cc room ls
  { v with st := st, wait := false, hold := none, pause := none, since := cc, mid := if v.pc = w.pc then w.restart else 0 }

/-- A warp that the device holds goes on: its control state is read from its image (R394), and where software may have changed the image, so are its
clean window lines (R46); a failed read parks it.  A warp that comes back through Ready goes to the state that STATE names.
A warp that a failing write-back of its context killed meanwhile stays killed (R184). -/
def resumeWarp (w : Warp) (st : WState) : SM Unit := do
  match ← readHead w 8 0 with
  | .error (e, va) => modify fun s => if (s.warp? w.wid).any (fun x => x.st == .killed) then s else s.park w { cause := wstCause e, wst := e, va := BitVec.ofNat 64 va }
  | .ok ls => do
    let st := if w.st = .ready then stateOf w ls else st
    let v ← (if w.st = .ready then pure w else do pure { w with lines := ← reread w w.lines, kennel := ← reread w w.kennel })
    modify fun s => if (s.warp? w.wid).any (fun x => x.st == .killed) then s else s.setWarp (v.reloaded s.plat.cc (s.quotaRoom w) ls st)

end Sys2Proof.Machine
end

