-- ==== Sys2Proof/Machine/Save.lean ====
section
/-!
DEFINITION. Suspension and resumption of a context's warps (R206, R393, R405), the save area (R395), full saves and resumptions
(R64, R178, R396).
-/

namespace Sys2Proof.Machine

/-- A warp of a context. -/
def Warp.ofCtx (w : Warp) (p c : Nat) : Bool := w.part == p && w.ctx == c

/-- A warp goes to Suspended (R206).  One that Ready brings back to a state left that state; a saved warp returns from its save to Suspended
(R396). -/
def Warp.suspended (w : Warp) : Warp :=
  if w.st = .saved then (if w.back = .suspended then w else { w with back := .suspended, sback := w.back })
  else
    let left := if w.st = .ready then (if w.back = .suspended then w.sback else w.back) else w.st
    { w with st := .suspended, sback := left, wait := false, hold := none, pause := none, rob := [] }

/-- Every warp of a context in Ready, Running or Parked-fault, and every saved one, goes to Suspended, its image written back (R46, R206, R393). -/
def suspendWarps (p c : Nat) : SM Unit := do
  let s ← get
  (s.warps.filter (fun w => w.ofCtx p c && (owing w || w.st == .saved))).forM (fun w => do
    let v := w.suspended
    modify fun s => s.setWarp v
    imgWriteBack v true)
  modify fun s => s.updCtx p c (fun k => { k with susp := true })

/-- Every suspended warp of a context returns to the state it left (R393); the current map version is acknowledged when the
suspension was MAP_SUSPEND. -/
def resumeWarps (p c : Nat) : SM Unit := do
  let s ← get
  (s.warps.filter (fun w => w.ofCtx p c && w.st == .suspended)).forM (fun w => resumeWarp w w.sback)
  modify fun s =>
    let s := s.updWarps (fun w => w.ofCtx p c && (w.st == .kennel || w.st == .parkedHarvest || w.st == .saved || w.st == .ready) && w.back == .suspended)
      (fun w => { w with back := w.sback })
    let s := if (s.ctx p c).mapSusp then s.acked p c else s
    s.updCtx p c (fun k => { k with susp := false, mapSusp := false })

/-! ## The save area (R395) -/

/-- The dispatcher or a core acting for a context on a core. -/
def State.ctxAgent (s : State) (p c core : Nat) : Agent := { core := core, part := p, ctx := c, asid := (s.ctx p c).asid }

/-- Address of a core's slot. -/
def Ctx.slotVa (k : Ctx) (core : Nat) : Nat := k.save.toNat + 1088 * 1024 * core

/-- Writes whole lines at supervisor level; the walk status and address of the first that fails. -/
def storeLines (g : Agent) : List (Nat × LineData) → SM (Option (Nat × Nat))
  | [] => pure none
  | (va, d) :: r => do
    match ← probeStore g.core (g.key va) .store false with
    | .error w => pure (some (w, va))
    | .ok _ => do
      anchorWrite g.core (g.key va) (BitVec.allOnes 128) d true false
      storeLines g r

/-- Reads whole lines at supervisor level and compares them: cause, walk status and address of the first failure. -/
def checkLines (g : Agent) (slot : Nat) : List (Nat × LineData) → SM (Option (Nat × Nat × Nat))
  | [] => pure none
  | (va, d) :: r => do
    match ← anchorRead g.core (g.key va) .load false { cnt := false } with
    | .error w => pure (some (wstCause w, w, va))
    | .ok f => if f.poi || f.data != d then pure (some (0x13, 0, slot)) else checkLines g slot r

/-- Fails a context with a KIND 2 record (R395). -/
def State.failSave (s : State) (p c cause wst va : Nat) : State :=
  (s.postCtx p c 2 cause wst (BitVec.ofNat 64 va) 0).failCtx p c

/-- Bytes of pages of a core's scratchpad memory, by offset. -/
def State.pageBytes (s : State) (core : Nat) (pages : List Nat) : Memory :=
  (s.pads.filter (fun e => e.1 / 2 ^ 20 == core && pages.contains (e.1 % 2 ^ 20 / 8192))).map (fun (e : Host.Cell) => (e.1 % 2 ^ 20, e.2))

/-- Writes the pages and the exchange state of a context on a core to its slot; the pages are taken back (R178, R200). -/
def saveSlot (p c core : Nat) (gs : List Grant) (xch : Exch) : SM Unit := do
  let s ← get
  let k := s.ctx p c
  let va := k.slotVa core
  let ls := (List.range (1 + 64 * gs.length)).map (fun i => (va + 128 * i, Config.saveSeal s.free i))
  set { s with free := s.free + 1 }
  match ← storeLines (s.ctxAgent p c core) ls with
  | some (w, a) => modify fun s => s.failSave p c (wstCause w) w a
  | none => modify fun s =>
    let slot : SaveSlot := { core := core, pages := gs.map (fun g => (g.page, g.launch)), xch := xch,
                             pad := s.pageBytes core (gs.map (fun g => g.page)), lines := ls }
    let s := s.updCtx p c (fun k => { k with slots := slot :: k.slots.filter (fun x => x.core != core) })
    s.dropGrants core (fun g => gs.contains g)

/-- Refills the pages of a context on a core from a slot of its save area after the integrity check; false when the context failed (R395). -/
def loadSlot (p c : Nat) (sl : SaveSlot) (core : Nat) : SM Bool := do
  let s ← get
  match ← checkLines (s.ctxAgent p c core) ((s.ctx p c).slotVa sl.core) sl.lines with
  | some (cause, w, a) => do
    modify fun s => s.failSave p c cause w a
    pure false
  | none => do
    modify fun s =>
      let s := sl.pages.foldl (fun (s : State) g => s.grantPage core g.1 p c g.2) s
      let pads := sl.pages.foldl (fun m g => zeroRange m (core * 2 ^ 20 + g.1 * 8192) 8192) s.pads
      let s := { s with pads := sl.pad.foldl (fun (m : Memory) (e : Host.Cell) => Memory.set m (core * 2 ^ 20 + e.1) e.2) pads }
      s.updCtx p c (fun k => { k with slots := k.slots.filter (fun x => x.core != sl.core) })
    pure true

/-- The pages that revoked harvest contexts return on a core: each is saved in its context's save area, then zeroed (R200). -/
def returnPages (core : Nat) : SM Unit := do
  let s ← get
  let gs := (s.core core).ret
  let cs := (gs.map (fun g => (g.part, g.ctx))).eraseDups
  cs.forM (fun x => saveSlot x.1 x.2 core (gs.filter (fun g => g.part == x.1 && g.ctx == x.2)) Exch.none)
  modify fun s =>
    let s : State := { s with pads := gs.foldl (fun m g => zeroRange m (core * 2 ^ 20 + g.page * 8192) 8192) s.pads }
    s.updCore core (fun c => { c with ret := [], last := c.last.filter (fun x => !gs.contains x) })

/-! ## Full saves (R178) -/

/-- Cores on which a context has warps or pages. -/
def State.ctxCores (s : State) (p c : Nat) : List Nat :=
  ((s.warps.filter (fun w => w.ofCtx p c && w.st != .killed)).map (fun w => w.core) ++
    (s.cores.filter (fun (e : Nat × Core) => e.2.grants.any (fun g => g.part == p && g.ctx == c))).map (fun (e : Nat × Core) => e.1)).eraseDups

/-- The cores that the release of a save reaches: those of the context, and others whose L1 still holds bytes that its warps wrote (R178 step 2). -/
def State.releaseCores (s : State) (p : Nat) (asid : BitVec 12) (cores : List Nat) : List Nat :=
  cores ++ ((s.cores.filter (fun (e : Nat × Core) => !cores.contains e.1 &&
    e.2.l1.any (fun l => l.key.part == p && l.key.asid == asid && l.dirty != 0))).map (fun (e : Nat × Core) => e.1))

/-- One warp is saved: its control state is written to the image; a warp in the Kennel writes its lines too (R63, R64). -/
def saveWarp (w : Warp) : SM Unit := do
  if w.st = .kennel || w.st = .parkedHarvest then do
    let v : Warp := { w with st := .saved }
    modify fun s => s.setWarp v
    imgWriteBack v true
    modify fun s => s.updWarps (fun x => x.wid == w.wid) (fun x => { x with lines := [], kennel := [] })
  else do
    let b := if w.st = .ready then w.back else w.st
    modify fun s => s.setWarp { w with st := .saved, back := b, wait := false, hold := none, pause := none, rob := [] }
    saveHead w b true

/-- The commands that a save leaves at the stacks are marked, and the one that it has to wait for (R150). -/
def State.saveQueued (s : State) (p : Nat) (asid : BitVec 12) : State :=
  let mine (c : McCmd) : Bool := !c.rd && c.part == p && c.asid == asid
  { s with mcq := s.mcq.map (fun c => { c with save := c.save || mine c }), stall := s.stall.map (fun c => { c with save := true }) }

/-- A full save of a context. -/
def saveCtx (p c : Nat) : SM Unit := do
  modify fun s => s.cancelDrains p
  let s ← get
  let cores := s.ctxCores p c
  (s.warps.filter (fun w => w.ofCtx p c && w.st != .killed && w.st != .saved)).forM saveWarp
  cores.forM (fun n => do
    let s ← get
    if (s.core n).ret ≠ [] then returnPages n)
  modify fun s => s.deliverAll (fun k => cores.contains k.src)
  modify fun s => { s with ops := s.ops.map (fun o => if o.part == p && o.ctx == c then { o with held := true } else o) }
  let asid := (s.ctx p c).asid
  let s ← get
  (s.releaseCores p asid cores).forM (fun n => releaseAct n p asid true (fun _ => true))
  cores.forM (fun n => do
    let s ← get
    let gs := (s.core n).grants.filter (fun g => g.part == p && g.ctx == c)
    let own := (s.launch? (s.core n).xch.launch).any (fun l => l.part == p && l.ctx == c)
    if gs ≠ [] || own || !(s.ctx p c).slots.any (fun x => x.core == n) then
      saveSlot p c n gs (if own then (s.core n).xch else Exch.none)
    if own then modify fun s => s.updCore n (fun k => { k with xch := Exch.none }))
  sysClean p asid (fun _ => true)
  modify fun s => (s.saveQueued p asid).updCtx p c (fun k => { k with saved := true, savedAt := s.plat.cc })

/-! ## Places of a sub-core -/

/-- Warps that hold slots of a sub-core. -/
def State.resident (s : State) (core sub : Nat) : List Warp :=
  s.warps.filter (fun w => w.core == core && w.sub == sub && w.st != .kennel && w.st != .saved)

/-- Slots of a sub-core that no warp holds. -/
def State.freeSlots (s : State) (core sub : Nat) : List Nat :=
  (List.range 8).filter (fun i => !(s.resident core sub).any (fun w => w.slot == i))

/-- Register-cache lines of a sub-core that no warp's quota holds (R52). -/
def State.freeQuota (s : State) (core sub : Nat) : Nat := 1280 - ((s.resident core sub).map (fun w => w.ql)).sum

/-- Harvest warps of a sub-core that count under R61: those that hold a slot, those in the Kennel and those on their way there. -/
def State.harvestOn (s : State) (core sub : Nat) : List Warp :=
  s.warps.filter (fun w => w.core == core && w.sub == sub && w.harvest && w.st != .saved)

/-- Lines that the harvest warps of a sub-core count for under R61. -/
def State.harvestLines (s : State) (core sub : Nat) : Nat := ((s.harvestOn core sub).map (fun w => w.ql + 8)).sum

/-! ## Reservations (R199, R382) -/

/-- Running launches whose resources are in use: their contexts are not saved. -/
def State.holders (s : State) (p : Nat) : List Launch :=
  s.launches.filter (fun l => l.part == p && l.st == .running && !(s.ctx p l.ctx).saved)

/-- Warps of a launch that R59 places on a sub-core of a core and that have not exited. -/
def Launch.onSub (l : Launch) (core sub : Nat) : Nat :=
  ((l.wgsOn core).map (fun wg => ((List.range l.warps).filter (fun i => i % 12 == sub && !l.gone.contains (256 * wg + i))).length)).sum

/-- RSLOT. -/
def Launch.rslot (l : Launch) : Nat := l.fld 44 1

/-- Slots a launch reserves on a sub-core. -/
def Launch.slotsOn (l : Launch) (core sub : Nat) : Nat := max l.rslot (l.onSub core sub)

/-- Launch-created warps of a sub-core that have not started. -/
def State.unstarted (s : State) (l : Launch) (core sub : Nat) : Nat :=
  l.onSub core sub - (s.warps.filter (fun w => w.launch == l.uid && w.core == core && w.sub == sub && !w.posted && w.st != .killed)).length

/-- Warps of a launch that hold slots of a sub-core. -/
def State.residentOf (s : State) (l : Launch) (core sub : Nat) : List Warp := (s.resident core sub).filter (fun w => w.launch == l.uid)

/-- Slots that a running launch holds on a sub-core: its reservation (R382), or what its warps, posted ones and killed ones that drain included,
hold beyond it. -/
def State.slotsHeld (s : State) (l : Launch) (core sub : Nat) : Nat :=
  let extra := ((s.residentOf l core sub).filter (fun w => w.posted || w.st == .killed)).length
  if l.place.contains core then max (l.slotsOn core sub) (l.onSub core sub + extra) else extra

/-- Slots that a running owner launch holds in reserve on a sub-core (R382): what it holds less the slots its warps hold. -/
def State.reserve (s : State) (l : Launch) (core sub : Nat) : Nat := s.slotsHeld l core sub - (s.residentOf l core sub).length

/-- Quota held in reserve for warps of a launch that have not started. -/
def State.reserveQuota (s : State) (l : Launch) (core sub : Nat) : Nat := s.unstarted l core sub * l.quota

/-- Quota that a running launch holds on a sub-core, as its warps have it now (R60), with `extra` lines for each warp. -/
def State.quotaHeld (s : State) (l : Launch) (extra core sub : Nat) : Nat :=
  s.unstarted l core sub * (l.quota + extra) +
    ((s.warps.filter (fun w => w.launch == l.uid && w.core == core && w.sub == sub && w.st != .saved)).map (fun w => w.ql + extra)).sum

/-- Running owner launches on a core. -/
def State.ownersOn (s : State) (p core : Nat) : List Launch := (s.holders p).filter (fun h => !h.harvest && h.place.contains core)

/-- A running launch uses a core: it is placed there, or a posted warp of it stands there. -/
def State.usesCore (s : State) (l : Launch) (core : Nat) : Bool :=
  l.place.contains core || s.warps.any (fun w => w.launch == l.uid && w.core == core && w.st != .saved)

/-- Some running owner launch of another context whose context is not saved uses a core. -/
def State.otherOwner (s : State) (p c core : Nat) : Bool :=
  (s.holders p).any (fun h => !h.harvest && h.ctx != c && s.usesCore h core)

/-- Harvest contexts other than one that use a core (R199). -/
def State.otherHarvest (s : State) (p c core : Nat) : List Nat :=
  (((s.holders p).filter (fun h => h.harvest && h.ctx != c && s.usesCore h core)).map (fun h => h.ctx)).eraseDups

/-- Pages a launch reserves on a core. -/
def Launch.pagesOn (l : Launch) (core : Nat) : Nat := (l.wgsOn core).length * l.kd 38 2 + l.fld 45 1

/-- Pages that the harvest contexts other than one hold on a core (R199). -/
def State.harvestPages (s : State) (p c core : Nat) : Nat :=
  (((s.holders p).filter (fun h => h.harvest && h.ctx != c && h.place.contains core)).map (fun h => h.pagesOn core)).sum

/-- A harvest warp of a quota may join those of a sub-core: the cap of R61, and the 8 entries of the Kennel directory (R206). -/
def State.kennelFits (s : State) (core sub ql : Nat) : Bool :=
  decide (s.harvestLines core sub + ql + 8 ≤ 512) && decide ((s.harvestOn core sub).length < 8)

/-! ## Gang slices (R387, R388) -/

/-- Boundary index of the slice that a time lies in. -/
def sliceIx (slc : Word32) (epoch : Word) (ns : Nat) : Nat := (ns - epoch.toNat) / ((slc.extractLsb' 0 16).toNat * 1000)

/-- The gang that runs in a slice. -/
def sliceGang (slc : Word32) (gang : Vector Word 8) (k : Nat) : Word := (gang[k % ((slc.extractLsb' 16 3).toNat + 1)]?).getD 0

/-- Time of a boundary: T0 + k * LEN * 1,000 ns (R388). -/
def boundaryNs (slc : Word32) (epoch : Word) (k : Nat) : Nat := epoch.toNat + k * (slc.extractLsb' 0 16).toNat * 1000

/-- Number of the first boundary that does not lie before a time. -/
def firstBoundary (slc : Word32) (epoch : Word) (ns : Nat) : Nat :=
  if ns ≤ epoch.toNat then 0
  else
    let len := (slc.extractLsb' 0 16).toNat * 1000
    (ns - epoch.toNat + len - 1) / len

/-- Time of the next boundary: under the values in force, or, with slicing off, under the values that wait (R387, R388). -/
def State.nextBoundary (s : State) (p : Nat) : Option Nat :=
  let q := s.part p
  if q.slc.getLsbD 31 then some (boundaryNs q.slc q.epoch q.slice)
  else if q.slcW.getLsbD 31 then some (boundaryNs q.slcW q.epochW q.slice)
  else none

/-- The next boundary has come. -/
def State.boundaryDue (s : State) (p : Nat) : Bool := (s.nextBoundary p).any (fun t => decide (t ≤ s.timeNs))

/-- A context of a partition that the gang schedule holds back: it stands in a gang and not in the one whose slice it is. -/
def State.heldBack (s : State) (p c : Nat) : Bool :=
  let q := s.part p
  q.slc.getLsbD 31 && decide (0 < q.slice) && q.gang.toList.any (fun m => m.getLsbD c) && !(sliceGang q.slc q.gang (q.slice - 1)).getLsbD c

/-! ## Resumption (R178, R380, R396) -/

/-- The context has an owner launch. -/
def State.ownerCtx (s : State) (p c : Nat) : Bool := s.launches.any (fun l => l.part == p && l.ctx == c && l.st == .running && !l.harvest)

/-- Cores on which a saved context left warps or pages. -/
def State.savedCores (s : State) (p c : Nat) : List Nat :=
  ((s.warps.filter (fun w => w.ofCtx p c && w.st == .saved)).map (fun w => w.core) ++ (s.ctx p c).slots.map (fun sl => sl.core)).eraseDups

/-- The core that takes what a context left on a core: that core while it is live, else the nearest live core of the partition that neither
the context nor another owner uses, ties to the lower id (R396, log 53). -/
def State.newCore (s : State) (p c : Nat) (used : List Nat) (core : Nat) : Option Nat :=
  if s.coreLive core then some core
  else ((s.liveCores p).filter (fun x => !used.contains x && !s.otherOwner p c x)).foldl (fun best x =>
    match best with
    | none => some x
    | some b => if hops x core < hops b core then some x else some b) none

/-- Where the cores of a saved context go: each core it left, with the core it resumes on. -/
def State.coreMap (s : State) (p c : Nat) : Option (List (Nat × Nat)) :=
  let cs := s.savedCores p c
  cs.foldlM (fun (m : List (Nat × Nat)) a => (s.newCore p c (cs ++ m.map (fun e => e.2)) a).map (fun b => m ++ [(a, b)])) []

/-- The image of a core under a map. -/
def mapTo (m : List (Nat × Nat)) (core : Nat) : Nat := tget m core core

/-- The sub-core of its core that a saved warp resumes on: its own; a posted warp that finds no room there takes another, beside what the launches of
its context reserve (R193, R65).  A harvest warp leaves what owners hold in reserve (R199). -/
def State.resumeSub (s : State) (w : Warp) : Option Nat :=
  let owners := s.launches.filter (fun h => h.part == w.part && h.st == .running && !h.harvest && h.place.contains w.core)
  let fits (hs : List Launch) (b : Nat) : Bool :=
    decide ((hs.map (fun h => s.reserve h w.core b)).sum < (s.freeSlots w.core b).length) &&
      decide ((hs.map (fun h => s.reserveQuota h w.core b)).sum + w.ql ≤ s.freeQuota w.core b) && (!w.harvest || s.kennelFits w.core b w.ql)
  if fits (if w.harvest then s.ownersOn w.part w.core else []) w.sub then some w.sub
  else if w.posted then (List.range 12).find? (fits (if w.harvest then s.ownersOn w.part w.core else owners.filter (fun h => h.ctx == w.ctx)))
  else none

/-- A saved warp takes the lowest free slot of its sub-core and loads its control state as a starting warp does (R206). -/
def State.reslot (s : State) (w : Warp) (sub : Nat) : State :=
  s.setWarp { w with st := .ready, sub := sub, slot := (s.freeSlots w.core sub).headD 0, since := s.plat.cc }

/-- Saved warps find their places one after the other. -/
def State.reslots (s : State) (ws : List Warp) : Option State :=
  ws.foldlM (fun (s : State) w => (s.resumeSub w).map (fun b => s.reslot w b)) s

/-- The saved warps of a context, as they stand on the cores they resume on. -/
def State.savedWarps (s : State) (p c : Nat) (m : List (Nat × Nat)) : List Warp :=
  (s.warps.filter (fun w => w.ofCtx p c && w.st == .saved)).map (fun w => { w with core := mapTo m w.core })

/-- The saved warps of a context find slots and quota, and its pages are free on every core (R52, R61, R380, R388). -/
def State.canResume (s : State) (p c : Nat) : Bool :=
  match s.coreMap p c with
  | none => false
  | some m => (s.reslots (s.savedWarps p c m)).isSome &&
      (s.ctx p c).slots.all (fun sl => sl.pages.all (fun g => (s.core (mapTo m sl.core)).freePages.contains g.1))

/-- The machine without the harvest warps and pages of some cores. -/
def State.bare (s : State) (cores : List Nat) : State :=
  let hv (u : Nat) : Bool := (s.launch? u).any (fun l => l.harvest)
  { s with warps := s.warps.filter (fun w => !(cores.contains w.core && w.harvest)),
           cores := s.cores.map (fun e => if cores.contains e.1 then
             (e.1, { e.2 with grants := e.2.grants.filter (fun g => !hv g.launch), ret := e.2.ret.filter (fun g => !hv g.launch) }) else e) }

/-- The cores that a saved context resumes on: those that take what it left, and the others of the place of its launches (R380). -/
def State.resumeCores (s : State) (p c : Nat) : List Nat :=
  match s.coreMap p c with
  | none => []
  | some m => (m.map (fun e => e.2) ++ ((s.launches.filter (fun l => l.part == p && l.ctx == c && l.st == .running)).flatMap
      (fun l => l.place.map (mapTo m)))).eraseDups

/-- The context has a harvest launch. -/
def State.harvestCtx (s : State) (p c : Nat) : Bool := s.launches.any (fun l => l.part == p && l.ctx == c && l.st == .running && l.harvest)

/-- A saved context keeps the bounds of R199 on a core that it resumes on: one owner context, three harvest contexts and their four pages. -/
def State.coreTakes (s : State) (p c : Nat) (m : List (Nat × Nat)) (core : Nat) : Bool :=
  (!s.ownerCtx p c || !s.otherOwner p c core) &&
    (!s.harvestCtx p c || (decide ((s.otherHarvest p c core).length ≤ 2) &&
      decide (((s.launches.filter (fun l => l.part == p && l.ctx == c && l.st == .running && l.harvest)).map (fun l =>
        ({ l with place := l.place.map (mapTo m) } : Launch).pagesOn core)).sum + s.harvestPages p c core ≤ 4)))

/-- The range-lock tables of the cores that a context resumes on have room for the locks that it saved (R178). -/
def State.lockRoom (s : State) (p c : Nat) (m : List (Nat × Nat)) (core : Nat) : Bool :=
  decide (((s.ops.filter (fun o => o.held && !o.posted && o.part == p && o.ctx == c && mapTo m o.core == core)).flatMap (fun o => o.locks)).length ≤
    s.freeLocks core)

/-- A saved context may resume (R199, R380, R388): no other owner holds its cores, the bounds on harvest contexts hold, its slots, quota, pages
and lock entries are free, its gang's slice has come, and its system acquire need not wait (R95). -/
def State.resumable (s : State) (p c : Nat) : Bool :=
  let k := s.ctx p c
  k.en && k.saved && !k.fail && !s.heldBack p c && !s.acqFull p k.asid && s.canResume p c &&
    (match s.coreMap p c with
     | some m => (s.resumeCores p c).all (fun x => s.coreTakes p c m x && s.lockRoom p c m x)
     | none => false)

/-- A saved owner context waits for what harvest contexts hold on a core: without them it would resume, with those of this core it does not
(R200). -/
def State.ownerBlocked (s : State) (core : Nat) : Bool :=
  let p := s.partOfCore core
  (List.range 64).any (fun c => (s.ctx p c).saved && s.ownerCtx p c &&
    (let cs := s.resumeCores p c
     cs.contains core && (s.bare cs).resumable p c && !(s.bare (cs.filter (fun x => x != core))).resumable p c))

/-- The window lines that a warp left in the register cache and the Kennel of a sub-core are written back and dropped (R65). -/
def spillLines (w : Warp) : SM Unit := do
  putWindow w true
  modify fun s => s.updWarps (fun x => x.wid == w.wid) (fun x => { x with lines := [], kennel := [] })

/-- How far the phases of a barrier id rise when its extents change: to the highest among them. -/
def barLift (old : List Bar) (bid ext : Nat) : Nat :=
  let bs := old.filter (fun b => b.bid == bid)
  (bs.map (fun b => b.phase)).foldl max 0 - (((bs.find? (fun b => b.ext == ext)).map (fun b => b.phase)).getD 0)

/-- A launch whose workgroups resume on other cores may span other extents of a level: the arrivals, excused warps and releases of each barrier id
go with their workgroups, and every extent stands in the highest phase that one of them had (R188, R334; log 53). -/
def State.rebar (s : State) (l : Launch) (f : Nat → Nat) (lvl : Nat) : State :=
  let l' : Launch := { l with place := l.place.map f }
  let wgs := List.range l.wgs
  if wgs.all (fun wg => barExtent lvl (l.coreOf wg) wg == barExtent lvl (l'.coreOf wg) wg) then s
  else
    let mine (b : Bar) : Bool := b.part == l.part && b.launch == l.uid && b.lvl == lvl
    let old := s.bars.filter mine
    let exts := (wgs.map (fun wg => barExtent lvl (l'.coreOf wg) wg)).eraseDups
    let moved (bid e : Nat) : Bar :=
      let bs := old.filter (fun b => b.bid == bid)
      let on := bs.filter (fun b => wgs.any (fun wg => l.inExtent lvl b.ext wg && l'.inExtent lvl e wg))
      let here (x : Nat) : Bool := l'.inExtent lvl e (x / 256)
      { part := l.part, launch := l.uid, lvl := lvl, ext := e, bid := bid, phase := (bs.map (fun b => b.phase)).foldl max 0,
        arr := bs.flatMap (fun b => b.arr.filter here), exc := bs.flatMap (fun b => b.exc.filter here),
        rels := on.flatMap (fun b => b.rels.map (fun r => (r.1 + barLift old bid b.ext, r.2))),
        seen := (on.map (fun b => b.seen)).foldl min l.kills.length }
    let new := ((old.map (fun b => b.bid)).eraseDups).flatMap (fun bid => exts.map (moved bid))
    { s with
      bars := new ++ s.bars.filter (fun b => !mine b)
      barq := s.barq.map (fun m => if m.part == l.part && m.launch == l.uid && m.lvl == lvl then
        { m with ext := barExtent lvl (l'.coreOf (m.who / 256)) (m.who / 256) } else m)
      warps := s.warps.map (fun w => if w.launch == l.uid && !w.posted then
        { w with bars := w.bars.map (fun x => if x.lvl == lvl then
            { x with phase := x.phase + barLift old x.bid (barExtent lvl (l.coreOf w.wgid) w.wgid) } else x) } else w) }

/-- The barriers of a context's launches at quad and reticle level follow its warps to other cores. -/
def State.rebars (s : State) (p c : Nat) (f : Nat → Nat) : State :=
  (s.launches.filter (fun l => l.part == p && l.ctx == c && l.st == .running)).foldl (fun s l => (s.rebar l f 2).rebar l f 3) s

/-- What a context holds under the numbers of cores it left moves to the cores it resumes on: the place of its workgroups, its warps, its
operations, its barriers, its counters in place of what it once counted there, and its slots of sharing groups, which are recorded by workgroup
(R127, R227, R334, R396). -/
def State.moveCtx (s : State) (p c : Nat) (m : List (Nat × Nat)) : State :=
  let f := mapTo m
  let mine (u : Nat) : Bool := (s.launch? u).any (fun l => l.part == p && l.ctx == c)
  let stale (x : Nat) : Bool := m.any (fun e => e.2 == x) && !m.any (fun e => e.1 == x)
  let s := s.rebars p c f
  { s with
    warps := s.warps.map (fun w => if w.ofCtx p c && w.st == .saved then { w with core := f w.core } else w)
    launches := s.launches.map (fun l => if l.part == p && l.ctx == c && l.st == .running then { l with place := l.place.map f } else l)
    ops := s.ops.map (fun o => if o.part == p && o.ctx == c then { o with core := f o.core } else o)
    stats := (s.stats.filter (fun e => !(e.1.1 == p && e.1.2.1 == c && stale e.1.2.2.1))).map (fun e => if e.1.1 == p && e.1.2.1 == c then ((p, c, f e.1.2.2.1, e.1.2.2.2), e.2) else e)
    groups := s.groups.map (fun g => if g.part == p && mine g.launch then
      { g with members := g.members.map (fun x => { x with core := f x.core }), leaving := g.leaving.map (fun x => { x with core := f x.core }),
               joiners := g.joiners.map (fun x => (f x.1, x.2)), rels := g.rels.map (fun r => (f r.1, r.2)),
               revs := g.revs.map (fun r => (f r.1, r.2)) } else g) }

/-- Slots, exchange regions and copies of the membership come back on the cores a context resumes on. -/
def loadSlots (p c : Nat) (m : List (Nat × Nat)) : SM Bool := do
  let s ← get
  (s.ctx p c).slots.foldlM (fun ok sl => do
    if ok then do
      let r ← loadSlot p c sl (mapTo m sl.core)
      if r && sl.xch.e ≠ 0 then
        modify fun s => s.updCore (mapTo m sl.core) (fun k => { k with xch := { sl.xch with copy := sl.xch.copy.map (fun e => (e.1, mapTo m e.2)) } })
      pure r
    else pure false) true

/-- A saved context resumes (R178, R389, R396): its slots are read, lines that its warps left on another sub-core are written back, its warps take
their places, every warp acquires at `.sys`, and a map event that came meanwhile is delivered first; an acknowledgement that the context owes is
due from now on (R389, R405, log 17). -/
def resumeCtx (p c : Nat) : SM Unit := do
  let s ← get
  match s.coreMap p c with
  | none => pure ()
  | some m =>
    if ← loadSlots p c m then do
      let s ← get
      let ws := s.savedWarps p c m
      let t := let t := s.moveCtx p c m; (t.reslots (ws.filterMap (fun w => t.warp? w.wid))).getD t
      (s.warps.filter (fun w => w.ofCtx p c && w.st == .saved)).forM (fun w =>
        if (t.warp? w.wid).any (fun x => x.core != w.core || x.sub != w.sub) then spillLines w else pure ())
      modify fun s => s.moveCtx p c m
      modify fun s => ((s.reslots (ws.filterMap (fun w => s.warp? w.wid))).getD s)
      let s ← get
      let asid := (s.ctx p c).asid
      (s.ctxCores p c).forM (fun n => acquireL1 n p asid false (fun _ => true))
      bumpEpoch p asid
      modify fun s => { s with ops := s.ops.map (fun o => if o.part == p && o.ctx == c then { o with held := false } else o) }
      modify fun s => s.updCtx p c (fun k => { k with saved := false })
      let s ← get
      if (s.ctx p c).missed then do
        set ((s.postCtx p c 4 0 0 0 (BitVec.ofNat 64 (s.part p).version)).updCtx p c (fun k => { k with owes := some s.plat.cc, missed := false }))
        postMapRec p c
      else set (s.updCtx p c (fun k => { k with owes := k.owes.map (fun _ => s.plat.cc) }))
    else modify fun s => s.updCtx p c (fun k => { k with saved := false })

end Sys2Proof.Machine
end

