-- ==== Sys2Proof/Machine/Disp.lean ====
section
/-!
DEFINITION. The dispatcher's own accesses (R370), completion signals, statistics areas and edges (R227, R376, R384), grid completion
(R182), and the release of a context (R393).
-/

namespace Sys2Proof.Machine

/-! ## Accesses of the dispatcher -/

/-- A line as the dispatcher reads it from DRAM through the gate of the line's anchor (R370): bytes and poison, or a walk status. -/
def dispLine (p : Nat) (asid : BitVec 12) (va : Nat) : SM (Except Nat (LineData × Bool)) := do
  if va / 2 ^ 56 ≠ 0 then pure (.error 5)
  else
    let s ← get
    match ← translate (bankRet (s.anchor { part := p, asid := asid, ln := va / 128 })) p asid va false with
    | .error w => pure (.error w)
    | .ok f => if f.perm.rd then do pure (.ok (← physRead p asid 0 f.pa)) else pure (.error 8)

/-- Lines from an address on. -/
def dispLines (p : Nat) (asid : BitVec 12) (va : Nat) : Nat → SM (Except Nat (List Byte × Bool))
  | 0 => pure (.ok ([], false))
  | n + 1 => do
    match ← dispLine p asid va with
    | .error w => pure (.error w)
    | .ok (d, poi) =>
      match ← dispLines p asid (va + 128) n with
      | .error w => pure (.error w)
      | .ok (r, q) => pure (.ok ((List.range 128).map (LineData.byte d) ++ r, poi || q))

/-- `n` bytes at any address, or none when a line does not read or is poisoned. -/
def dispBytes (p : Nat) (asid : BitVec 12) (va n : Nat) : SM (Option (List Byte)) := do
  match ← dispLines p asid (va / 128 * 128) ((va + n + 127) / 128 - va / 128) with
  | .ok (bs, false) => pure (some ((bs.drop (va % 128)).take n))
  | _ => pure none

/-- The core that a write of a partition's dispatcher counts for (R76, R78): the spec gives the dispatcher no place, the model takes the partition's
lowest live core (log 58). -/
def State.dispCore (s : State) (p : Nat) : Nat := ((s.liveCores p).head?).getD 0

/-- The device writes bytes of one line and the line reaches memory (a write at `.sys`); a write that the gate refuses is lost. -/
def devWriteLine (p : Nat) (asid : BitVec 12) (va : Nat) (bs : List Byte) : SM Unit := do
  if va / 2 ^ 56 ≠ 0 then pure ()
  else
    let k : LineKey := { part := p, asid := asid, ln := va / 128 }
    match ← probeStore ((← get).dispCore p) k .store false with
    | .error _ => pure ()
    | .ok (_, _, some _) => pure ()
    | .ok (_, _, none) => do
      let s ← get
      anchorWrite (s.dispCore p) k (spanMask (va % 128) bs.length) (BitVec.ofNat 1024 (leNat bs) <<< (8 * (va % 128))) true false
      cleanLine k

/-- The device writes bytes line by line, at most `n` lines. -/
def devWrite (p : Nat) (asid : BitVec 12) : Nat → Nat → List Byte → SM Unit
  | 0, _, _ => pure ()
  | n + 1, va, bs => do
    let k := 128 - va % 128
    devWriteLine p asid va (bs.take k)
    if bs.length > k then devWrite p asid n (va + k) (bs.drop k)

/-- The completion signal (R376). -/
def signal (l : Launch) (code status : Nat) : SM Unit :=
  let c := l.fld 80 8
  if c = 0 then pure ()
  else devWrite l.part l.asid 2 c (toBytes (l.lid.toNat % 2 ^ 48 * 65536 + code * 256 + status) 8)

/-- A counter of a context on a core of a launch. -/
def Launch.counts (l : Launch) (k : Nat × Nat × Nat × Nat) : Bool := k.1 == l.part && k.2.1 == l.ctx && l.place.contains k.2.2.1

/-- The statistics area of a launch (R227): the sums of its context's counters over the cores of the launch. -/
def statArea (s : State) (l : Launch) : List Byte :=
  (List.range 256).flatMap (fun t =>
    let es := (s.stats.filter (fun e => l.counts e.1 && e.1.2.2.2 == t)).map (fun e => e.2)
    let sum (f : Nat × Nat × Nat → Nat) := min (2 ^ 64 - 1) (es.foldl (fun a e => a + f e) 0)
    toBytes (sum (fun e => e.1)) 8 ++ toBytes (sum (fun e => e.2.1)) 8 ++ toBytes (sum (fun e => e.2.2)) 8)

/-! ## Edges (R384) -/

/-- A launch that waits for predecessors or resources, by its launch id. -/
def State.pending? (s : State) (p : Nat) (lid : Word) : Option Launch :=
  s.launches.find? (fun l => l.part == p && l.lid == lid && l.st != .running)

/-- Cancels the launches of a partition named by launch ids, and their successors in turn: STATUS 4, CODE 0x0F.  The cancellation of a launch
not yet received is held for its arrival. -/
def cancelAll (p : Nat) : Nat → List Word → SM Unit
  | 0, _ => pure ()
  | n + 1, lids => lids.forM (fun lid => do
    let s ← get
    match s.pending? p lid with
    | none =>
      if s.launches.any (fun x => x.part == p && x.lid == lid) then pure ()
      else modify fun s => s.updPart p (fun q => { q with heldCan := q.heldCan ++ [lid] })
    | some l => do
      set { s with launches := s.launches.filter (fun x => x.uid != l.uid) }
      signal l 0x0F 4
      cancelAll p n l.edges)

/-- Cancels the successors of a launch. -/
def cancelEdges (l : Launch) : SM Unit := do
  let s ← get
  cancelAll l.part (s.launches.length + 1) l.edges

/-- Decrements the DEPC of each successor; a launch not yet received has its decrement held. -/
def decEdges (l : Launch) : SM Unit :=
  l.edges.forM (fun lid => modify fun s =>
    match s.launches.find? (fun x => x.part == l.part && x.lid == lid) with
    | some x => s.updLaunch x.uid (fun x => { x with depc := x.depc - 1 })
    | none => s.updPart l.part (fun q => { q with heldDec := q.heldDec ++ [lid] }))

/-! ## Grid completion (R182) -/

/-- The lines of a carry list (R181); an empty list names every line, and so does one whose entries all have LEN = 0: the model's choice
(log 55). -/
def regionLines (rs : List (Nat × Nat)) (ln : Nat) : Bool :=
  let rs := rs.filter (fun r => r.2 != 0)
  rs == [] || rs.any (fun r => decide (r.1 / 128 ≤ ln) && decide (ln ≤ (r.1 + r.2 - 1) / 128))

/-- Nothing of a launch is left to run (R182, R190, R193). -/
def State.gridDone (s : State) (l : Launch) : Bool :=
  l.st == .running && l.started && (l.failed || l.fed == l.wgs * l.warps) && !s.warps.any (fun w => w.launch == l.uid) && !s.ready.any (fun r => r.launch == l.uid) &&
    (l.outst == [] || l.failed) && !s.ops.any (fun o => o.launch == l.uid && (!o.posted || o.jrec != 0))

/-- Frees what a launch holds: pages, exchange regions, barrier instances and, with its entry, its excuse bits (R382, R403). -/
def State.freeLaunch (s : State) (l : Launch) : State :=
  let s := { s with launches := s.launches.filter (fun x => x.uid != l.uid) }
  let cores := s.cores.map (fun (n, c) => (n,
    { c with grants := c.grants.filter (fun g => g.launch != l.uid),
             xch := if c.xch.e != 0 && c.xch.launch == l.uid then Exch.none else c.xch }))
  { s with cores := cores, bars := s.bars.filter (fun b => b.launch != l.uid), barq := s.barq.filter (fun b => b.launch != l.uid),
           groups := s.groups.filter (fun g => !(g.part == l.part && g.launch == l.uid)) }

/-- A launch completes (R182): statistics, the carry-out release, the signal, its edges.  An orphan write-back of the release itself fails the
context (R184), and the launch then completes with STATUS 2.  The signal waits until the stacks have taken what the release writes (R94). -/
def completeLaunch (l : Launch) : SM Unit := do
  let s ← get
  let st := l.fld 64 8
  if st ≠ 0 then devWrite l.part l.asid 49 st (statArea s l)
  let s ← get
  let cond := regionLines l.cout
  s.cores.forM (fun (n, _) => releaseAct n l.part l.asid false cond)
  sysClean l.part l.asid cond
  if ← mcFlush l.part l.asid then do
    let s ← get
    let failed := l.failed || (s.launch? l.uid).any (fun x => x.failed)
    signal l 0 (if failed then 2 else 1)
    modify fun s => s.freeLaunch l
    if failed then cancelEdges l else decEdges l

/-- A pending launch is cancelled (R393). -/
def cancelLaunch (l : Launch) (code : Nat) : SM Unit := do
  modify fun s => { s with launches := s.launches.filter (fun x => x.uid != l.uid) }
  signal l code 4
  cancelEdges l

/-! ## Release of a context (R393) -/

/-- A killed warp drains (R206, R401): its image is written back while its context stands, unchecked at the release of the context (R46, R184), then
its lines, image and slot are free. -/
def drainKilled (w : Warp) (checked : Bool) : SM Unit := do
  let s ← get
  if (s.ctx w.part w.ctx).en then imgWriteBack w checked
  modify fun s =>
    let s : State := s.updLaunch w.launch (fun l => { l with imgs := l.imgs.erase w.imgIx })
    let s : State := if w.posted then s else s.lastLeaves w
    (s.dropWarp w.wid).gcOps

/-- Ends what warps of a condition still hold: they drain (R206). -/
def drainAll (f : Warp → Bool) (checked : Bool) : SM Unit := do
  let s ← get
  (s.warps.filter (fun w => f w && w.st == .killed)).forM (fun w => drainKilled w checked)

/-- REL: the context is failed without a record, its pending launches cancelled, its warps drain with their images written back (R46), and
every line of its ASID removed.  Home hints stay (R74). -/
def releaseCtx (p c : Nat) : SM Unit := do
  let s ← get
  let asid := (s.ctx p c).asid
  modify fun s => s.failCtx p c
  let s ← get
  (s.launches.filter (fun l => l.part == p && l.ctx == c && l.st != .running)).forM (fun l => cancelLaunch l 0x04)
  drainAll (fun w => w.ofCtx p c) false
  flushL1s p (fun k => k.asid == asid)
  removeLines p (fun k => k.asid == asid) false
  dropCode (fun k => k.part == p && k.asid == asid)
  modify fun s => s.updPart p (fun q => { q with maps := q.maps.filter (fun e => e.1 != asid) })
  modify fun s => s.updCtx p c (fun k => { k with en := false, susp := false, mapSusp := false, saved := false, owes := none, slots := [], missed := false })

end Sys2Proof.Machine
end

