-- ==== Sys2Proof/Machine/RegMem.lean ====
section
/-!
DEFINITION. The registers of the memory system: interleave (R27, R28, R411), migration and replacement classes (R80, R88, R89), shares
(R134, R135), key domains (R142, R143), scrub and error logs (R145-R147), data rates (R149).
-/

namespace Sys2Proof.Machine

/-- The partition is quiesced (R408). -/
def State.quiesced (s : State) (p : Nat) : Bool := (s.part p).qst == .quiesced
/-- A stack belongs to a partition. -/
def State.ownsStack (s : State) (p k : Nat) : Bool := decide (k < 48) && s.partOfStack k == p

/-- Every line of the partition leaves the L1s and the wafer-wide
cache, its dirty bytes going to the recorded frames unchecked, the waiting commands of its stacks are performed, and its cores' home hints are emptied
(R74, R410 step 1, R411). -/
def emptyCaches (p : Nat) : SM Unit := do
  drainInvs (fun k => k.part == p)
  flushL1s p (fun _ => true)
  removeLines p (fun _ => true) false
  mcDrain p
  dropHints (fun k => k.part == p)

/-! ## Interleave (R27, R28) -/

/-- IVL_CTL. -/
def Part.ivlCtl (q : Part) : Word32 := BitVec.ofBool q.ivlBad ++ 0#16 ++ BitVec.ofNat 7 q.split ++ 0#2 ++ BitVec.ofNat 6 q.count
/-- IVL_LISTn in force. -/
def Part.ivlList (q : Part) (n : Nat) : Word :=
  BitVec.ofNat 64 (leNat ((List.range 8).map (fun j => BitVec.ofNat 8 (q.ivl.getD (8 * n + j) 0))))

/-- A write to IVL_LISTn is staged. -/
def stageList (p n : Nat) (v : Word) : SM Unit :=
  modify fun s => s.updPart p (fun q =>
    { q with staged := (List.range 48).map (fun i =>
        if i / 8 = n then (v.extractLsb' (8 * (i % 8)) 6).toNat else q.staged.getD i 0) })

/-- A commit of the staged lists with COUNT and SPLIT may not be taken (R28). -/
def State.ivlRefused (s : State) (p : Nat) (v : Word32) : Bool :=
  let count := (v.extractLsb' 0 6).toNat
  let l := (List.range count).map (fun i => (s.part p).staged.getD i 0)
  decide (count > 48) || decide ((v.extractLsb' 8 7).toNat > 64) || l.any (fun k => !s.ownsStack p k || (s.stack k).cur == 3) ||
    decide (l.eraseDups.length ≠ l.length) || !s.quiesced p

/-- A write to IVL_CTL commits, or is refused with BAD (R28, R411). -/
def ivlCommit (p : Nat) (v : Word32) : SM Unit := do
  let s ← get
  if s.ivlRefused p v then modify fun s => s.updPart p (fun q => { q with ivlBad := true })
  else do
    emptyCaches p
    modify fun s => s.updPart p (fun q =>
      { q with ivlBad := false, count := (v.extractLsb' 0 6).toNat, split := (v.extractLsb' 8 7).toNat,
               ivl := (List.range 48).map (fun i => q.staged.getD i 0) })

/-! ## Migration and replacement classes (R80, R88, R89) -/

/-- A write to WCC_MIG. -/
def migWrite (p : Nat) (v : Word32) : SM Unit := modify fun s => s.updPart p (fun q => { q with mig := v &&& 0x800000FF })

/-- A write to WCC_RCTn: ignored when it sets WPOL to 3 (R89). -/
def rctWrite (p n : Nat) (v : Word32) : SM Unit :=
  if v.extractLsb' 22 2 = 3#2 then pure ()
  else modify fun s => s.updPart p (fun q => { q with rct := q.rct.setIfInBounds n (v &&& 0x07C3FFFF) })

/-! ## Shares (R134, R135) -/

/-- MC_SHCTL. -/
def Part.shctl (q : Part) : Word32 := BitVec.ofBool q.shBad ++ 0#22 ++ BitVec.ofNat 9 q.mincap

/-- The sum of MIN over the enabled entries of a share table. -/
def minSum (t : Vector Word32 64) : Nat := ((t.toList.filter (fun v => v.getLsbD 31)).map (fun v => (v.extractLsb' 0 9).toNat)).sum

/-- A write to MC_SHAREn may not be taken (R135). -/
def Part.shareRefused (q : Part) (n : Nat) (v : Word32) : Bool :=
  let mn := (v.extractLsb' 0 9).toNat
  let mx := (v.extractLsb' 9 9).toNat
  decide (mn > mx) || decide (mx > 256) || decide ((v.extractLsb' 19 9).toNat > 256) || (v.getLsbD 31 && decide (mx = 0)) ||
    decide (minSum (q.share.setIfInBounds n v) > q.mincap)

/-- A write to MC_SHAREn: in force from the start of the second window that begins after it (R135). -/
def shareWrite (p n : Nat) (v : Word32) : SM Unit :=
  let v := v &&& 0x8FFBFFFF
  modify fun s => s.updPart p (fun q =>
    if q.shareRefused n v then { q with shBad := true }
    else { q with shBad := false, share := q.share.setIfInBounds n v,
                  shWait := q.shWait ++ [(n, (s.plat.cc / 1400 + 2) * 1400, v)] })

/-- A write to MC_SHCTL (R135). -/
def shctlWrite (p : Nat) (v : Word32) : SM Unit :=
  let m := (v.extractLsb' 0 9).toNat
  modify fun s => s.updPart p (fun q =>
    if m > 240 ∨ m < minSum q.share then { q with shBad := true } else { q with shBad := false, mincap := m })

/-! ## Key domains (R142, R143) -/

/-- KD_CTLn. -/
def Part.kdCtl (q : Part) (n : Nat) : Word32 := 0#1 ++ BitVec.ofBool (q.ebad.contains n) ++ 0#14 ++ (q.kver[n]?).getD 0

/-- A crypto-erase request: taken only while the partition is quiesced and no stack of it runs a scrub pass (R143). -/
def eraseKey (p n : Nat) : SM Unit :=
  modify fun s =>
    if s.quiesced p && (List.range 48).all (fun k => !(s.ownsStack p k && (s.stack k).act)) then
      let s := s.updPart p (fun q =>
        { q with keys := q.keys.setIfInBounds n s.fresh, kver := q.kver.setIfInBounds n ((q.kver[n]?).getD 0 + 1),
                 ebad := q.ebad.filter (fun x => x != n) })
      { s with fresh := s.fresh + 1 }
    else s.updPart p (fun q => { q with ebad := n :: q.ebad.filter (fun x => x != n) })

/-- A write to KD_CTLn. -/
def kdWrite (p n : Nat) (v : Word32) : SM Unit := if v.getLsbD 31 then eraseKey p n else pure ()

/-! ## Scrub and error log (R145-R147) -/

/-- SCRUB_CTL. -/
def Stack.scrubCtl (k : Stack) : Word32 :=
  BitVec.ofBool k.en ++ BitVec.ofBool k.act ++ 0#6 ++ BitVec.ofNat 8 k.hours ++ BitVec.ofNat 16 k.pass
/-- SCRUB_LOGP. -/
def Stack.scrubLogp (k : Stack) : Word32 := BitVec.ofNat 16 k.lost ++ BitVec.ofNat 8 k.rd ++ BitVec.ofNat 8 k.wr

/-- A write to SCRUB_CTL: EN = 0 stops the pass, EN = 1 resumes an unfinished one (R145). -/
def scrubWrite (stk : Nat) (v : Word32) : SM Unit :=
  modify fun s => s.updStack stk (fun k =>
    { k with en := v.getLsbD 31, act := v.getLsbD 31 && (k.act || (!k.en && k.begun)), hours := (v.extractLsb' 16 8).toNat })

/-- A write to SCRUB_LOGP. -/
def logpWrite (stk : Nat) (v : Word32) : SM Unit :=
  modify fun s => s.updStack stk (fun k =>
    { k with lost := (BitVec.ofNat 16 k.lost &&& ~~~(v.extractLsb' 16 16)).toNat, rd := (v.extractLsb' 8 8).toNat })

/-! ## Data rates (R149) -/

/-- MC_RATE. -/
def Stack.rateReg (k : Stack) : Word32 :=
  BitVec.ofBool k.busy ++ BitVec.ofBool k.auto ++ 0#12 ++ BitVec.ofNat 2 k.cur ++ 0#14 ++ BitVec.ofNat 2 k.req

/-- A request for a rate code: it starts a change when the code differs from CUR (R149, R150). -/
def Stack.request (k : Stack) (c : Nat) : Stack :=
  if k.busy || c == 3 then k
  else if c = k.cur then { k with req := c }
  else { k with req := c, busy := true, phase := .pending, target := c }

/-- A write to MC_RATE. -/
def rateWrite (stk : Nat) (v : Word32) : SM Unit :=
  modify fun s => s.updStack stk (fun k => { k.request (v.extractLsb' 0 2).toNat with auto := v.getLsbD 30 })

end Sys2Proof.Machine
end

