-- ==== Sys2Proof/Machine/CtxReg.lean ====
section
/-!
DEFINITION. The context registers (R391-R395, R405) and the slice registers (R387).
-/

namespace Sys2Proof.Machine

/-- A refused write to a register of a context: BAD (R393). -/
def ctxRefuse (p c : Nat) : SM Unit := modify fun s => s.updCtx p c (fun k => { k with bad := true })
/-- An accepted write to a register of a context. -/
def ctxAccept (p c : Nat) (f : Ctx → Ctx) : SM Unit := modify fun s => s.updCtx p c (fun k => { f k with bad := false })

/-- CTX_CTLn. -/
def Ctx.ctl (k : Ctx) : Word :=
  BitVec.ofBool k.en ++ BitVec.ofBool k.fail ++ BitVec.ofBool k.susp ++ 0#3 ++ BitVec.ofBool k.bad ++ 0#13 ++ k.asid ++ 0#32
/-- CTX_FQPn. -/
def Ctx.fqp (k : Ctx) : Word := BitVec.ofNat 16 k.lost ++ 0#16 ++ BitVec.ofNat 16 k.head ++ BitVec.ofNat 16 k.tail

/-- EN and ASID of a write with no action bit (R393).  The context that becomes resident is a new one: it held no page last (R114). -/
def ctxEnAsid (p c : Nat) (en : Bool) (asid : BitVec 12) : SM Unit := do
  let s ← get
  let k := s.ctx p c
  if k.en then
    if asid ≠ k.asid ∨ (!en ∧ s.launches.any (fun l => l.part == p && l.ctx == c)) then ctxRefuse p c
    else ctxAccept p c (fun k => { k with en := en })
  else if en then do
    modify fun s => { s with cores := s.cores.map (fun e => (e.1, { e.2 with last := e.2.last.filter (fun g => !(g.part == p && g.ctx == c)) })) }
    ctxAccept p c (fun k => { k with en := true, asid := asid, fail := false, susp := false, mapSusp := false, seq := 1,
                                     ackv := (s.part p).version, owes := none, posting := none, saved := false, slots := [],
                                     missed := false })
  else ctxAccept p c (fun k => { k with asid := asid })

/-- REL (R393). -/
def ctxRel (p c : Nat) : SM Unit := do
  releaseCtx p c
  ctxAccept p c id
/-- SUSPR (R393). -/
def ctxSuspr (p c : Nat) : SM Unit := do
  suspendWarps p c
  ctxAccept p c id
/-- RESM (R393). -/
def ctxResm (p c : Nat) : SM Unit := do
  resumeWarps p c
  ctxAccept p c id

/-- A write to CTX_CTLn (R393). -/
def ctlWrite (p c : Nat) (v : Word) : SM Unit :=
  match v.getLsbD 58, v.getLsbD 60, v.getLsbD 59 with
  | true, _, _ => ctxRel p c
  | false, true, true => ctxRefuse p c
  | false, true, false => ctxSuspr p c
  | false, false, true => ctxResm p c
  | false, false, false => ctxEnAsid p c (v.getLsbD 63) (v.extractLsb' 32 12)

/-- A write to CTX_FQBn (R391). -/
def fqbWrite (p c : Nat) (v : Word) : SM Unit := do
  let s ← get
  if (s.ctx p c).en ∨ (v.extractLsb' 0 4).toNat > 12 then ctxRefuse p c
  else ctxAccept p c (fun k => { k with fqb := v &&& 0x0003FFFFFFFFFFCF })

/-- A write to CTX_FQPn (R391). -/
def fqpWrite (p c : Nat) (v : Word) : SM Unit :=
  ctxAccept p c (fun k => { k with lost := (BitVec.ofNat 16 k.lost &&& ~~~(v.extractLsb' 48 16)).toNat, head := (v.extractLsb' 16 16).toNat })

/-- A write to CTX_SAVEn (R395). -/
def saveWrite (p c : Nat) (v : Word) : SM Unit := do
  let s ← get
  if (s.ctx p c).en then ctxRefuse p c else ctxAccept p c (fun k => { k with save := v &&& 0x00FFFFFFFFF00000 })

/-- A write to CTX_MAPRECn (R405). -/
def maprecWrite (p c : Nat) (v : Word) : SM Unit :=
  if v.extractLsb' 0 5 ≠ 0#5 then ctxRefuse p c else ctxAccept p c (fun k => { k with maprec := v })

/-! ## Resume words (R392) -/

/-- The parked warp of a context whose standing record has a SEQ; a warp that is saved or suspended has none to be ended (R396). -/
def State.parkedWarp (s : State) (p c : Nat) (seq : Word32) : Option Warp :=
  if seq = 0 then none else s.warps.find? (fun w => w.ofCtx p c && w.st == .parkedFault && w.fseq == seq)

/-- A parked warp goes on: its image is read again, and it continues after the slot when the record carries NEXT or the word skips. -/
def endPark (w : Warp) (skip : Bool) : SM Unit := do
  let s ← get
  if (s.ctx w.part w.ctx).waiting.any (fun r => r.seq == w.fseq) then imgWriteBack w true
  resumeWarp w .running
  modify fun s => s.updWarps (fun x => x.wid == w.wid && x.st == .running) (fun x =>
    { x with pc := if skip || w.fnext then nextSlot x.pc else x.pc, mid := if skip || w.fnext then 0 else x.mid,
             fseq := 0, fnext := false })

/-- A resume word: 1 resume, 2 skip, 3 kill (R392). -/
def resumeWord (p c act : Nat) (seq : Word32) : SM Unit := do
  let s ← get
  match s.parkedWarp p c seq with
  | none => ctxRefuse p c
  | some w => do
    if act = 1 then endPark w false
    else if act = 2 then endPark w true
    else if act = 3 then modify fun s => s.kill w { cause := w.fcause } false true
    ctxAccept p c id

/-- A write to CTX_RESUMEn. -/
def resumeWrite (p c : Nat) (v : Word) : SM Unit :=
  if v.extractLsb' 32 30 ≠ 0#30 then ctxRefuse p c else resumeWord p c (v.extractLsb' 62 2).toNat (v.extractLsb' 0 32)

/-! ## Slice registers (R387) -/

/-- SYNC: the offset stayed within 50 ns over the last 16 sync intervals (R450). -/
def Plat.sync (k : Plat) : Bool := decide (k.offs.length ≥ 16) && (k.offs.take 16).all (fun o => decide (o.natAbs ≤ 50))

/-- SLC_CTL: the accepted value with SYNC and BAD. -/
def State.slcCtl (s : State) (p : Nat) : Word32 :=
  let q := s.part p
  (q.slcW &&& 0x8007FFFF) ||| (BitVec.ofBool false ++ BitVec.ofBool s.plat.sync ++ BitVec.ofBool q.slcBad ++ 0#29)

/-- A gang mask may not be taken: it names a context with a latency-critical launch, or one that stands in another gang. -/
def State.gangRefused (s : State) (p n : Nat) (v : Word) : Bool :=
  s.launches.any (fun l => l.part == p && l.cls == 0 && v.getLsbD l.ctx) ||
    (List.range 8).any (fun i => i != n && (((s.part p).gangW[i]?).getD 0) &&& v != 0)

/-- Values that wait while slicing is off come into force at the first of their boundaries that does not lie before the write (R387). -/
def State.slcAim (s : State) (p : Nat) (f : Part → Part) : State :=
  s.updPart p (fun q =>
    let q := f q
    { q with slice := if q.slc.getLsbD 31 then q.slice else firstBoundary q.slcW q.epochW s.timeNs })

/-- A write to the slice register of number 0x0800 + `n`: in force from the next boundary, or refused with BAD. -/
def slcSet (p n : Nat) (v : Word) : SM Unit :=
  modify fun s =>
    if n = 0 then
      if (v.extractLsb' 0 16).toNat < 100 then s.updPart p (fun q => { q with slcBad := true })
      else s.slcAim p (fun q => { q with slcBad := false, slcW := v.truncate 32 &&& 0x8007FFFF })
    else if n = 1 then s.slcAim p (fun q => { q with slcBad := false, epochW := v })
    else if n < 8 then s
    else if s.gangRefused p (n - 8) v then s.updPart p (fun q => { q with slcBad := true })
    else s.updPart p (fun q => { q with slcBad := false, gangW := q.gangW.setIfInBounds (n - 8) v })

end Sys2Proof.Machine
end

