-- ==== Sys2Proof/Machine/Admit.lean ====
section
/-!
DEFINITION. Admission of launches (R375-R384): the record and descriptor checks, resources, refusals, and the start of a launch with its
revocations and pre-emptions.
-/

namespace Sys2Proof.Machine

/-! ## Checks of the record and what it names -/

/-- Largest DL of a latency class (R377); 0 for none. -/
def latBound (lat : Nat) : Nat :=
  match lat with
  | 0 => 20 | 1 => 100 | 2 => 1000 | _ => 0

/-- The start bound D in us (R378). -/
def Launch.bound (l : Launch) : Nat := if l.fld 28 4 = 0 then latBound l.lat else l.fld 28 4

/-- RPAGE. -/
def Launch.rpage (l : Launch) : Nat := l.fld 45 1
/-- PADP. -/
def Launch.padp (l : Launch) : Nat := l.kd 38 2

/-- Code 0x01: a field of the record outside R375 or R377.  The first image is aligned to 8 KiB (R44, log 13). -/
def Launch.recordBad (l : Launch) : Bool :=
  let g (o : Nat) : Bool := decide (1 ≤ l.fld o 4) && decide (l.fld o 4 ≤ 65535)
  let sh := l.shareIx
  !(g 8 && g 12 && g 16 && decide (l.wgs ≤ 2 ^ 32 - 1) && decide (l.fld 20 2 < 1296) && decide (1 ≤ l.fld 22 1) &&
    decide (l.fld 22 1 ≤ 36) && decide (1 ≤ l.fld 23 1) && decide (l.fld 23 1 ≤ 36) && l.flag 6 2 == 0 && l.flag 12 4 == 0 &&
    l.flag 30 2 == 0 && (decide (sh < 64) || sh == 255) && decide (l.fld 28 4 ≤ latBound l.lat) && l.fld 32 8 % 8192 == 0 &&
    decide (1 ≤ l.fld 40 4) && decide (l.fld 40 4 ≤ 2 ^ 24) && decide (l.rslot ≤ 8) && decide (l.rpage ≤ 128) &&
    l.fld 88 8 != 0 && l.fld 96 32 == 0 && (!l.harvest || (l.lat == 3 && l.rslot == 0 && l.rpage == 0)))

/-- Code 0x02: a descriptor that fails R195-R197. -/
def Launch.kdescBad (l : Launch) : Bool :=
  let slotOK (o : Nat) : Bool := decide (l.kd o 8 % 8 < 5)
  !(l.hdr 24 8 == 0 && l.hdr 4 4 == 0 && l.hdr 2 2 != 3 && decide (l.hdr 8 8 ≤ l.kd 6 2) && decide (32 ≤ l.quota) &&
    decide (l.quota ≤ 1280) && decide (1 ≤ l.kd 6 2) && decide (l.kd 6 2 ≤ 512) && decide (l.kd 16 2 ≤ 511) && decide (l.kd 18 2 ≤ 511) &&
    decide (l.kd 20 2 ≤ 511) && decide (l.kd 6 2 ≤ l.wres) && slotOK 8 && slotOK 24 && l.kd 32 4 % 2 == 0 &&
    decide (l.kd 32 4 < 2 ^ 23) && decide (1 ≤ l.warps) && decide (l.warps ≤ 96) && decide (l.padp ≤ 128) && l.kd 40 24 == 0 &&
    decide (l.xsz ≤ l.padp * 8192))

/-- A carry list (R180): its regions, or none when it fails.  One whose line is poisoned fails, the model's choice (log 55).  An entry with LEN = 0, which the rule has ignored, is still refused when its BASE
lies beyond 2^56: the model's choice (log 55). -/
def carryList (p : Nat) (asid : BitVec 12) (va : Nat) : SM (Option (List (Nat × Nat))) := do
  if va = 0 then pure (some [])
  else
    match ← dispBytes p asid va 8 with
    | none => pure none
    | some h =>
      let n := leNat (h.take 1)
      if n > 16 || leNat (h.drop 1) ≠ 0 then pure none
      else
        match ← dispBytes p asid (va + 8) (16 * n) with
        | none => pure none
        | some bs =>
          let rs := (List.range n).map (fun i => (leNat ((bs.drop (16 * i)).take 8), leNat ((bs.drop (16 * i + 8)).take 8)))
          pure (if rs.all (fun r => decide (r.1 + r.2 ≤ 2 ^ 56)) then some rs else none)

/-- An edge list (R384): its launch ids, or none when it fails. -/
def edgeList (p : Nat) (asid : BitVec 12) (va : Nat) : SM (Option (List Word)) := do
  if va = 0 then pure (some [])
  else
    match ← dispBytes p asid va 8 with
    | none => pure none
    | some h =>
      let n := leNat (h.take 1)
      if n > 16 || leNat (h.drop 1) ≠ 0 then pure none
      else
        match ← dispBytes p asid (va + 8) (8 * n) with
        | none => pure none
        | some bs => pure (some ((List.range n).map (fun i => BitVec.ofNat 64 (leNat ((bs.drop (8 * i)).take 8)))))

/-- The cores of the rectangle of a launch, or none when it leaves the partition (R381). -/
def State.rectangle (s : State) (l : Launch) : Option (List Nat) :=
  let x := coreX (l.fld 20 2)
  let y := coreY (l.fld 20 2)
  let cs := (List.range (l.fld 23 1)).flatMap (fun j => (List.range (l.fld 22 1)).map (fun i => (x + i, y + j)))
  if cs.all (fun c => decide (c.1 < 36) && decide (c.2 < 36) && s.partOfCore (coreAt c.1 c.2) == l.part) then
    some (cs.map (fun c => coreAt c.1 c.2))
  else none

/-- The placement set of a launch (R381): the live cores of its rectangle in row-major order, no more of them than workgroups. -/
def State.placement (s : State) (l : Launch) : List Nat := (((s.rectangle l).getD []).filter s.coreLive).take l.wgs

/-- A launch with its placement as the live cores stand. -/
def Launch.replaced (l : Launch) (s : State) : Launch := { l with place := s.placement l }

/-! ## Resources (R382) -/

/-- A launch may pre-empt a context (R379): it is of latency class 0 or 1 and the context holds no latency-critical launch on the
placement. -/
def State.mayPreempt (s : State) (l : Launch) (hs : List Launch) (c : Nat) : Bool :=
  decide (l.lat ≤ 1) && !hs.any (fun h => h.ctx == c && !h.harvest && decide (h.lat ≤ 1) && l.place.any (s.usesCore h))

/-- Owner launches of other contexts that use a core of the placement, be it with a posted warp alone. -/
def State.foreign (s : State) (l : Launch) (hs : List Launch) : List Launch :=
  hs.filter (fun h => !h.harvest && h.ctx != l.ctx && l.place.any (s.usesCore h))

/-- Launches of the same context and role. -/
def kin (l : Launch) (hs : List Launch) : List Launch := hs.filter (fun h => h.harvest == l.harvest && h.ctx == l.ctx)

/-- Some sub-core of the placement lacks slots (code 0x08). -/
def State.slotsBad (s : State) (l : Launch) (hs : List Launch) : Bool :=
  !l.harvest && l.place.any (fun c => (List.range 12).any (fun b =>
    decide (8 < l.slotsOn c b + ((kin l hs).map (fun h => s.slotsHeld h c b)).sum)))

/-- Some sub-core's quotas would break R52 or R61 (code 0x09). -/
def State.quotaBad (s : State) (l : Launch) (hs : List Launch) : Bool :=
  l.place.any (fun c => (List.range 12).any (fun b =>
    if l.harvest then
      decide (512 < l.onSub c b * (l.quota + 8) + ((hs.filter (fun h => h.harvest)).map (fun h => s.quotaHeld h 8 c b)).sum)
    else decide (1280 < l.onSub c b * l.quota + ((kin l hs).map (fun h => s.quotaHeld h 0 c b)).sum)))

/-- The pages of the exchange region of a launch (R117). -/
def Launch.topPages (l : Launch) : List Nat := (List.range (l.xsz / 8192)).map (fun i => 127 - i)

/-- Pages or harvest places cannot be found on some core (code 0x0A, R117, R199). -/
def State.padBad (s : State) (l : Launch) (hs : List Launch) : Bool :=
  l.place.any (fun c =>
    let on := hs.filter (fun h => h.place.contains c)
    if l.harvest then
      decide (4 < l.pagesOn c + ((on.filter (fun h => h.harvest)).map (fun h => h.pagesOn c)).sum) ||
        decide (3 ≤ (s.otherHarvest l.part l.ctx c).length) ||
        decide (128 < l.pagesOn c + ((on.filter (fun h => !h.harvest)).map (fun h => h.pagesOn c)).sum)
    else
      decide (128 < l.pagesOn c + ((kin l on).map (fun h => h.pagesOn c)).sum) ||
        (l.xsz != 0 && (kin l on).any (fun h => h.xsz != 0)) ||
        (s.core c).grants.any (fun g => l.topPages.contains g.page && (kin l on).any (fun h => h.uid == g.launch)))

/-- Barrier ids are held by another launch (code 0x0B, R382), one of a saved context among them. -/
def barBad (l : Launch) (hs : List Launch) : Bool :=
  hs.any (fun h =>
    let both (i : Nat) : Bool := l.blv.getLsbD i && h.blv.getLsbD i
    (both 0 && h.place.any (fun a => l.place.any (fun b => coreQuad a == coreQuad b))) ||
      (both 1 && h.place.any (fun a => l.place.any (fun b => coreRet a == coreRet b))) || both 2 || both 3)

/-- The first resource code that applies to a launch; 0 when it fits. -/
def State.fitCode (s : State) (l : Launch) : Nat :=
  let hs := s.holders l.part
  if !l.harvest && (s.foreign l hs).any (fun h => !s.mayPreempt l hs h.ctx) then 0x07
  else if s.slotsBad l hs then 0x08
  else if s.quotaBad l hs then 0x09
  else if s.padBad l hs then 0x0A
  else if barBad l (s.launches.filter (fun h => h.part == l.part && h.st == .running)) then 0x0B
  else 0

/-- The machine with nothing placed: what a launch must fit if it is to wait (R380, code 0x11). -/
def State.emptied (s : State) : State :=
  { s with launches := [], warps := [], cores := s.cores.map (fun e => (e.1, { e.2 with grants := [] })) }

/-- R117 is broken (code 0x0A). -/
def Launch.xszBad (l : Launch) : Bool :=
  let x := l.hdr 16 8
  !(x == 0 || (x % 2 == 0 && decide (x ≤ 32))) || (l.harvest && x != 0)
/-- Code 0x0C. -/
def Launch.progBad (l : Launch) : Bool := l.prog == 3 || (l.harvest && l.prog != 0)

/-- A page is granted to a harvest launch. -/
def State.harvestGrant (s : State) (g : Grant) : Bool := (s.launch? g.launch).any (fun l => l.harvest)

/-- Harvest contexts hold slots, quota or pages which the launch needs on a core (R200, R379): not enough is free beside what other owner launches
of its context hold and reserve. -/
def State.needsRevoke (s : State) (l : Launch) (core : Nat) : Bool :=
  let hv := s.warps.filter (fun w => w.core == core && w.harvest && (owing w || w.st == .suspended))
  let c := s.core core
  let others := (s.ownersOn l.part core).filter (fun h => h.uid != l.uid && h.ctx == l.ctx)
  !l.harvest &&
    ((List.range 12).any (fun b =>
      let here := (s.resident core b).filter (fun w => w.harvest || w.ctx == l.ctx)
      hv.any (fun w => w.sub == b) &&
        (decide (8 < l.slotsOn core b + (others.map (fun h => s.reserve h core b)).sum + here.length) ||
          decide (1280 < l.onSub core b * l.quota + (others.map (fun h => s.reserveQuota h core b)).sum + (here.map (fun w => w.ql)).sum))) ||
     (c.grants.any (fun g => s.harvestGrant g) &&
        (decide (c.freePages.length < l.pagesOn core) || l.topPages.any (fun i => !c.freePages.contains i))))

/-- Contexts that an admitted launch pre-empts. -/
def State.preempted (s : State) (l : Launch) (hs : List Launch) : List Nat := ((s.foreign l hs).map (fun h => h.ctx)).eraseDups

/-- The terms of R379 exceed D, in units of 10 ns (code 0x0D). -/
def State.latencyBad (s : State) (l : Launch) : Bool :=
  let hs := s.holders l.part
  decide (l.lat ≤ 2) &&
    decide (l.bound * 100 < 200 + (if l.place.any (s.needsRevoke l) then 74 else 0) + (if s.foreign l hs != [] then 2000 else 0) + 300)

/-- The images of a launch that may be in use at once, by R382. -/
def Launch.imgNeed (l : Launch) : Nat := if l.harvest then min (l.wgs * l.warps) (96 * l.place.length) else l.wgs * l.warps

/-- Probes the pages of an image (R45): the first failure as a walk status and address.  It asks for Rd and Wr, as R383 says of code 0x0E; what a
page with Ex = 1 or Us = 1, or under a second key domain, does to the probe is the model's choice (log 54). -/
def imgProbe (p : Nat) (asid : BitVec 12) (img size : Nat) : SM (Option (Nat × Nat)) := do
  let g : Agent := { core := 0, part := p, ctx := 0, asid := asid }
  (pageStarts (BitVec.ofNat 64 img) size).foldlM (fun (best : Option (Nat × Nat)) va => do
    match best with
    | some b => pure (some b)
    | none =>
      if va / 2 ^ 56 ≠ 0 then pure (some (5, va))
      else
        let s ← get
        let w ← gateProbe (bankRet (s.anchor (g.key va))) p asid va .atomic false
        pure (if w = 0 then none else some (w, va))) none

/-- Code 0x0E. -/
def imagesBad (l : Launch) : SM Bool := do
  if l.fld 40 4 < l.imgNeed then pure true
  else
    match ← imgProbe l.part l.asid (l.fld 32 8) (l.imgNeed * l.imgSize) with
    | some _ => pure true
    | none => pure false

/-! ## Start -/

/-- A warp in Ready whose image load ends: it probes its image and takes its control state (R45, R194, R206); the first fetch of a new warp
checks its target (R191, R234). -/
def startWarp (w : Warp) : SM Unit := do
  match ← imgProbe w.part w.asid w.img (8192 + 128 * w.wres) with
  | some (e, va) => modify fun s => s.park w { cause := wstCause e, wst := e, va := BitVec.ofNat 64 va }
  | none =>
    if w.back = .ready then do
      acquireL1 w.core w.part w.asid false (fun _ => true)
      let s ← get
      let v : Warp := { w with st := .running, back := .running, since := s.plat.cc }
      modify fun s => s.setWarp v
      if ← badTarget v v.pc then takeTrap v { cause := 0x04 }
    else resumeWarp w w.back

/-- A harvest warp goes to Parked-harvest, from where it returns to the state it left; a shoot-down that was squashed issues again from the start (R62, R280). -/
def Warp.revoked (w : Warp) : Warp :=
  { w with st := .parkedHarvest, back := w.st, mid := w.restart, wait := false, hold := none, pause := none, rob := [] }

/-- Revokes the harvest contexts of a core (R200): their warps go to Parked-harvest and their pages are to be returned. -/
def revokeCore (core : Nat) : SM Unit := do
  let s ← get
  (s.warps.filter (fun w => w.core == core && w.harvest && w.st == .ready)).forM startWarp
  modify fun s =>
    let hv := s.warps.filter (fun w => w.core == core && w.harvest && (owing w || w.st == .suspended))
    let cs := (hv.map (fun w => (w.part, w.ctx)) ++ ((s.core core).grants.filter s.harvestGrant).map (fun g => (g.part, g.ctx))).eraseDups
    let s := s.updWarps (fun w => w.core == core && w.harvest && (owing w || w.st == .suspended))
      Warp.revoked
    s.updCore core (fun c =>
      let hit (g : Grant) : Bool := cs.contains (g.part, g.ctx)
      { c with ret := c.ret ++ c.grants.filter hit, grants := c.grants.filter (fun g => !hit g),
               revoked := c.revoked ++ cs.filter (fun x => !c.revoked.contains x) })

/-- The pages of a launch on a core: the exchange region's at the top, then the lowest free, then those being returned. -/
def State.choosePages (s : State) (l : Launch) (core : Nat) : List Nat :=
  let c := s.core core
  let top := l.topPages
  let rest := (c.freePages ++ (List.range 128).filter c.returning).filter (fun i => !top.contains i && !c.grants.any (fun g => g.page == i))
  top ++ rest.take (l.pagesOn core - top.length)

/-- Grants a launch its pages on a core and its exchange region with both courses zero (R114, R117); a page that a harvest context still returns
is zeroed when its bytes have been saved (R200). -/
def State.grantCore (s : State) (l : Launch) (core : Nat) : State :=
  let pages := s.choosePages l core
  let s := pages.foldl (fun (s : State) i =>
    if (s.core core).returning i then s.grantLater core i l.part l.ctx l.uid else s.grantPage core i l.part l.ctx l.uid) s
  if l.xsz = 0 then s
  else
    let s := { s with pads := (l.topPages.filter (fun i => !(s.core core).returning i)).foldl (fun m i => zeroRange m (core * 2 ^ 20 + i * 8192) 8192) s.pads }
    s.updCore core (fun c => { c with xch := { Exch.none with e := l.xsz, launch := l.uid, wgid := (l.wgsOn core).headD 0 } })

/-- The carry-in acquire (R181): L1s of the placement, and every line of the regions leaves the wafer-wide cache by its mask.  Pinned L1 lines are
dropped too: the rule spares none, unlike the acquires of R94 and R96, and that is the model's reading (log 55). -/
def carryIn (l : Launch) : SM Unit := do
  let cond := regionLines l.cin
  l.place.forM (fun n => do
    releaseAct n l.part l.asid false cond
    acquireL1 n l.part l.asid true cond)
  if (l.cin.filter (fun r => r.2 != 0)) = [] then bumpEpoch l.part l.asid
  else removeLines l.part (fun k => k.asid == l.asid && cond k.ln) false

/-- The records of launch-created warps go to the ready queues in their order while there is room (R192). -/
def State.feedN (s : State) (uid : Nat) : Nat → State
  | 0 => s
  | n + 1 =>
    match s.launch? uid with
    | none => s
    | some l =>
      let wg := l.fed / l.warps
      if l.st ≠ .running ∨ l.fed ≥ l.wgs * l.warps ∨ l.failed ∨ s.queueFull (s.queueCore l.part (l.coreOf wg)) l.cls then s
      else
        let r : Ready := { core := l.coreOf wg, cls := l.cls, stamp := 0, part := l.part, ctx := l.ctx, launch := uid,
                           src := .launch wg (l.fed % l.warps) }
        State.feedN ((s.enqueue r).updLaunch uid (fun x => { x with fed := x.fed + 1 })) uid n

/-- Every record of a launch that still finds room is enqueued. -/
def State.feed (s : State) (uid : Nat) : State :=
  match s.launch? uid with
  | some l => s.feedN uid (l.wgs * l.warps - l.fed)
  | none => s

/-- The dispatcher maps the resource map page into the ASID of a launch, in place of what software's tables hold there (R11). -/
def State.mapGranted (s : State) (p : Nat) (asid : BitVec 12) : State :=
  let s := s.updPart p (fun q => { q with maps := (asid, s.tableLeaf p asid mapPageVa) :: q.maps.filter (fun e => e.1 != asid) })
  { s with gates := { s.gates with gtc := s.gates.gtc.filter (fun e =>
      !(e.part == p && e.asid == asid && e.vpn == mapPageVa / 2 ^ lvlShift e.lvl)) } }

/-- The mapping of the resource map page at a launch: what the caches hold of another mapping of that page leaves them (R11). -/
def mapGrant (p : Nat) (asid : BitVec 12) : SM Unit := do
  let s ← get
  if !s.mapStands p asid then do
    let on (k : LineKey) : Bool := k.asid == asid && onMapPage (keyVa k)
    flushL1s p on
    removeLines p on false
    dropCode (fun c => c.part == p && c.asid == asid && onMapPage (c.ln * 64))
  modify fun s => s.mapGranted p asid

/-- Starts an admitted launch: pre-emption and revocation, grants, the carry-in acquire, its records (R181, R380-R382); its context's counters on
its cores are zero. -/
def startLaunch (l : Launch) : SM Unit := do
  let s ← get
  let hs := s.holders l.part
  if !l.harvest then (s.preempted l hs).forM (fun c => saveCtx l.part c)
  let s ← get
  (l.place.filter (s.needsRevoke l)).forM revokeCore
  modify fun s => l.place.foldl (fun s n => s.grantCore l n) s
  carryIn l
  mapGrant l.part l.asid
  modify fun s =>
    let s := s.updPart l.part (fun q =>
      { q with bind := if l.shareIx = 255 ∨ q.bind.any (fun b => b.1 == l.asid) then q.bind else (l.asid, l.shareIx) :: q.bind })
    let s : State := { s with stats := s.stats.filter (fun e => !l.counts e.1) }
    s.updLaunch l.uid (fun x => { x with st := .running, started := true, left := l.wgs * l.warps })
  modify fun s => s.feed l.uid

/-! ## Decisions -/

/-- A refusal (R376): the launch leaves the list, its signal is written and its successors are cancelled. -/
def refuse (l : Launch) (code : Nat) : SM Unit := do
  modify fun s => { s with launches := s.launches.filter (fun x => x.uid != l.uid) }
  signal l code 3
  cancelEdges l

/-- Number of launches of a partition in its pending list. -/
def State.pendingN (s : State) (p : Nat) : Nat := (s.launches.filter (fun l => l.part == p && l.st != .running)).length

/-- The checks that follow once DEPC is zero (R383): start, wait or refuse.  `first` is the first such decision of a new
record (one accepted with predecessors while the partition drained or was quiesced is new too, R408), `edge` a failed edge list.  A
launch whose every placed core was retired while it waited is refused as one without a live core (log 16). -/
def decide2 (l : Launch) (first edge : Bool) : SM Unit := do
  let s ← get
  let fit := s.fitCode l
  let dup := s.launches.any (fun x => x.part == l.part && x.lid == l.lid && x.uid != l.uid)
  let q := (s.part l.part).qst
  let img ← imagesBad l
  if l.place = [] then refuse l 0x06
  else if fit = 0x07 && l.lat ≤ 2 || fit = 0x08 && l.lat ≤ 2 || fit = 0x09 && l.lat ≤ 2 then refuse l fit
  else if l.xszBad || (fit = 0x0A && l.lat ≤ 2) then refuse l 0x0A
  else if fit = 0x0B && l.lat ≤ 2 then refuse l 0x0B
  else if l.progBad then refuse l 0x0C
  else if s.latencyBad l then refuse l 0x0D
  else if img then refuse l 0x0E
  else if edge || dup then refuse l 0x0F
  else if (first || l.late) && (q == .draining || q == .quiesced) && l.asid != 0#12 then refuse l 0x10
  else if fit = 0 then startLaunch l
  else if s.emptied.fitCode l ≠ 0 || (l.st == .waitRes && first && decide (s.pendingN l.part > 4096)) then refuse l 0x11
  else modify fun s => s.updLaunch l.uid (fun x => { x with st := .waitRes })

/-- An accepted record (R383, R384): the codes 0x01 to 0x06, then the rest, or the pending list while DEPC is not zero. -/
def acceptLaunch (p q : Nat) (asid : BitVec 12) (rec : LineData) (poi : Bool) : SM Unit := do
  let s ← get
  let l : Launch := { uid := s.fresh, lid := BitVec.ofNat 64 (lineNat rec 88 8), part := p, ctx := lineNat rec 24 4 / 2 ^ 24 % 64,
                      asid := asid, queue := q, lrec := rec, desc := 0, st := .waitRes, depc := lineNat rec 46 2, place := [],
                      imgs := [], gone := [], left := 0, outst := [], kills := [], cin := [], cout := [], edges := [], failed := false,
                      started := false, fed := 0, excused := [],
                      late := lineNat rec 46 2 != 0 && ((s.part p).qst == .draining || (s.part p).qst == .quiesced) }
  set { s with fresh := s.fresh + 1, launches := s.launches ++ [l] }
  let ed ← edgeList p asid (l.fld 72 8)
  let l := { l with edges := ed.getD [] }
  if poi || l.recordBad then refuse l 0x01
  else do
    let kdp := l.fld 0 8
    let kd ← (if kdp % 64 = 0 then dispBytes p asid kdp 64 else pure none)
    let l := { l with desc := BitVec.ofNat 512 (leNat (kd.getD [])) }
    if kd.isNone || l.kdescBad then refuse l 0x02
    else do
      match ← carryList p asid (l.fld 48 8), ← carryList p asid (l.fld 56 8) with
      | some ci, some co => do
        let l := { l with cin := ci, cout := co }
        let s ← get
        let k := s.ctx p l.ctx
        let pt := s.part p
        let bound := (pt.bind.find? (fun b => b.1 == asid)).map (fun b => b.2)
        let shEn := (((pt.share)[l.shareIx]?).getD 0).getLsbD 31
        if !(k.en && k.asid == asid && !k.fail) then refuse l 0x04
        else if bound.any (fun b => b != l.shareIx) || (decide (l.lat ≤ 2) && (l.shareIx == 255 || !shEn)) then refuse l 0x05
        else
          match s.rectangle l with
          | none => refuse l 0x06
          | some _ =>
            let l := { l with place := s.placement l, depc := l.depc - (pt.heldDec.filter (fun x => x == l.lid)).length }
            if l.place = [] then refuse l 0x06
            else do
              modify fun s => s.updPart p (fun q =>
                { q with heldDec := q.heldDec.filter (fun x => x != l.lid), heldCan := q.heldCan.filter (fun x => x != l.lid) })
              modify fun s => s.updLaunch l.uid (fun _ => l)
              let dup := s.launches.any (fun x => x.part == p && x.lid == l.lid && x.uid != l.uid)
              if pt.heldCan.contains l.lid then cancelLaunch l 0x0F
              else if l.depc = 0 then decide2 l true ed.isNone
              else if ed.isNone || dup then refuse l 0x0F
              else modify fun s => s.updLaunch l.uid (fun x => { x with st := .waitDep })
      | _, _ => refuse l 0x03

end Sys2Proof.Machine
end

