-- ==== Sys2Proof/Machine/DispStep.lean ====
section
/-!
DEFINITION. Warp slots and ready records (R190, R193, R194), harvest contexts and the Kennel (R62, R63, R200, R386).
-/

namespace Sys2Proof.Machine

/-! ## Slots -/

/-- The slot of a context's save area that holds its pages of a core. -/
def State.padSlot (s : State) (core : Nat) (x : Nat × Nat) : Option SaveSlot := (s.ctx x.1 x.2).slots.find? (fun sl => sl.core == core)

/-- A revoked context may be granted its place on a core again: it is active and its pages there are free. -/
def State.grantable (s : State) (core : Nat) (x : Nat × Nat) : Bool :=
  let k := s.ctx x.1 x.2
  k.en && !k.fail && !k.susp && !k.saved && !((s.core core).ret.any (fun g => g.part == x.1 && g.ctx == x.2)) &&
    ((s.padSlot core x).all (fun sl => sl.pages.all (fun g => (s.core core).freePages.contains g.1)))

/-- A revoked context whose pages are free waits for a place of a sub-core; launches that have not started come after it (R386). -/
def State.kennelWaits (s : State) (core sub : Nat) : Bool :=
  (s.core core).revoked.any (fun x => s.grantable core x &&
    s.warps.any (fun w => w.ofCtx x.1 x.2 && w.core == core && w.sub == sub && w.st == .kennel))

/-- A sub-core has a slot and quota for a warp of a launch beside what is in reserve for others (R193, R382). -/
def State.fitsSub (s : State) (l : Launch) (posted : Bool) (core sub : Nat) : Bool :=
  let hs := s.ownersOn l.part core
  let others := hs.filter (fun h => h.uid != l.uid)
  let own := if posted then hs.filter (fun h => h.uid == l.uid) else []
  let slots := (others.map (fun h => s.reserve h core sub)).sum + (own.map (fun h => s.unstarted h core sub)).sum
  let lines := ((others ++ own).map (fun h => s.reserveQuota h core sub)).sum
  decide (slots < (s.freeSlots core sub).length) && decide (lines + l.quota ≤ s.freeQuota core sub) &&
    (!l.harvest || (s.kennelFits core sub l.quota && !s.kennelWaits core sub))

/-- The sub-core that a posted warp takes: of those it fits, the one with the most free quota, ties to the lower number (R193). -/
def State.postedSub (s : State) (l : Launch) (core : Nat) : Option Nat :=
  ((List.range 12).filter (s.fitsSub l true core)).foldl (fun (best : Option Nat) b =>
    match best with
    | none => some b
    | some x => if s.freeQuota core b > s.freeQuota core x then some b else some x) none

/-- Images that a launch keeps for its launch-created warps that have not started (R382): those that may be resident at once. -/
def State.imgKept (s : State) (l : Launch) : Nat :=
  let begun := (s.warps.filter (fun w => w.launch == l.uid && !w.posted)).length
  let unstarted := (l.wgs * l.warps - l.fed) +
    (s.ready.filter (fun r => r.launch == l.uid && (match r.src with | .launch _ _ => true | .posted _ _ _ _ => false))).length
  min unstarted (l.imgNeed - begun)

/-- An image of the pool is free for a record: a posted record leaves those that are kept for launch-created warps (R193, R378, R382). -/
def State.imageFree (s : State) (r : Ready) (l : Launch) : Bool :=
  match r.src with
  | .launch _ _ => decide (l.imgs.length < l.fld 40 4)
  | .posted _ _ _ _ => decide (l.imgs.length + s.imgKept l < l.fld 40 4)

/-- The launch of a record may start warps: its context is active, an image is free, the core keeps the bounds of R199 (one owner context, three
harvest contexts), and on a core whose harvest context waits for its pages no warp of that context starts. -/
def State.mayStart (s : State) (r : Ready) (l : Launch) : Bool :=
  let k := s.ctx r.part r.ctx
  k.en && !k.fail && !k.susp && !k.saved && (s.part r.part).qst != .reshaping && s.imageFree r l &&
    s.coreLive r.core && !((s.core r.core).revoked.contains (r.part, r.ctx)) &&
    (if l.harvest then decide ((s.otherHarvest r.part r.ctx r.core).length ≤ 2) else !s.otherOwner r.part r.ctx r.core)

/-- Whether a slot of a sub-core takes a record, passes it by, or waits behind it. -/
def State.serves (s : State) (sub : Nat) (r : Ready) : Option Bool :=
  match s.launch? r.launch with
  | none => some false
  | some l =>
    if !s.mayStart r l then some false
    else
      match r.src with
      | .launch _ i => some (i % 12 == sub && s.fitsSub l false r.core sub)
      | .posted _ _ _ _ => (s.postedSub l r.core).map (fun b => b == sub)

/-- The first record of a queue that the slot takes; a posted record that fits no sub-core stops the queue. -/
def State.firstServed (s : State) (sub : Nat) : List Ready → Option Ready
  | [] => none
  | r :: rs =>
    match s.serves sub r with
    | none => none
    | some true => some r
    | some false => s.firstServed sub rs

/-- The record that a free slot of a sub-core takes (R193): by priority class, then in the order of the queue. -/
def State.nextRecord (s : State) (core sub : Nat) : Option Ready :=
  (List.range 3).findSome? (fun c => s.firstServed sub (s.ready.filter (fun r => r.core == core && r.cls == c)))

/-- The lowest free image of a launch's pool. -/
def Launch.freeImage (l : Launch) : Nat := ((List.range (l.imgs.length + 1)).find? (fun i => !l.imgs.contains i)).getD 0

/-- The warp that a record starts, in Ready (R194).  FRAME of a launch-created warp is a free value (log 5). -/
def State.newWarp (s : State) (l : Launch) (r : Ready) (sub : Nat) : Warp :=
  let ix := l.freeImage
  let (posted, wg, i, code) := match r.src with
    | .launch wg i => (false, wg, i, l.kd 8 8)
    | .posted _ code _ _ => (true, 0, 0xFF, code)
  let (s1, s2, s3) : Word × Word × Word := match r.src with
    | .launch wg i => (Config.freeWord s.free, BitVec.ofNat 64 (wg * 65536 + i), 0#64)
    | .posted addr _ frame arg => (BitVec.ofNat 64 frame, BitVec.ofNat 64 arg, BitVec.ofNat 64 addr)
  let pc := BitVec.ofNat 64 code
  { Warp.init with
    wid := s.fresh, st := .ready, back := .ready, part := r.part, ctx := r.ctx, asid := l.asid, core := r.core, sub := sub,
    slot := (s.freeSlots r.core sub).headD 0, launch := l.uid, posted := posted, wgid := wg, widx := i, harvest := l.harvest,
    cls := l.cls, age := r.stamp, since := s.plat.cc, g16 := l.hdr 0 1 == 1, chk := l.hdr 1 1 == 1, tvec := BitVec.ofNat 64 (l.kd 24 8),
    ten := BitVec.ofNat 32 (l.kd 32 4), prog := l.prog, blv := l.blv, warps := l.warps, pc := pc, regpc := pc, fpc := pc,
    sr := ((Warp.init.sr.setIfInBounds 1 s1).setIfInBounds 2 s2).setIfInBounds 3 s3, img := l.fld 32 8 + ix * l.imgSize, imgIx := ix,
    wres := l.wres, wbo := l.wres - l.kd 6 2, vv := l.kd 16 2, vt := l.kd 18 2, va := l.kd 20 2, ql := l.quota }

/-- A slot takes a record: the warp is in Ready, and the device clears P and LREF of a posted record (R190). -/
def takeRecord (r : Ready) (sub : Nat) : SM Unit := do
  let s ← get
  match s.launch? r.launch with
  | none => pure ()
  | some l => do
    let w := s.newWarp l r sub
    set { s with ready := s.ready.erase r, warps := s.warps ++ [w], fresh := s.fresh + 1, free := s.free + 1 }
    modify fun s => s.updLaunch l.uid (fun x => { x with imgs := w.imgIx :: x.imgs, left := if w.posted then x.left + 1 else x.left })
    match r.src with
    | .posted addr _ _ _ => recTaken l r.core addr
    | .launch _ _ => pure ()

/-- SLOT_TAKES_RECORD (R193). -/
def execSlotTakesRecord (core sub : Nat) (s : State) : Out :=
  event s (if sub < 12 then (s.nextRecord core sub).map (fun r => takeRecord r sub) else none)

/-- WARP_START (R45, R194, R206). -/
def execWarpStart (wid : Nat) (s : State) : Out :=
  event s ((s.warp? wid).bind (fun w => if w.st == .ready then some (startWarp w) else none))

/-! ## Harvest (R62, R63, R200, R386) -/

/-- Harvest warps or pages stand on a core that a revocation takes back. -/
def State.revocable (s : State) (core : Nat) : Bool :=
  s.warps.any (fun w => w.core == core && w.harvest && (owing w || w.st == .suspended)) || (s.core core).grants.any s.harvestGrant

/-- An owner waits on a core for what harvest contexts hold there (R200): a record, posted or of a launch, that would fit without them, or a saved
context that would resume. -/
def State.ownerWaits (s : State) (core : Nat) : Bool :=
  let bare : State := { s with warps := s.warps.filter (fun w => !(w.core == core && w.harvest)) }
  s.ownerBlocked core || s.ready.any (fun r =>
    match r.core == core, r.src, s.launch? r.launch with
    | true, .posted _ _ _ _, some l => !l.harvest && s.mayStart r l && (s.postedSub l core).isNone && (bare.postedSub l core).isSome
    | true, .launch _ i, some l =>
      !l.harvest && s.mayStart r l && !s.fitsSub l false core (i % 12) && bare.fitsSub l false core (i % 12)
    | _, _, _ => false)

/-- HARVEST_REVOCATION (R200). -/
def execHarvestRevocation (core : Nat) (s : State) : Out := eventIf s (s.revocable core) (revokeCore core)

/-- The lines of a warp in the Kennel and the register cache, a line of both once. -/
def Warp.kennelLines (w : Warp) : List WLine := w.lines ++ w.kennel.filter (fun l => !w.lines.any (fun x => x.idx == l.idx))

/-- Lines of the Kennel of a sub-core that its warps fill: window lines, and 8 lines for each warp in it (R62). -/
def State.kennelUsed (s : State) (core sub : Nat) : Nat :=
  ((s.warps.filter (fun w => w.core == core && w.sub == sub)).map (fun w => w.kennel.length + (if w.st == .kennel then 8 else 0))).sum

/-- A warp in Parked-harvest finds room in the Kennel of 512 lines (R3): no warp stands beyond its quota for long, so that it comes (R61). -/
def State.kennelRoom (s : State) (w : Warp) : Bool :=
  !w.overQuota && decide (s.kennelUsed w.core w.sub + (w.kennelLines.length - w.kennel.length) + 8 ≤ 512)

/-- KENNEL_PARK_DONE (R62): the warp's lines stand in the Kennel, and its slot and quota are free. -/
def execKennelParkDone (wid : Nat) (s : State) : Out :=
  event s ((s.warp? wid).bind (fun w =>
    if w.st == .parkedHarvest && s.kennelRoom w then some (set (s.setWarp { w with st := .kennel, lines := [], kennel := w.kennelLines }))
    else none))

/-- HARVEST_PAGES_RETURNED (R200). -/
def execHarvestPagesReturned (core : Nat) (s : State) : Out := eventIf s ((s.core core).ret != []) (returnPages core)

/-- The Kennel warp of a sub-core that a revoked context may resume: a slot and its quota are free beside what owners hold in reserve. -/
def State.kennelWarp (s : State) (core sub : Nat) (x : Nat × Nat) : Option Warp :=
  let hs := s.ownersOn x.1 core
  let slots := (hs.map (fun h => s.reserve h core sub)).sum
  let lines := (hs.map (fun h => s.reserveQuota h core sub)).sum
  s.warps.find? (fun w => w.ofCtx x.1 x.2 && w.core == core && w.sub == sub && w.st == .kennel &&
    decide (slots < (s.freeSlots core sub).length) && decide (lines + w.ql ≤ s.freeQuota core sub))

/-- Forgets the revocations of contexts that have nothing more to be granted on a core. -/
def State.dropRevoked (s : State) (core : Nat) : State :=
  s.updCore core (fun c => { c with revoked := c.revoked.filter (fun x =>
    (s.padSlot core x).isSome || s.warps.any (fun w => w.ofCtx x.1 x.2 && w.core == core && (w.st == .kennel || w.st == .parkedHarvest))) })

/-- Grants a context its pages on a core again, then the Kennel warp of a sub-core its slot. -/
def grantHarvest (core sub : Nat) (x : Nat × Nat) : SM Unit := do
  let s ← get
  let ok ← match s.padSlot core x with
    | some sl => loadSlot x.1 x.2 sl core
    | none => pure true
  modify fun s =>
    let s : State := match ok, s.kennelWarp core sub x with
      | true, some w => s.setWarp { w with st := w.back, slot := (s.freeSlots core sub).headD 0, since := s.plat.cc }
      | _, _ => s
    s.dropRevoked core

/-- The revoked context that freed slots of a sub-core are granted to: the oldest revocation that can use them (R386). -/
def State.nextGrant (s : State) (core sub : Nat) : Option (Nat × Nat) :=
  (s.core core).revoked.find? (fun x => s.grantable core x &&
    ((s.kennelWarp core sub x).isSome || !s.warps.any (fun w => w.ofCtx x.1 x.2 && w.core == core && w.st == .kennel)))

/-- HARVEST_GRANT (R386): while owners need the core, no harvest context is granted what they hold. -/
def execHarvestGrant (core sub : Nat) (s : State) : Out := event s ((s.nextGrant core sub).map (grantHarvest core sub))

end Sys2Proof.Machine
end

