-- ==== Sys2Proof/Machine/CtxStep.lean ====
section
/-!
DEFINITION. Full saves and resumptions (R178, R380), kills (R400, R401), fault records (R390, R391), resume words and the control register
of a context (R392, R393), the gang slices (R387, R388).
-/

namespace Sys2Proof.Machine

/-! ## Saves and resumptions (R178, R380) -/

/-- CONTEXT_SAVE (R178). -/
def execContextSave (part ctx : Nat) (s : State) : Out :=
  let k := s.ctx part ctx
  eventIf s (k.en && !k.fail && !k.saved) (saveCtx part ctx)

/-- No context that was saved earlier could resume. -/
def State.oldestSaved (s : State) (p c : Nat) : Bool :=
  (List.range 64).all (fun d => !(s.resumable p d && decide ((s.ctx p d).savedAt < (s.ctx p c).savedAt)))

/-- CONTEXT_RESUME (R178, R380): the oldest save first. -/
def execContextResume (part ctx : Nat) (s : State) : Out :=
  eventIf s (s.resumable part ctx && s.oldestSaved part ctx) (resumeCtx part ctx)

/-- SLICE_BOUNDARY (R388): accepted values come into force, the other gangs are saved and the incoming gang resumes, the oldest save first (R380); a
context in no gang is not switched. -/
def switchGang (p : Nat) : SM Unit := do
  modify fun s => s.updPart p (fun q =>
    { q with slc := q.slcW, epoch := q.epochW, gang := q.gangW,
             slice := if q.slcW.getLsbD 31 && decide (q.epochW.toNat ≤ s.timeNs) then sliceIx q.slcW q.epochW s.timeNs + 1 else 0 })
  let s ← get
  let out := (List.range 64).filter (fun c => s.heldBack p c && (s.ctx p c).en && !(s.ctx p c).saved && !(s.ctx p c).fail)
  out.forM (fun c => saveCtx p c)
  (List.range 64).forM (fun _ => do
    let s ← get
    match (List.range 64).find? (fun c => (s.part p).gang.toList.any (fun m => m.getLsbD c) && s.resumable p c && s.oldestSaved p c) with
    | some c => resumeCtx p c
    | none => pure ())

/-- SLICE_BOUNDARY (R388). -/
def execSliceBoundary (part : Nat) (s : State) : Out := eventIf s ((s.part part).formed && s.boundaryDue part) (switchGang part)

/-- SLC_WRITE (R387). -/
def execSlcWrite (part n : Nat) (v : Word) (s : State) : Out :=
  eventIf s ((s.part part).formed && (decide (n < 2) || (decide (8 ≤ n) && decide (n < 16)))) (slcSet part n v)

/-! ## Kills (R400, R401) -/

/-- WARP_KILL (R401). -/
def execWarpKill (wid : Nat) (cause : Byte) (s : State) : Out :=
  event s ((s.warp? wid).bind (fun w =>
    if w.st == .killed || w.st == .saved then none else some (set (s.kill w { cause := cause.toNat } false true))))

/-- KILLED_WARP_DRAINED (R206). -/
def execKilledWarpDrained (wid : Nat) (s : State) : Out :=
  event s ((s.warp? wid).bind (fun w => if w.st == .killed then some (drainKilled w true) else none))

/-! ## Fault records (R390, R391) -/

/-- The 64 bytes of a record. -/
def FaultRec.bytes (r : FaultRec) : List Byte :=
  toBytes r.cause 1 ++ toBytes (r.wst % 16 + (if r.nxt then 16 else 0)) 1 ++ toBytes r.code 2 ++ toBytes r.kind 1 ++ toBytes r.ctx 1 ++
    toBytes r.asid.toNat 2 ++ toBytes r.pc.toNat 8 ++ toBytes r.va.toNat 8 ++ toBytes r.warp.toNat 8 ++ toBytes r.lanes.toNat 4 ++
    toBytes r.seq.toNat 4 ++ toBytes r.mapv 8 ++ toBytes r.time 8 ++ toBytes r.aux.toNat 8

/-- Slots of a fault ring, and how many records it holds at most. -/
def Ctx.ring (k : Ctx) : Nat × Nat :=
  let size := (k.fqb.extractLsb' 0 4).toNat
  if k.fqb = 0 then (16, 0) else if size = 12 then (65536, 65535) else (2 ^ (size + 4), 2 ^ (size + 4))

/-- The oldest waiting record finds room in the ring. -/
def Ctx.canPost (k : Ctx) : Option FaultRec :=
  match k.waiting with
  | [] => none
  | r :: _ => if (k.tail + 65536 - k.head) % 65536 < k.ring.2 then some r else none

/-- The warp whose image is written back before a record of it is posted, wherever it stands (R46, R391). -/
def State.recWarp (s : State) (p c : Nat) (r : FaultRec) : Option Warp :=
  s.warps.find? (fun w => w.ofCtx p c &&
    ((r.kind == 0 && w.st != .killed && w.fseq == r.seq) || (r.kind == 1 && w.st == .killed && w.id == r.warp)))

/-- The oldest waiting record is written to the ring after the write-back of R46, and TAIL rises. -/
def postFault (p c : Nat) (r : FaultRec) : SM Unit := do
  let s ← get
  match s.recWarp p c r with
  | some w => imgWriteBack w true
  | none => pure ()
  modify fun s =>
    let k := s.ctx p c
    let a := (k.fqb &&& 0x0003FFFFFFFFFFC0).toNat + 64 * (k.tail % k.ring.1)
    let s : State := { s with host := s.host.setL a r.bytes }
    s.updCtx p c (fun k => { k with waiting := k.waiting.drop 1, tail := (k.tail + 1) % 65536 })

/-- FAULT_RECORD_POST (R391). -/
def execFaultRecordPost (part ctx : Nat) (s : State) : Out := event s ((s.ctx part ctx).canPost.map (postFault part ctx))

/-! ## The registers of a context (R392, R393) -/

/-- A context of a formed partition. -/
def State.hasCtx (s : State) (p c : Nat) : Bool := (s.part p).formed && decide (c < 64)

/-- CTX_RESUME (R392). -/
def execCtxResume (part ctx : Nat) (seq : Word32) (s : State) : Out := eventIf s (s.hasCtx part ctx) (resumeWord part ctx 1 seq)
/-- CTX_SKIP (R392). -/
def execCtxSkip (part ctx : Nat) (seq : Word32) (s : State) : Out := eventIf s (s.hasCtx part ctx) (resumeWord part ctx 2 seq)
/-- CTX_KILL (R392). -/
def execCtxKill (part ctx : Nat) (seq : Word32) (s : State) : Out := eventIf s (s.hasCtx part ctx) (resumeWord part ctx 3 seq)
/-- CTX_ENABLE (R393). -/
def execCtxEnable (part ctx : Nat) (en : Bool) (asid : BitVec 12) (s : State) : Out :=
  eventIf s (s.hasCtx part ctx) (ctxEnAsid part ctx en asid)
/-- CTX_SUSPEND (R393). -/
def execCtxSuspend (part ctx : Nat) (s : State) : Out := eventIf s (s.hasCtx part ctx) (ctxSuspr part ctx)
/-- CTX_RESUME_ALL (R393). -/
def execCtxResumeAll (part ctx : Nat) (s : State) : Out := eventIf s (s.hasCtx part ctx) (ctxResm part ctx)
/-- CTX_RELEASE (R393). -/
def execCtxRelease (part ctx : Nat) (s : State) : Out := eventIf s (s.hasCtx part ctx) (ctxRel part ctx)

end Sys2Proof.Machine
end

