-- ==== Sys2Proof/Machine/PartReg.lean ====
section
/-!
DEFINITION. The partition controller's registers (R406-R409), work queues (R371, R372), engine channels (R445) and fabric ports (R447, R448).
-/

namespace Sys2Proof.Machine

/-! ## Ownership -/

/-- The partition that owns a work queue: the one with a quarter whose mask holds its block (R409). -/
def State.queuePart (s : State) (q : Nat) : Option Nat :=
  ((List.range 4).find? (fun i => ((s.wafer.qown[i]?).getD 0).getLsbD (q / 256))).map s.partOfQ
/-- BUSY of a work queue, launches of a kind alone counted (R371). -/
def State.queueBusyBy (s : State) (q : Nat) (f : Launch → Bool) : Bool :=
  (s.queue q).head != (s.queue q).tail || s.launches.any (fun l => l.queue == q && f l)
/-- BUSY of a work queue. -/
def State.queueBusy (s : State) (q : Nat) : Bool := s.queueBusyBy q (fun _ => true)
/-- The work queues that are not in their state after power-on. -/
def State.usedQueues (s : State) : List Nat := (s.queues.map (fun e => e.1)).eraseDups

/-- The partition that owns a fabric port (R447). -/
def State.partOfPort (s : State) (k : Nat) : Nat := s.partOfQ (k / 32)
/-- AUTH of a partition (R406, R444). -/
def State.auth (s : State) (p : Nat) : Bool := s.plat.auth.getLsbD p

/-! ## Values -/

/-- PART_ID. -/
def State.partId (s : State) (p : Nat) : Word32 := BitVec.ofBool (s.auth p) ++ 0#23 ++ BitVec.ofNat 4 (s.qmask p) ++ 0#2 ++ BitVec.ofNat 2 p
/-- PART_SHAPE: while a commit runs, the shape that was written (R407, R433). -/
def Wafer.shapeReg (w : Wafer) : Word32 :=
  BitVec.ofBool w.shBad ++ 0#3 ++ BitVec.ofNat 4 w.why ++ 0#15 ++ BitVec.ofBool w.busy ++ w.newShape.getD w.shape
/-- PART_NBND. -/
def Wafer.nbndReg (w : Wafer) : Word32 := BitVec.ofBool w.nbndBad ++ 0#27 ++ w.nbnd
/-- STATE of PART_QCTL. -/
def qstCode : QSt → BitVec 2
  | .running => 0 | .draining => 1 | .quiesced => 2 | .reshaping => 3
/-- LEFT of a partition (R408). -/
def State.left (s : State) (p : Nat) : Nat :=
  min 0xFFFF (s.launches.filter (fun l => l.part == p && l.asid != 0#12)).length
/-- PART_QCTLq. -/
def State.qctl (s : State) (q : Nat) : Word32 :=
  let p := s.partOfQ q
  let k := s.part p
  BitVec.ofBool k.req ++ qstCode k.qst ++ BitVec.ofBool k.qbad ++ 0#12 ++ BitVec.ofNat 16 (s.left p)

/-! ## PART_SHAPE (R407) -/

/-- The partition of a quarter in a shape. -/
def shapeOf (v : BitVec 8) (q : Nat) : Nat := (v.extractLsb' (2 * q) 2).toNat
/-- The quarters of a partition in a shape. -/
def shapeSet (v : BitVec 8) (p : Nat) : List Nat := (List.range 4).filter (fun q => shapeOf v q == p)
/-- The quarter sets a partition may have. -/
def legalSets : List (List Nat) := [[], [0], [1], [2], [3], [0, 1], [2, 3], [0, 2], [1, 3], [0, 1, 2, 3]]
/-- WHY 1: every partition is named by its lowest quarter and has a legal set. -/
def shapeLegal (v : BitVec 8) : Bool :=
  (List.range 4).all (fun p => legalSets.contains (shapeSet v p) && ((shapeSet v p) == [] || (shapeSet v p).headD 4 == p))
/-- The partitions of the old shape whose quarter set differs in the new one. -/
def changedParts (old new : BitVec 8) : List Nat :=
  (List.range 4).filter (fun p => shapeSet old p != [] && shapeSet old p != shapeSet new p)

/-- The reason for which a commit request is refused, 0 for none (R407). -/
def State.shapeWhy (s : State) (auth : Bool) (v : BitVec 8) : Nat :=
  let ch := changedParts s.wafer.shape v
  if !shapeLegal v then 1
  else if !auth then 2
  else if s.wafer.busy then 3
  else if s.usedQueues.any (fun q => (s.queuePart q).any ch.contains && s.queueBusyBy q (fun l => l.asid != 0#12)) then 4
  else if ch.any (fun p => !s.quiesced p) then 5
  else if ch.any (fun p => shapeSet v p != [] &&
      ((s.part p).ivl.take (s.part p).count).any (fun k =>
        (shapeSet s.wafer.shape p).contains (stackQuarter k) && !(shapeSet v p).contains (stackQuarter k))) then 6
  else 0

/-- A write to PART_SHAPE (R407, R433). -/
def shapeWrite (auth : Bool) (v : Word32) : SM Unit :=
  modify fun s =>
    let n := v.extractLsb' 0 8
    let why := s.shapeWhy auth n
    if why ≠ 0 then { s with wafer := { s.wafer with shBad := true, why := why } }
    else
      let ch := changedParts s.wafer.shape n
      let s := { s with wafer := { s.wafer with shBad := false, why := 0 } }
      if ch = [] then s
      else
        let s := ch.foldl (fun (s : State) p => s.updPart p (fun q => { q with qst := .reshaping })) s
        { s with wafer := { s.wafer with busy := true, newShape := some n } }

/-! ## PART_QCTL, PART_NBND, QOWN (R408, R409) -/

/-- A write of REQ to a partition's quiesce register. -/
def Part.quiesce (q : Part) (req : Bool) : Part :=
  match q.qst, req with
  | .reshaping, _ => { q with qbad := true }
  | .running, true => { q with qbad := false, req := true, qst := .draining }
  | .running, false => { q with qbad := false, req := false }
  | _, true => { q with qbad := false, req := true }
  | _, false => { q with qbad := false, req := false, qst := .running }

/-- A write to PART_QCTLq from a partition, or from the host (R408). -/
def qctlWrite (by' : Option Nat) (q : Nat) (req : Bool) : SM Unit :=
  modify fun s =>
    let p := s.partOfQ q
    let ok := match by' with | none => true | some b => b == p || s.auth b
    s.updPart p (fun k => if ok then k.quiesce req else { k with qbad := true })

/-- The quarters on the two sides of an inner seam. -/
def seamSides (i : Nat) : Nat × Nat :=
  match i with
  | 0 => (0, 1) | 1 => (2, 3) | 2 => (0, 2) | _ => (1, 3)

/-- A write to PART_NBND may not be taken (R409). -/
def State.nbndRefused (s : State) (v : BitVec 4) : Bool :=
  (List.range 4).any (fun i =>
    let (a, b) := seamSides i
    v.getLsbD i != s.wafer.seams.getLsbD i &&
      ((v.getLsbD i && s.partOfQ a != s.partOfQ b) || (!v.getLsbD i && s.partOfQ a == s.partOfQ b) ||
        !s.quiesced (s.partOfQ a) || !s.quiesced (s.partOfQ b)))

/-- A write to PART_NBND: an opened seam reads 0 until the routes are rewritten (R409, R434). -/
def nbndWrite (auth : Bool) (v : Word32) : SM Unit :=
  modify fun s =>
    let n := v.extractLsb' 0 4
    if !auth || s.nbndRefused n then { s with wafer := { s.wafer with nbndBad := true } }
    else { s with wafer := { s.wafer with nbndBad := false, seams := n, nbnd := s.wafer.nbnd &&& n } }

/-- A write to QOWNq may not be taken: a block in two masks, or a moved block with a busy queue (R409). -/
def State.qownRefused (s : State) (q : Nat) (v : Word) : Bool :=
  let old := (s.wafer.qown[q]?).getD 0
  (List.range 4).any (fun i => i != q && ((s.wafer.qown[i]?).getD 0) &&& v != 0) ||
    s.usedQueues.any (fun k => (old ^^^ v).getLsbD (k / 256) && s.queueBusy k)

/-- A write to QOWNq. -/
def qownSet (auth : Bool) (q : Nat) (v : Word) : SM Unit :=
  modify fun s =>
    if !auth then { s with wafer := { s.wafer with shBad := true, why := 2 } }
    else if s.qownRefused q v then { s with wafer := { s.wafer with shBad := true, why := 4 } }
    else { s with wafer := { s.wafer with qown := s.wafer.qown.setIfInBounds q v } }

/-! ## Work queues (R371, R372) -/

/-- Host queues and engine channels are enabled for writing from the end of stage 0x06 on (R451). -/
def Plat.hostUp (k : Plat) : Bool := k.stage == 0x07 || k.stage == 0x80 || k.stage == 0xE7

/-- The engine channels take writes and doorbells; after a failed bring-up only BAR0 answers (R451). -/
def Plat.chanUp (k : Plat) : Bool := k.stage == 0x07 || k.stage == 0x80

/-- WQ_CTL; BAD shows a refused last write as well as an overrun (R371). -/
def State.wqCtl (s : State) (q : Nat) : Word32 :=
  let k := s.queue q
  BitVec.ofBool k.en ++ BitVec.ofBool (s.queueBusy q) ++ BitVec.ofBool (k.bad || k.lapped) ++ 0#1 ++ k.asid ++ 0#11 ++ BitVec.ofNat 5 k.log2n

/-- Records that the host has written, from HEAD to TAIL. -/
def WorkQ.count (k : WorkQ) : Nat := (k.tail + 2 ^ 32 - k.head) % 2 ^ 32

/-- A queue with the records that its registers name: those that are new to the dispatcher arrive now. -/
def WorkQ.arrive (k : WorkQ) (cc : Nat) : WorkQ :=
  { k with arr := k.arr.take k.count ++ List.replicate (k.count - k.arr.length) (cc, none) }

/-- A queue disabled for an overrun (R372). -/
def WorkQ.overrun (k : WorkQ) : WorkQ := { k with en := false, lapped := true, arr := [] }

/-- A write to WQ_CTL (R372); a queue that is enabled with more records than its ring holds is disabled for an overrun at once. -/
def wqCtlSet (q : Nat) (v : Word32) : SM Unit :=
  modify fun s => if !s.plat.hostUp then s else s.updQueue q (fun k =>
    let en := v.getLsbD 31
    let asid := v.extractLsb' 16 12
    let n := (v.extractLsb' 0 5).toNat
    if (en && (decide (n < 1) || decide (n > 16))) || (k.en && (asid != k.asid || n != k.log2n)) then { k with bad := true }
    else
      let v : WorkQ := { k with en := en, asid := asid, log2n := n, bad := false, lapped := k.lapped && !en }
      if !en then v else if v.count > 2 ^ n then v.overrun else v.arrive s.plat.cc)

/-- A write to WQ_BASE (R371, R372). -/
def wqBaseSet (q : Nat) (v : Word) : SM Unit :=
  modify fun s => if !s.plat.hostUp then s else s.updQueue q (fun k =>
    let b := v &&& 0x00FFFFFFFFFFFF80
    if k.en && b != k.base then { k with bad := true } else { k with base := b, bad := false })

/-- A write to WQ_TAIL publishes records, or is an overrun (R372). -/
def wqTailSet (q : Nat) (v : Word32) : SM Unit :=
  modify fun s => if !s.plat.hostUp then s else s.updQueue q (fun k =>
    let k := { k with tail := v.toNat, bad := false }
    if k.count > 2 ^ k.log2n then k.overrun else k.arrive s.plat.cc)

/-! ## Engine channels (R445) -/

/-- CHCTL. -/
def Chan.ctl (k : Chan) : Word := BitVec.ofBool k.en ++ 0#19 ++ k.asid ++ BitVec.ofNat 16 k.core ++ BitVec.ofNat 16 k.drop

/-- A write to CHCTL (R445). -/
def chctlWrite (c : Nat) (v : Word) : SM Unit :=
  modify fun s => if !s.plat.chanUp then s else s.updChan c (fun k =>
    let asid := v.extractLsb' 32 12
    let core := (v.extractLsb' 16 16).toNat
    if k.en && (asid != k.asid || core != k.core) then k
    else { k with en := v.getLsbD 63, asid := asid, core := core, drop := (BitVec.ofNat 16 k.drop &&& ~~~(v.extractLsb' 0 16)).toNat })

/-! ## Fabric ports (R447, R448) -/

/-- FP_CTL. -/
def Port.ctl (k : Port) : Word :=
  BitVec.ofNat 3 k.st ++ BitVec.ofBool k.len ++ BitVec.ofBool k.slv ++ BitVec.ofBool k.fen ++ BitVec.ofNat 6 k.peer ++
    BitVec.ofBool k.pany ++ 0#5 ++ BitVec.ofNat 14 k.qbase ++ BitVec.ofNat 16 k.drops ++ 0#1 ++ BitVec.ofNat 15 k.qcnt

/-- A port changes its state: a port that is not Up is no slave (R450), and the owning partition's map follows, with its version (R404,
R448). -/
def portState (k st : Nat) : SM Unit := do
  let s ← get
  if (s.port k).st = st then pure ()
  else do
    set (s.updPort k (fun x => { x with st := st, slv := x.slv && (st == 2 || st == 3) }))
    if s.plat.slave = some k ∧ st ≠ 2 ∧ st ≠ 3 then modify fun s => { s with plat := { s.plat with slave := none } }
    let p := s.partOfPort k
    if (s.part p).formed then riseMap p 6 k

/-- FEN takes effect: a fenced port drops what depends on it, an opened one trains (R448).  A dead port stays dead, and a fenced one as it is. -/
def setFence (k : Nat) (fen : Bool) : SM Unit := do
  modify fun s => s.updPort k (fun x => { x with fen := fen })
  let s ← get
  if fen ∧ (s.port k).st ≠ 5 ∧ (s.port k).st ≠ 4 then do
    let p := s.partOfPort k
    modify fun s => { s with colls := s.colls.map (fun x => if x.part == p && x.whr != 0 then { x with gone := true } else x) }
    portState k 4
  else if !fen ∧ (s.port k).st = 4 then portState k 1

/-- A write to FP_CTL. -/
def portWrite (k : Nat) (v : Word) : SM Unit := do
  modify fun s => s.updPort k (fun x =>
    { x with len := v.getLsbD 60, peer := (v.extractLsb' 52 6).toNat, pany := v.getLsbD 51, qbase := (v.extractLsb' 32 14).toNat,
             drops := (BitVec.ofNat 16 x.drops &&& ~~~(v.extractLsb' 16 16)).toNat, qcnt := (v.extractLsb' 0 15).toNat })
  setFence k (v.getLsbD 58)

end Sys2Proof.Machine
end

