-- ==== Sys2Proof/Machine/Regs.lean ====
section
/-!
DEFINITION. System registers by number (R273-R277, R387, R406, R447): who may access them, their values and their writes, and the
register apertures of warps and of the host (R30, R442, R443).
-/

namespace Sys2Proof.Machine

/-- Who may write a register (R274): any level; under R48; the trap registers (R268); supervisor level. -/
inductive WrKind where
  | any | r48 | trp | sup
  deriving DecidableEq, Repr

/-- What the instance of a register names (R273). -/
inductive InstKind where
  | none | stack | port | place
  deriving DecidableEq, Repr

/-- A row of the table of R274. -/
structure RegInfo where
  wide   : Bool
  rdUser : Bool
  wr     : WrKind
  inst   : InstKind
  deriving DecidableEq, Repr

/-- The registers of a warp, 0x0000-0x0102. -/
def warpRegInfo (n : Nat) : Option RegInfo :=
  match n with
  | 0x0000 => some ⟨false, true, .any, .none⟩
  | 0x0001 | 0x0002 | 0x0010 | 0x0011 | 0x0012 | 0x0013 | 0x0100 | 0x0101 => some ⟨true, true, .r48, .none⟩
  | 0x0003 | 0x0004 | 0x0102 => some ⟨false, true, .r48, .none⟩
  | 0x0008 | 0x0009 | 0x000A => some ⟨true, true, .trp, .none⟩
  | 0x000B => some ⟨false, true, .trp, .none⟩
  | 0x0020 => some ⟨true, true, .r48, .place⟩
  | _ => none

/-- The row of a register number; none for an unlisted number. -/
def regInfo (n : Nat) : Option RegInfo :=
  if n < 0x200 then warpRegInfo n
  else if n = 0x200 ∨ (0x202 ≤ n ∧ n ≤ 0x207) then some ⟨true, false, .sup, .none⟩
  else if n = 0x201 ∨ n = 0x210 ∨ (0x220 ≤ n ∧ n < 0x230) ∨ n = 0x240 ∨ (0x280 ≤ n ∧ n < 0x2D0) then some ⟨false, false, .sup, .none⟩
  else if (0x300 ≤ n ∧ n ≤ 0x340) ∨ (0x390 ≤ n ∧ n < 0x3D0) then some ⟨true, false, .sup, .stack⟩
  else if 0x380 ≤ n ∧ n ≤ 0x382 then some ⟨false, false, .sup, .stack⟩
  else if n = 0x400 then some ⟨false, true, .r48, .none⟩
  else if n = 0x401 ∨ n = 0x402 ∨ (0x404 ≤ n ∧ n ≤ 0x407) then some ⟨false, false, .sup, .none⟩
  else if n = 0x410 then some ⟨true, true, .r48, .none⟩
  else if (0x408 ≤ n ∧ n ≤ 0x40B) ∨ (0x440 ≤ n ∧ n < 0x600) then some ⟨true, false, .sup, .none⟩
  else if n = 0x600 then some ⟨true, false, .sup, .port⟩
  else if n = 0x800 then some ⟨false, false, .sup, .none⟩
  else if n = 0x801 ∨ (0x808 ≤ n ∧ n ≤ 0x80F) then some ⟨true, false, .sup, .none⟩
  else none

/-- The instance is one that a partition owns (R273, R447). -/
def State.instOK (s : State) (p : Nat) (k : InstKind) (i : Nat) : Bool :=
  match k with
  | .stack => s.ownsStack p i
  | .port => decide (i < 128) && s.partOfPort i == p
  | _ => true

/-! ## Values -/

/-- PLACE (R276). -/
def State.placeReg (s : State) (w : Warp) (i : Nat) : Word :=
  match s.launch? w.launch with
  | some l => if i < l.wgs then 0#32 ++ 1#1 ++ 0#15 ++ BitVec.ofNat 16 (l.coreOf i) else 0
  | none => 0

/-- SPAD_GNT0 and SPAD_GNT1 (R116). -/
def State.gntReg (s : State) (w : Warp) (n : Nat) : Word :=
  (List.range 64).foldl (fun (acc : Word) j =>
    if (s.core w.core).granted w.part w.ctx (64 * n + j) then acc ||| (1#64 <<< j) else acc) 0

/-- XCH_STAT (R119).  While a join is pending and the core is no member, GID reads as the group being joined: the rule says only 'group id', and this is
the model's choice (log 23). -/
def Exch.stat (x : Exch) : Word32 :=
  let idx := match x.mem with | some m => m.2 | .none => 0
  let gid := match x.mem, x.join with | some m, _ => m.1 | .none, some j => j | .none, .none => 0
  BitVec.ofBool x.mem.isSome ++ BitVec.ofBool x.join.isSome ++ BitVec.ofNat 6 idx ++ BitVec.ofNat 10 gid ++ BitVec.ofBool x.ph ++
    0#8 ++ BitVec.ofNat 5 (x.e / 8192)

/-- A register of a warp. -/
def State.warpReg (s : State) (w : Warp) (n i : Nat) : Word :=
  match n with
  | 0x0000 => w.fmode.zeroExtend 64
  | 0x0001 => BitVec.ofNat 64 (w.img % 2 ^ 56 / 8192 * 8192)
  | 0x0002 => w.winReg
  | 0x0003 => w.viewsReg.zeroExtend 64
  | 0x0004 => w.quotaReg.zeroExtend 64
  | 0x0008 => w.trpPc
  | 0x0009 => w.trpCause
  | 0x000A => w.trpAddr
  | 0x000B => w.trpLanes.zeroExtend 64
  | 0x0010 => w.id
  | 0x0011 => BitVec.ofNat 64 s.plat.cc
  | 0x0012 => BitVec.ofNat 64 s.timeNs
  | 0x0013 => w.regpc
  | 0x0020 => s.placeReg w i
  | 0x0100 => s.gntReg w 0
  | 0x0101 => s.gntReg w 1
  | 0x0102 => (s.core w.core).xch.stat.zeroExtend 64
  | _ => 0

/-- A register of a stack or a port. -/
def State.instReg (s : State) (n i : Nat) : Word :=
  let k := s.stack i
  if n ≤ 0x340 then BitVec.ofNat 64 (tget k.shcnt (n - 0x300) 0)
  else if n = 0x380 then k.scrubCtl.zeroExtend 64
  else if n = 0x381 then k.scrubLogp.zeroExtend 64
  else if n = 0x382 then k.rateReg.zeroExtend 64
  else if n < 0x3D0 then BitVec.ofNat 64 (tget k.shecnt (n - 0x390) 0)
  else if n = 0x600 then (s.port i).ctl
  else 0

/-- A context register of a partition. -/
def State.ctxReg (s : State) (p n : Nat) : Word :=
  let k := s.ctx p (n % 64)
  match n / 64 with
  | 0x11 => k.ctl
  | 0x12 => k.fqb
  | 0x13 => k.fqp
  | 0x14 => 0
  | 0x15 => k.save
  | 0x16 => k.maprec
  | _ => BitVec.ofNat 64 k.ackv

/-- A register of a partition or of the wafer. -/
def State.partReg (s : State) (p n : Nat) : Word :=
  let q := s.part p
  if n = 0x200 then q.astb
  else if n = 0x201 then q.ivlCtl.zeroExtend 64
  else if n ≤ 0x207 then q.ivlList (n - 0x202)
  else if n = 0x210 then q.mig.zeroExtend 64
  else if n < 0x230 then (s.rct p (n - 0x220)).zeroExtend 64
  else if n = 0x240 then q.shctl.zeroExtend 64
  else if n < 0x2C0 then ((q.share[n - 0x280]?).getD 0).zeroExtend 64
  else if n < 0x2D0 then (q.kdCtl (n - 0x2C0)).zeroExtend 64
  else if n = 0x400 then (s.partId p).zeroExtend 64
  else if n = 0x401 then s.wafer.shapeReg.zeroExtend 64
  else if n = 0x402 then s.wafer.nbndReg.zeroExtend 64
  else if n ≤ 0x407 then (s.qctl (n - 0x404)).zeroExtend 64
  else if n ≤ 0x40B then (s.wafer.qown[n - 0x408]?).getD 0
  else if n = 0x410 then BitVec.ofNat 64 q.version
  else if n < 0x600 then s.ctxReg p n
  else if n = 0x800 then (s.slcCtl p).zeroExtend 64
  else if n = 0x801 then q.epochW
  else (q.gangW[n - 0x808]?).getD 0

/-- The value of a listed register for a warp, or for the host, which names no warp (R443). -/
def State.regValue (s : State) (w : Option Warp) (p n i : Nat) : Word :=
  if n < 0x200 then (match w with | some w => s.warpReg w n i | none => 0)
  else if (0x300 ≤ n ∧ n < 0x400) ∨ n = 0x600 then s.instReg n i
  else s.partReg p n

/-! ## Writes -/

/-- A write to a register of a warp that is permitted (R211, R268). -/
def Warp.putReg (w : Warp) (n : Nat) (v : Word) : Warp :=
  match n with
  | 0x0000 => { w with fmode := v.truncate 32 &&& 7 }
  | 0x0008 => if w.tl then { w with trpPc := v } else w
  | 0x0009 => if w.tl then { w with trpCause := (w.trpCause &&& ~~~0x8000000F00000000) ||| (v &&& 0x8000000F00000000) } else w
  | _ => w

/-- A write to a register of a stack or a port. -/
def instPut (n i : Nat) (v : Word) : SM Unit :=
  match n with
  | 0x380 => scrubWrite i (v.truncate 32)
  | 0x381 => logpWrite i (v.truncate 32)
  | 0x382 => rateWrite i (v.truncate 32)
  | 0x600 => portWrite i v
  | _ => pure ()

/-- A write to a context register. -/
def ctxPut (p n : Nat) (v : Word) : SM Unit :=
  match n / 64 with
  | 0x11 => ctlWrite p (n % 64) v
  | 0x12 => fqbWrite p (n % 64) v
  | 0x13 => fqpWrite p (n % 64) v
  | 0x14 => resumeWrite p (n % 64) v
  | 0x15 => saveWrite p (n % 64) v
  | 0x16 => maprecWrite p (n % 64) v
  | _ => pure ()

/-- A write to a register of a partition or of the wafer, by a warp of the partition or by the host through its window (R443). -/
def partPut (auth : Bool) (p n : Nat) (v : Word) : SM Unit :=
  let x : Word32 := v.truncate 32
  if n = 0x200 then modify fun s => s.updPart p (fun q => { q with astb := v &&& 0x000FFFFFFFFF8001 })
  else if n = 0x201 then ivlCommit p x
  else if n ≤ 0x207 then stageList p (n - 0x202) v
  else if n = 0x210 then migWrite p x
  else if n < 0x230 then rctWrite p (n - 0x220) x
  else if n = 0x240 then shctlWrite p x
  else if n < 0x2C0 then shareWrite p (n - 0x280) x
  else if n < 0x2D0 then kdWrite p (n - 0x2C0) x
  else if n = 0x400 then pure ()
  else if n = 0x401 then shapeWrite auth x
  else if n = 0x402 then nbndWrite auth x
  else if n ≤ 0x407 then qctlWrite (some p) (n - 0x404) (x.getLsbD 31)
  else if n ≤ 0x40B then qownSet auth (n - 0x408) v
  else if n = 0x410 then pure ()
  else if n < 0x600 then ctxPut p n v
  else slcSet p (n - 0x800) v

/-- Writes a listed register as a supervisor, the host or a permitted user: a warp named by its identity, or the host. -/
def regPut (w : Option Nat) (p n i : Nat) (v : Word) : SM Unit := do
  let s ← get
  if n < 0x200 then
    match w with
    | some wid => modify fun s => s.updWarps (fun x => x.wid == wid) (fun x => x.putReg n v)
    | none => pure ()
  else if (0x300 ≤ n ∧ n < 0x400) ∨ n = 0x600 then instPut n i v
  else partPut (w.isNone || s.auth p) p n v

/-! ## SYSRD and SYSWR (R273, R274, R281) -/

/-- The trap of a register read, or the register's row. -/
def readCheck (s : State) (w : Warp) (n i : Nat) : Except Nat RegInfo :=
  match regInfo n with
  | none => .error 0x01
  | some r =>
    if !w.sup && !r.rdUser then .error 0x10
    else if !s.instOK w.part r.inst i then .error 0x0A
    else .ok r

/-- A user-level write is permitted. -/
def WrKind.user (k : WrKind) (tl : Bool) : Bool :=
  match k with
  | .any => true
  | .trp => tl
  | _ => false

/-- The trap of a register write, or the register's row. -/
def writeCheck (s : State) (w : Warp) (n i : Nat) : Except Nat RegInfo :=
  match regInfo n with
  | none => .error 0x01
  | some r =>
    if !w.sup && !r.wr.user w.tl then .error 0x10
    else if !s.instOK w.part r.inst i then .error 0x0A
    else .ok r

/-! ## Halves of registers (R30) -/

/-- Bits of a register's WO and W1C fields, taken as zero in the half that a write does not name. -/
def freshBits (n : Nat) : Word :=
  match n / 64 with
  | 0x11 => 0x1C00000000000000
  | 0x13 => 0xFFFF000000000000
  | 0x14 => 0xFFFFFFFFFFFFFFFF
  | 0x18 => 0x00000000FFFF0000
  | _ => 0

/-- What an aligned read of 4 or 8 bytes gives of a register. -/
def halfRead (v : Word) (o bytes : Nat) : Word := if bytes = 8 then v else if o % 8 = 4 then v >>> 32 else v &&& 0xFFFFFFFF

/-- The value that an aligned write of 4 or 8 bytes writes to a register, or none when it writes nothing. -/
def halfWrite (wide : Bool) (cur fresh : Word) (o bytes : Nat) (v : Word) : Option Word :=
  let cur := cur &&& ~~~fresh
  if bytes = 8 then some v
  else if o % 8 = 0 then some (if wide then (cur.extractLsb' 32 32 : Word32) ++ (v.truncate 32 : Word32) else v &&& 0xFFFFFFFF)
  else if wide then some ((v.truncate 32 : Word32) ++ (cur.extractLsb' 0 32 : Word32))
  else none

/-- An access of a width that register apertures take: 4 or 8 bytes, aligned (R30). -/
def regWidth (o bytes : Nat) : Bool := (bytes == 4 || bytes == 8) && o % bytes == 0

/-! ## Register apertures (R30, R442, R443) -/

/-- The register and instance at an offset of the instanced area. -/
def instAt (o : Nat) : Option (Nat × Nat) :=
  let i := o / 4096
  let k := o % 4096 / 8
  if i < 128 ∧ k < 0x100 then some (0x300 + k, i)
  else if i < 128 ∧ k = 0x100 then some (0x600, i)
  else none

/-- A register that an aperture names: its row, or none where the access reads zero and ignores writes.  `user` is the level. -/
def aperReg (s : State) (p : Nat) (user tl write : Bool) (n : Nat) (i : Option Nat) : Option RegInfo :=
  match regInfo n with
  | none => none
  | some r =>
    let lvl := !user || (if write then r.wr.user tl else r.rdUser)
    let ins := match i with
      | none => r.inst == .none
      | some i => r.inst != .none && s.instOK p r.inst i
    if lvl && ins then some r else none

/-- Reads a register through an aperture at a level, for a warp, or for the host or an engine, which name none: the plain area, or a block of the
instanced area. -/
def regAperRead (s : State) (w : Option Warp) (user : Bool) (p n : Nat) (i : Option Nat) (o bytes : Nat) : Word :=
  let tl := w.any (fun w => w.tl)
  if !regWidth o bytes then 0
  else
    match aperReg s p user tl false n i with
    | none => 0
    | some _ => halfRead (s.regValue w p n (i.getD 0)) o bytes

/-- Writes a register through an aperture. -/
def regAperWrite (w : Option Warp) (user : Bool) (p n : Nat) (i : Option Nat) (o bytes : Nat) (v : Word) : SM Unit := do
  let s ← get
  let tl := w.any (fun w => w.tl)
  if !regWidth o bytes then pure ()
  else
    match aperReg s p user tl true n i with
    | none => pure ()
    | some r =>
      match halfWrite r.wide (s.regValue w p n (i.getD 0)) (freshBits n) o bytes v with
      | some v => regPut (w.map (fun x => x.wid)) p n (i.getD 0) v
      | none => pure ()

/-- Reads a register of an engine channel (R445); DOORBELL is write-only. -/
def chanRead (s : State) (c o bytes : Nat) : Word :=
  if regWidth o bytes ∧ o / 8 = 1 ∧ c < 4096 then halfRead (s.chan c).ctl o bytes else 0

/-- Writes a register of an engine channel; a write to DOORBELL joins the channel's doorbells, taken in order (R446). -/
def chanWrite (c o bytes : Nat) (v : Word) : SM Unit := do
  let s ← get
  if !regWidth o bytes ∨ c ≥ 4096 then pure ()
  else if o / 8 = 1 then
    match halfWrite true (s.chan c).ctl 0xFFFF o bytes v with
    | some v => chctlWrite c v
    | none => pure ()
  else if o = 0 then set (if s.plat.chanUp then s.updChan c (fun k => { k with bells := k.bells ++ [(v.extractLsb' 0 11).toNat] }) else s)
  else pure ()

/-- Reads an aperture in a partition at a level (R30). -/
def State.aperReadBy (s : State) (w : Option Warp) (user : Bool) (p off bytes : Nat) : Word :=
  if off < 0x80000 then regAperRead s w user p (off / 8) none (off % 8) bytes
  else if 0x1000000 ≤ off ∧ off < 0x2000000 then chanRead s ((off - 0x1000000) / 4096) (off % 4096) bytes
  else if 0x3000000 ≤ off ∧ off < 0x3080000 then
    match instAt (off - 0x3000000) with
    | some (n, i) => regAperRead s w user p n (some i) (off % 8) bytes
    | none => 0
  else (s.aperLine p off >>> (8 * (off % 128))).truncate 64

/-- Writes an aperture in a partition at a level. -/
def aperWriteBy (w : Option Warp) (user : Bool) (p off bytes : Nat) (v : Word) : SM Unit :=
  if off < 0x80000 then regAperWrite w user p (off / 8) none (off % 8) bytes v
  else if 0x1000000 ≤ off ∧ off < 0x2000000 then chanWrite ((off - 0x1000000) / 4096) (off % 4096) bytes v
  else if 0x3000000 ≤ off ∧ off < 0x3080000 then
    match instAt (off - 0x3000000) with
    | some (n, i) => regAperWrite w user p n (some i) (off % 8) bytes v
    | none => pure ()
  else pure ()

/-- Reads an aperture for a warp (R30). -/
def State.aperRead (s : State) (w : Warp) (off bytes : Nat) : Word := s.aperReadBy (some w) (!w.sup) w.part off bytes

/-- Writes an aperture for a warp, named by its identity; the warp is read from the state, since an earlier write may have changed it. -/
def aperWrite (wid off bytes : Nat) (v : Word) : SM Unit := do
  let s ← get
  match s.warp? wid with
  | none => pure ()
  | some w => aperWriteBy (some w) (!w.sup) w.part off bytes v

end Sys2Proof.Machine
end

