-- ==== Sys2Proof/Machine/Access.lean ====
section
/-!
DEFINITION. Memory accesses of a warp by lanes: the checks of R314 in their order, loads, stores and atomics in global memory (R315, R323)
and in the scratchpad (R115, R323), and the register apertures (R30).
-/

namespace Sys2Proof.Machine

/-- One lane's access: lane, address, bytes. -/
structure LA where
  lane : Nat
  va   : Word
  n    : Nat
  deriving DecidableEq, Repr

/-- A write to an aperture that waits for the instruction's retirement: offset, bytes, value. -/
abbrev AperPut := Nat × Nat × Word

/-- The mask of the lanes of some accesses. -/
def laneSet (xs : List LA) : Word32 := xs.foldl (fun acc x => acc ||| (1#32 <<< x.lane)) 0

/-- Traps when some access fails a check: the mask of the failing lanes and the address of the lowest (R314).  A scalar access has no
mask. -/
def failIf (vec : Bool) (xs : List LA) (bad : LA → Bool) (cause wst : Nat) : M Unit :=
  match xs.filter bad with
  | [] => pure ()
  | x :: r => throw { cause := cause, wst := wst, va := x.va, lanes := if vec then laneSet (x :: r) else 0 }

/-! ## Global memory -/

/-- The line of an access. -/
def Warp.laKey (w : Warp) (x : LA) : LineKey := w.key x.va.toNat

/-- Steps 2 to 4 of R314 for global addresses: alignment, canonical form, range locks. -/
def checkGlobal (w : Warp) (vec write : Bool) (xs : List LA) : M Unit := do
  failIf vec xs (fun x => x.va.toNat % x.n != 0) 0x05 0
  failIf vec xs (fun x => x.va.extractLsb' 56 8 != 0#8) 0x06 5
  let s ← get
  failIf vec xs (fun x => s.locked w.agent false (x.va.toNat / 128) write) 0x08 0

/-- The lines that accesses touch, in the order of the lanes. -/
def Warp.laLines (w : Warp) (xs : List LA) : List LineKey := (xs.map w.laKey).eraseDups

/-- The bytes of a line that accesses touch. -/
def Warp.needOf (w : Warp) (xs : List LA) (k : LineKey) : LineMask :=
  xs.foldl (fun acc x => if w.laKey x = k then acc ||| spanMask (x.va.toNat % 128) x.n else acc) 0

/-- What each line answered, as a table. -/
abbrev LineTab (α : Type) := List (LineKey × Except Nat α)

/-- The answer of the line of an access. -/
def tabAt {α : Type} (w : Warp) (t : LineTab α) (x : LA) : Except Nat α :=
  match t.find? (fun e => e.1 == w.laKey x) with
  | some e => e.2
  | none => .error 1

/-- Step 5 of R314: traps when the line of some access failed, with the cause of the lowest failing lane. -/
def failTab {α : Type} (w : Warp) (vec : Bool) (xs : List LA) (t : LineTab α) : M Unit :=
  let bad (x : LA) : Bool := match tabAt w t x with | .error _ => true | .ok _ => false
  match xs.find? bad with
  | none => pure ()
  | some x =>
    match tabAt w t x with
    | .error e => failIf vec xs bad (wstCause e) e
    | .ok _ => pure ()

/-- Bytes of an aperture for one lane of a warp. -/
def State.aperBytes (s : State) (w : Warp) (off n : Nat) : List Byte :=
  if n ≤ 8 then toBytes (s.aperRead w off n).toNat n
  else (List.range n).map (fun i => LineData.byte (s.aperLine w.part off) (off % 128 + i))

/-- The warp whose registers a place in the register aperture shows: the registers of a warp (R30). -/
def Warp.aperOwn (w : Warp) (off : Nat) : Option Nat := if off < 0x1000 then some w.wid else none

/-- The line of a value at an offset. -/
def lineAt (o : Nat) (bs : List Byte) : LineData := BitVec.ofNat 1024 (leNat bs) <<< (8 * o)

/-- What an access of a warp reads of an aperture: the bytes that the L1 holds of it, else it reads afresh (R42). -/
def State.aperAcc (s : State) (w : Warp) (r : LineRes) (off : Nat) (x : LA) : List Byte :=
  let o := x.va.toNat % 128
  let m := spanMask o x.n
  if r.held &&& m == m && r.own == w.aperOwn off && (plainAper off || regWidth o x.n) then
    (List.range x.n).map (fun i => LineData.byte r.data (o + i))
  else s.aperBytes w (off + o) x.n

/-- The L1 holds what an access read of a register aperture (R30, R42); of the others it took the whole line. -/
def keepAper (w : Warp) (k : LineKey) (off : Nat) (x : LA) (bs : List Byte) : SM Unit :=
  let o := x.va.toNat % 128
  if !plainAper off && regWidth o x.n then fillAper w.core k (w.aperOwn off) (spanMask o x.n) (lineAt o bs) else pure ()

/-- Loads: what each access reads, little-endian.  Poisoned data kills the warp (R43). -/
def loadLanes (w : Warp) (vec : Bool) (lk : LoadKind) (xs : List LA) : M (LA → List Byte) := do
  memReady w
  checkGlobal w vec false xs
  let t ← (w.laLines xs).mapM (fun k => do
    let r ← (loadLine w.core k (w.needOf xs k) .load (!w.sup) lk : SM (Except Nat LineRes))
    pure (k, r))
  failTab w vec xs t
  failIf vec xs (fun x => match tabAt w t x with | .ok r => r.poi | .error _ => false) 0x13 0
  let s ← get
  let f (x : LA) : List Byte :=
    match tabAt w t x with
    | .ok r =>
      match r.aper with
      | some a => s.aperAcc w r a x
      | none => (List.range x.n).map (fun i => LineData.byte r.data (x.va.toNat % 128 + i))
    | .error _ => []
  let ap (x : LA) : Option Nat := match tabAt w t x with | .ok r => r.aper | .error _ => none
  if !lk.mem then
    xs.forM (fun x =>
      match ap x with
      | some a => (keepAper w (w.laKey x) a x (f x) : SM Unit)
      | none => pure ())
  pure f

/-- The bytes that stores put into a line: mask and data, a higher lane over a lower (R163). -/
def Warp.storeData (w : Warp) (xs : List (LA × List Byte)) (k : LineKey) : LineMask × LineData :=
  xs.foldl (fun (acc : LineMask × LineData) (x : LA × List Byte) =>
    if w.laKey x.1 = k then
      let o := x.1.va.toNat % 128
      let m := spanMask o x.1.n
      (acc.1 ||| m, mergeLine m acc.2 (lineAt o x.2))
    else acc) (0, 0)

/-- The registers of 8 bytes that accesses touch in a line. -/
def Warp.unitsOf (w : Warp) (xs : List LA) (k : LineKey) : LineMask :=
  xs.foldl (fun acc x => if w.laKey x = k then acc ||| spanMask (x.va.toNat % 128 / 8 * 8) (max 8 x.n) else acc) 0

/-- The checks of a store, then what it does: lines are written only when every lane has passed (R315).  Aperture writes are given back; the L1
does not go on holding what they write. -/
def storeLanes (w : Warp) (vec home strm : Bool) (before : M Unit) (xs : List (LA × List Byte)) : M (List AperPut) := do
  memReady w
  let las := xs.map (fun x => x.1)
  checkGlobal w vec true las
  let t ← (w.laLines las).mapM (fun k => do
    let r ← (probeLine w.core k .store (!w.sup) : SM (Except Nat (Option Nat)))
    pure (k, r))
  failTab w vec las t
  before
  t.forM (fun e =>
    match e.2 with
    | .ok none =>
      let (m, d) := w.storeData xs e.1
      (storeLine w.core e.1 m d (!w.sup) home strm : SM Unit)
    | .ok (some _) => (dropAper w.core e.1 (w.unitsOf las e.1) : SM Unit)
    | .error _ => pure ())
  pure (xs.filterMap (fun x =>
    match tabAt w t x.1 with
    | .ok (some a) => some (a + x.1.va.toNat % 128, x.1.n, BitVec.ofNat 64 (leNat x.2))
    | _ => none))

/-- Runs an instruction that may write apertures: the warp retires, then its aperture writes are made in lane order (R30). -/
def runPuts (w : Warp) (m : M (Warp × List AperPut)) (s : State) : Out :=
  match runM w (do let r ← m; pure r.1) s, m.run.run s with
  | .next t, (.ok r, u) =>
    if (s.stalled u).isSome || (u.warp? w.wid).any (fun x => x.st == .killed && w.st != .killed) then .next t
    else .next (s.finish w ((r.2.forM (fun (a : AperPut) => aperWrite w.wid a.1 a.2.1 a.2.2)).run t).2)
  | o, _ => o

/-! ## Scratchpad -/

/-- Steps 2 to 4 of R314 for scratchpad offsets, and the wait for a page that is being returned (R114). -/
def checkPad (w : Warp) (write : Bool) (xs : List LA) : M Unit := do
  failIf true xs (fun x => x.va.toNat % x.n != 0) 0x05 0
  let s ← get
  failIf true xs (fun x => !s.padOK w.core w.part w.ctx x.va.toNat x.n) 0x0D 0
  failIf true xs (fun x => s.locked w.agent true (x.va.toNat / 128) write) 0x08 0
  if xs.any (fun x => s.padWait w.core x.va.toNat x.n) then throw (waitAt w.mid)

/-! ## Atomics -/

/-- The step of an atomic on one lane: from the old value, the new value, or none when nothing is written. -/
abbrev AtomStep := LA → Word → Option Word

/-- A lane's value from its bytes. -/
def leWord (bs : List Byte) : Word := BitVec.ofNat 64 (leNat bs)

/-- The accesses of a line taken one after the other from its bytes: the bytes after them, those written, and what each found; an
access that changes no byte is no write (R93, R165). -/
def atomSteps (f : AtomStep) (xs : List LA) (d : LineData) : LineData × LineMask × List (Nat × Word) :=
  xs.foldl (fun (acc : LineData × LineMask × List (Nat × Word)) x =>
    let o := x.va.toNat % 128
    let old := leWord ((List.range x.n).map (fun i => LineData.byte acc.1 (o + i)))
    let vs := acc.2.2 ++ [(x.lane, old)]
    match f x old with
    | some v =>
      let d := mergeLine (spanMask o x.n) acc.1 (lineAt o (toBytes v.toNat x.n))
      (d, if d = acc.1 then acc.2.1 else acc.2.1 ||| spanMask o x.n, vs)
    | none => (acc.1, acc.2.1, vs)) (d, 0, [])

/-- Performs an atomic on the lanes that name one line of global memory: in the L1, or at the home in one step (R93, R323); what each found. -/
def atomLine (w : Warp) (home : Bool) (f : AtomStep) (k : LineKey) (xs : List LA) : SM (List (Nat × Word)) := do
  if home then
    match ← atomicHome w.core k (!w.sup) (fun d => ((atomSteps f xs d).1, (atomSteps f xs d).2.1)) with
    | .ok r => pure (atomSteps f xs r.data).2.2
    | .error _ => pure []
  else
    match ← loadLine w.core k (w.needOf xs k) .atomic (!w.sup) {} with
    | .ok r => do
      let (d, m, vs) := atomSteps f xs r.data
      if m ≠ 0 then storeLine w.core k m d (!w.sup) false false
      pure vs
    | .error _ => pure []

/-- The line of an atomic as step 5 of R314 finds it: an aperture gives PA_RANGE (R323). -/
def atomProbe (w : Warp) (home : Bool) (need : LineMask) (k : LineKey) : SM (Except Nat LineRes) := do
  let r ← (if home then homePeek w.core k (!w.sup) else loadLine w.core k need .atomic (!w.sup) {})
  match r with
  | .error e => pure (.error e)
  | .ok r =>
    if r.aper.isSome then pure (.error 4)
    else do
      if home && r.poi then do
        let _ ← atomicHome w.core k (!w.sup) (fun _ => (0, 0))
        pure ()
      pure (.ok r)

/-- An atomic on lanes of global memory: the checks, what precedes it, then the lines with their lanes in ascending order; each lane's old value. -/
def atomLanes (w : Warp) (home : Bool) (before : M Unit) (f : AtomStep) (xs : List LA) : M (List (Nat × Word)) := do
  memReady w
  checkGlobal w true true xs
  let t ← (w.laLines xs).mapM (fun k => do
    let r ← (atomProbe w home (w.needOf xs k) k : SM (Except Nat LineRes))
    pure (k, r))
  failTab w true xs t
  failIf true xs (fun x => match tabAt w t x with | .ok r => r.poi | .error _ => false) 0x13 0
  before
  let vs ← (w.laLines xs).mapM (fun k => do
    let vs ← (atomLine w home f k (xs.filter (fun x => w.laKey x == k)) : SM (List (Nat × Word)))
    pure vs)
  pure vs.flatten

/-- An atomic on lanes of the scratchpad. -/
def atomPad (w : Warp) (before : M Unit) (f : AtomStep) (xs : List LA) : M (List (Nat × Word)) := do
  checkPad w true xs
  before
  xs.mapM (fun x => do
    let s ← get
    let old := leWord (s.padRead w.core x.va.toNat x.n)
    match f x old with
    | some v => set (s.padWrite w.core x.va.toNat (toBytes v.toNat x.n))
    | none => pure ()
    pure (x.lane, old))

/-- The value of a lane in a list of old values. -/
def laneOld (vs : List (Nat × Word)) (l : Nat) : Word := ((vs.find? (fun e => e.1 == l)).map (fun e => e.2)).getD 0

end Sys2Proof.Machine
end

