-- ==== Sys2Proof/Machine/Engine.lean ====
section
/-!
DEFINITION. The engine group, OPC 0xD0-0xDB (R347-R369), and the issue of stack-engine operations (R152-R154).
-/

namespace Sys2Proof.Machine

/-! ## Descriptors and ranges -/

/-- Bytes of a descriptor within one line, read as a load of the warp. -/
def descPart (g : Agent) (a : Word) (n : Nat) : M (List Byte) := do
  if a.extractLsb' 56 8 != 0#8 then throw { cause := 0x06, wst := 5, va := a }
  let r ← orTrap a.toNat (loadLine g.core (g.key a.toNat) (spanMask (a.toNat % 128) n) .load g.user {})
  if r.poi then throw { cause := 0x13, va := a }
  let s ← get
  let d := match r.aper with
    | some o => s.aperLine g.part o
    | none => r.data
  pure ((List.range n).map (fun i => LineData.byte d (a.toNat % 128 + i)))

/-- A descriptor of 64 or 128 bytes at a multiple of 64. -/
def descRead (g : Agent) (a : Word) (n : Nat) : M (List Byte) := do
  let x ← descPart g a 64
  if n = 64 then pure x
  else
    let y ← descPart g (a + 64) 64
    pure (x ++ y)

/-- A field of a descriptor. -/
def fieldOf (bs : List Byte) (o n : Nat) : Nat := leNat ((bs.drop o).take n)

/-- The descriptor address is a multiple of 64. -/
def descAlign (a : Word) : M Unit := if a.toNat % 64 ≠ 0 then throw { cause := 0x05, va := a } else pure ()

/-- Raises ALIGN at the first address that is not a multiple of its bound. -/
def alignAll : List (Nat × Nat) → M Unit
  | [] => pure ()
  | (a, n) :: r => if a % n ≠ 0 then throw { cause := 0x05, va := BitVec.ofNat 64 a } else alignAll r

/-- A range that an operation accesses: a place, its bytes, and what a page of it must grant. -/
structure Rng where
  pad : Bool
  a   : Word
  n   : Nat
  acc : List Acc

/-- The pages of global ranges with what they must grant. -/
def rngPages (rs : List Rng) : List (Nat × Acc) :=
  rs.flatMap (fun r => if r.pad || r.n == 0 then [] else (pageStarts r.a r.n).flatMap (fun p => r.acc.map (fun k => (p, k))))

/-- The lowest address of a list. -/
def lowest : List Nat → Option Nat
  | [] => none
  | x :: xs => some (xs.foldl min x)

/-- The probe of R352: XLATE or PERM at the lowest failing address, then PAD_BOUND (R115). -/
def probeRngs (g : Agent) (rs : List Rng) : M Unit := do
  orProbe (probeAll g (rngPages rs))
  let s ← get
  match lowest ((rs.filter (fun r => r.pad && !s.padOK g.core g.part g.ctx r.a.toNat r.n)).map (fun r => r.a.toNat)) with
  | some a => throw { cause := 0x0D, va := BitVec.ofNat 64 a }
  | none => pure ()
  if rs.any (fun r => r.pad && s.padWait g.core r.a.toNat r.n) then throw (waitAt 0)

/-- Some range lies in host memory or an aperture: the operation completes at `.sys` (R175). -/
def rngSys (g : Agent) (rs : List Rng) : SM Bool :=
  (rngPages rs).foldlM (fun b (va, _) => do
    let s ← get
    match ← translate (bankRet (s.anchor (g.key va))) g.part g.asid va false with
    | .ok f => pure (b || decide (2 ≤ f.pa / 2 ^ 50))
    | .error _ => pure b) false

/-- The range of a completion record. -/
def crecRng (a : Nat) : List Rng := if a = 0 then [] else [{ pad := false, a := BitVec.ofNat 64 a, n := 32, acc := [.store] }]
/-- The range of a join record. -/
def jrecRng (a : Nat) : List Rng := if a = 0 then [] else [{ pad := false, a := BitVec.ofNat 64 a, n := 32, acc := [.load, .store] }]

/-- The lock on the bounding interval of ranges. -/
def boundLock (rs : List Rng) (wr : Bool) : List Lock :=
  match rs with
  | [] => []
  | r :: _ =>
    let lo := (rs.map (fun x => x.a.toNat)).foldl min r.a.toNat
    let hi := (rs.map (fun x => x.a.toNat + x.n)).foldl max 0
    if hi ≤ lo then [] else [lockOf r.pad lo (hi - lo) wr]

/-- The lowest line that two lists of ranges share. -/
def firstClash (xs ys : List Rng) : Option Nat :=
  let lk (r : Rng) : Lock := lockOf r.pad r.a.toNat r.n false
  lowest ((xs.filter (fun r => r.n != 0)).flatMap (fun x =>
    ((ys.filter (fun r => r.n != 0)).filter (fun y => (lk x).meets (lk y))).map (fun y => max (lk x).lo (lk y).lo)))

/-- A new operation of an agent. -/
def newOp (g : Agent) (wid launch : Nat) (d : OpDesc) (crec jrec : Nat) (locks : List Lock) (sys : Bool) : EngOp :=
  { oid := 0, desc := d, wid := wid, core := g.core, part := g.part, ctx := g.ctx, asid := g.asid, launch := launch, user := g.user,
    prog := 0, status := 0, freed := false, posted := false, batch := 0, crec := crec, jrec := jrec, locks := locks, ring := none, cmask := 0,
    fill := false, sys := sys, host := false, held := false, stop := false, row := [] }

/-- The operation of an engine instruction as it was checked and copied at issue (R351, R360, R364): an instruction that waits keeps it. -/
def issued (w : Warp) (m : M EngOp) : M EngOp :=
  match w.hold.bind (fun h => h.op) with
  | some o => pure o
  | none => do
    let o ← m
    modify fun s => s.updWarps (fun x => x.wid == w.wid) (fun x => { x with hold := some { op := some o, turn := 0, head := 0 } })
    pure o

/-- The warp goes on behind an engine instruction (R399). -/
def Warp.engDone (w : Warp) : Warp := w.retireRegion (nextSlot w.pc)

/-! ## Copies (R351-R354) -/

/-- A copy as asked for: its descriptor, its ring header, its records; `fill` marks an RFILL (R360). -/
structure CopyReq where
  x    : XDesc
  ring : Option Word
  crec : Nat
  jrec : Nat
  fill : Bool := false

/-- Rows of a copy in order: source and destination address. -/
def XDesc.rowList (x : XDesc) : List (Word × Word) :=
  (List.range x.planes).flatMap (fun z => (List.range x.rows).map (fun y =>
    (x.src + BitVec.ofNat 64 z * x.sstr2 + BitVec.ofNat 64 y * x.sstr1, x.dst + BitVec.ofNat 64 z * x.dstr2 + BitVec.ofNat 64 y * x.dstr1)))

/-- Source ranges. -/
def XDesc.srcRngs (x : XDesc) : List Rng := x.rowList.map (fun r => { pad := x.spad, a := r.1, n := x.len, acc := [.load] })
/-- Destination ranges. -/
def XDesc.dstRngs (x : XDesc) : List Rng := x.rowList.map (fun r => { pad := x.dpad, a := r.2, n := x.len, acc := [.store] })

/-- Steps 3 and 4 of R352 on a descriptor, for an XCP of a dimension or the dimension that the counts describe (R354). -/
def copyReq (bs : List Byte) (dim : Option Nat) : M CopyReq := do
  let f := fieldOf bs
  let wd (o : Nat) : Word := BitVec.ofNat 64 (f o 8)
  let len := f 48 4
  let rows := f 52 4
  let planes := f 56 4
  let flags := f 60 4
  let ring := flags / 4 % 2 == 1
  let dim := dim.getD (if planes > 1 then 3 else if rows > 1 then 2 else 1)
  alignAll ([(f 64 8, 32), (f 72 8, 32)] ++ (if ring then [(f 8 8, 64)] else []))
  let two := dim ≥ 2 || (rows == 1 && f 16 8 == 0 && f 24 8 == 0)
  let three := dim ≥ 3 || (planes == 1 && f 32 8 == 0 && f 40 8 == 0)
  let cnt (n lim : Nat) : Bool := decide (1 ≤ n) && decide (n ≤ lim)
  if !(cnt len 16777216 && cnt rows 65536 && cnt planes 65536 && two && three) || flags ≥ 8 || f 80 48 ≠ 0 ||
      (ring && flags / 2 % 2 == 1) then throw (trapOf 0x01)
  pure { x := { src := wd 0, dst := wd 8, sstr1 := wd 16, dstr1 := wd 24, sstr2 := wd 32, dstr2 := wd 40, len := len, rows := rows,
                planes := planes, spad := flags % 2 == 1, dpad := flags / 2 % 2 == 1 },
         ring := if ring then some (wd 8) else none, crec := f 64 8, jrec := f 72 8 }

/-- Steps 5 to 7 of R352; whether the operation completes at `.sys`. -/
def copyChecks (g : Agent) (q : CopyReq) : M Bool := do
  let hd ← (match q.ring with
    | some a => do
      let r ← ringRead g a
      pure (some r)
    | none => pure none : M (Option Ring))
  let dst : List Rng := match hd with
    | some r => [{ pad := r.pad, a := BitVec.ofNat 64 r.base, n := r.slotsz * r.nslot, acc := [.store] }]
    | none => q.x.dstRngs
  let rs := q.x.srcRngs ++ dst ++ crecRng q.crec
  probeRngs g (rs ++ jrecRng q.jrec)
  match firstClash q.x.srcRngs dst with
  | some l => throw { cause := 0x08, va := BitVec.ofNat 64 (128 * l) }
  | none => pure ()
  if hd.any (fun r => !r.ok g.core) then throw (trapOf 0x16)
  rngSys g rs

/-- Claims the next slot of a ring (R359): the header's counter CL and the header as the claim found it; waits while the ring is full. -/
def ringClaim (g : Agent) (a : Word) : M (Nat × Ring) := do
  let r ← ringRead g a
  if !r.ok g.core then throw (trapOf 0x16)
  if ctrDiff r.cl r.rl ≥ r.nslot || ctrDiff r.cl r.wr ≥ 64 then throw (waitAt 0)
  ringWrite g a [(16, 4, (r.cl + 1) % 2 ^ 32)]
  pure (r.cl, r)

/-- A copy that passed the checks of R352. -/
def copyOp (g : Agent) (wid launch : Nat) (q : CopyReq) : M EngOp := do
  let sys ← copyChecks g q
  pure { newOp g wid launch (.copy q.x) q.crec q.jrec [] sys with ring := q.ring.map (fun a => (a, 0)), fill := q.fill }

/-- What XCP waits for, the locks and what is done at issue (R352, R174): the operation as it is queued.  A ring's slot stands where the header that
the claim found puts it, and an RFILL copies as much as that slot holds (R360). -/
def copyStart (g : Agent) (o : EngOp) (issue : List Lock → SM Unit) : M EngOp := do
  let s ← get
  let crec := boundLock (crecRng o.crec) true
  if s.freeLocks g.core < 2 + crec.length || (s.copyq.filter (fun e => e.1 == g.core)).length ≥ 64 then throw (waitAt 0)
  match o.desc, o.ring with
  | .copy x, none => do
    let locks := boundLock x.srcRngs false ++ boundLock x.dstRngs true ++ crec
    issue locks
    pure { o with locks := locks }
  | .copy x, some (a, _) => do
    let (cl, r) ← ringClaim g a
    let at' := r.base + r.slotsz * (cl % r.nslot)
    let x : XDesc := { x with dst := BitVec.ofNat 64 at', dpad := r.pad, len := if o.fill then r.slotsz else x.len }
    let locks := boundLock x.srcRngs false ++ [lockOf r.pad at' r.slotsz true] ++ crec
    issue locks
    pure { o with desc := .copy x, locks := locks, ring := some (a, cl) }
  | _, _ => pure o

/-- Queues a copy of a core (R352). -/
def queueCopy (core oid : Nat) : SM Unit := modify fun s => { s with copyq := s.copyq ++ [(core, oid)] }

/-- Checks, issues and queues a copy of a warp, named by a request that is read once. -/
def warpCopy (w : Warp) (m : M CopyReq) : M Warp := do
  let o ← issued w (do copyOp w.agent w.wid w.launch (← m))
  let o ← copyStart w.agent o (issueRelease w.agent)
  let (w, oid) ← addOp w o
  queueCopy w.core oid
  pure w.engDone

/-- Code of a dimension. -/
def dimNat : XDim → Nat
  | .d1 => 1
  | .d2 => 2
  | .d3 => 3

/-- XCP.1d, XCP.2d, XCP.3d (R351-R353). -/
def execXcp (dim : XDim) (a : SReg) (s : State) : Out :=
  withWarp s fun w => runM w (do
    descAlign (w.s a)
    memReady w
    warpCopy w (do copyReq (← descRead w.agent (w.s a) 128) (some (dimNat dim)))) s

/-- Address of a template (R354). -/
def tmplVa (i : Nat) : Word := BitVec.ofNat 64 (0x00FFFFFFFFFB0000 + 128 * (i % 2048))

/-- XCP.tmpl (R354). -/
def execXcpTmpl (a : SReg) (s : State) : Out :=
  withWarp s fun w => runM w (do
    memReady w
    warpCopy w (do copyReq (← descRead w.agent (tmplVa (w.s a).toNat) 128) none)) s

/-! ## Batches (R355, R356) -/

/-- XBATCH (R355). -/
def execXbatch (d : SReg) (s : State) : Out :=
  withWarp s fun w =>
    if w.batches.length ≥ 63 then .next (s.setWarp (w.waiting 0))
    else
      let b := w.nbatch
      let s : State := { s with ops := s.ops.map (fun (o : EngOp) => if w.pend.contains o.oid then { o with batch := b } else o) }
      let w : Warp := { w with batches := w.batches ++ [(b, w.pend)], pend := [], nbatch := b % 65535 + 1 }
      .next (s.setWarp (w.setS d (BitVec.ofNat 64 b)).engDone)

/-- The held batches that XWAIT n covers (R356). -/
def Warp.covered (w : Warp) (n : Nat) : List (Nat × List Nat) :=
  if n = 0 then [] else w.batches.filter (fun b => (n + 65535 - b.1) % 65535 < 32768)

/-- XWAIT (R356). -/
def execXwait (a : SReg) (s : State) : Out :=
  withWarp s fun w => runM w (do
    let s ← get
    let cov := w.covered ((w.s a).toNat % 65536)
    let ops := (cov.flatMap (fun b => b.2)).filterMap s.op?
    let sc : Scope := if ops.any (fun o => o.sys) then .sys else .wafer
    if ops.any (fun o => !o.posted) || (ops != [] && s.acqWaits w sc) then throw (waitAt 0)
    if ops ≠ [] then acqAt w sc
    let ok := ops.all (fun o => o.status == 1 || o.status == 3)
    let w : Warp := { w with batches := w.batches.filter (fun b => !cov.contains b), z := ok, n := false, c := false, v := false }
    modify fun s => (s.setWarp w).gcOps
    pure w.engDone) s

/-! ## Rings (R357-R362) -/

/-- The header of a ring instruction: its alignment, then its read. -/
def ringHead (w : Warp) (a : Word) : M Ring := do
  descAlign a
  memReady w
  ringRead w.agent a

/-- A ring operation's fill went to the ring at a place as a warp names it. -/
def EngOp.fills (o : EngOp) (w : Warp) (a : Word) : Option Nat :=
  match o.ring with
  | some (b, seq) => if b = a ∧ (if a.msb then o.core == w.core else o.part == w.part && o.asid == w.asid) then some seq else none
  | none => none

/-- Forgets completed fills of a ring that meet a condition. -/
def dropFills (w : Warp) (a : Word) (p : Nat → Bool) : SM Unit :=
  modify fun s => State.gcOps { s with ops := s.ops.map (fun o =>
    if o.posted && (o.fills w a).any p then { o with ring := none } else o) }

/-- RINIT (R358). -/
def execRinit (a b : SReg) (s : State) : Out :=
  withWarp s fun w => runM w (do
    let r ← ringHead w (w.s a)
    let n := (w.s b).toNat
    if n = 0 || n > 4096 || r.cl ≠ r.wr || !r.baseOK then throw (trapOf 0x16)
    release w .wafer
    ringWrite w.agent (w.s a) [(12, 2, n), (15, 1, 0), (16, 24, 0), (40, 2, w.core)]
    dropFills w (w.s a) (fun _ => true)
    pure w.engDone) s

/-- Warps whose RAWAIT waits at the header that a warp names, with their turns (R361). -/
def State.awaiting (s : State) (w : Warp) (a : Word) : List (Nat × Nat) :=
  s.warps.filterMap (fun x =>
    match x.hold with
    | some h => if h.op.isNone && h.head == a && (if a.msb then x.core == w.core else x.part == w.part && x.asid == w.asid)
        then some (x.wid, h.turn) else none
    | none => none)

/-- A RAWAIT takes before every other that waits at its ring: takes are granted in the order in which they reached the header's home (R361). -/
def State.awaitTurn (s : State) (w : Warp) (a : Word) : Bool :=
  let ws := s.awaiting w a
  match ws.find? (fun e => e.1 == w.wid) with
  | some me => ws.all (fun e => decide (me.2 ≤ e.2))
  | none => ws == []

/-- A RAWAIT waits at its ring and keeps its turn. -/
def awaitHold (w : Warp) (a : Word) : SM Unit := do
  let s ← get
  if !(s.awaiting w a).any (fun e => e.1 == w.wid) then
    let s := s.updWarps (fun x => x.wid == w.wid) (fun x => { x with hold := some { op := none, turn := s.fresh, head := a } })
    set { s with fresh := s.fresh + 1 }

/-- RAWAIT (R361). -/
def execRawait (d a : SReg) (s : State) : Out :=
  withWarp s fun w => runM w (do
    let r ← ringHead w (w.s a)
    if !r.ok w.core then throw (trapOf 0x16)
    let s ← get
    let sc : Scope := if s.ops.any (fun o => o.sys && o.fills w (w.s a) == some r.tk) then .sys else .wafer
    if r.tk = r.wr || s.acqWaits w sc || !s.awaitTurn w (w.s a) then do
      awaitHold w (w.s a)
      throw (waitAt 0)
    ringWrite w.agent (w.s a) [(24, 4, (r.tk + 1) % 2 ^ 32)]
    acqAt w sc
    dropFills w (w.s a) (fun q => q == r.tk)
    let w : Warp := w.setS d (BitVec.ofNat 64 (r.tk % r.nslot))
    pure ({ w with z := r.err == 0, n := false, c := false, v := r.err != 0 } : Warp).engDone) s

/-- RREL (R362). -/
def execRrel (a b : SReg) (s : State) : Out :=
  withWarp s fun w => runM w (do
    let r ← ringHead w (w.s a)
    if !r.ok w.core || r.tk = r.rl || (w.s b).toNat ≠ r.rl % r.nslot then throw (trapOf 0x16)
    release w .wafer
    ringWrite w.agent (w.s a) [(28, 4, (r.rl + 1) % 2 ^ 32)]
    pure w.engDone) s

/-- RFILL (R360). -/
def execRfill (a b : SReg) (s : State) : Out :=
  withWarp s fun w => runM w (do
    descAlign (w.s a)
    memReady w
    warpCopy w (do
      let r ← ringRead w.agent (w.s a)
      pure { x := { src := (w.s b).setWidth 63 |>.setWidth 64, dst := w.s a, sstr1 := 0, dstr1 := 0, sstr2 := 0, dstr2 := 0,
                    len := r.slotsz, rows := 1, planes := 1, spad := (w.s b).msb, dpad := false },
             ring := some (w.s a), crec := 0, jrec := 0, fill := true })) s

/-! ## Stack-engine operations (R152-R154, R363) -/

/-- Bytes of a row of W (R152). -/
def MDesc.rowBytes (m : MDesc) : Nat := if m.wfmt = 0 then 2 * m.k else if m.wfmt = 1 then 18 * m.k / 16 else 12 * m.k / 16
/-- Bytes of an element of y. -/
def MDesc.yBytes (m : MDesc) : Nat := if m.yfmt then 2 else 4
/-- The rows of W as ranges. -/
def MDesc.wRngs (m : MDesc) : List Rng :=
  (List.range m.m).map (fun i => { pad := false, a := BitVec.ofNat 64 (m.wva + i * m.wstr), n := m.rowBytes, acc := [.load] })
/-- x as a range. -/
def MDesc.xRng (m : MDesc) : Rng := { pad := m.xsrc, a := BitVec.ofNat 64 m.xva, n := 2 * m.k, acc := [.load] }
/-- y as a range. -/
def MDesc.yRng (m : MDesc) : Rng := { pad := m.ydst, a := BitVec.ofNat 64 m.yva, n := m.yBytes * m.m, acc := [.store] }

/-- The stack that an affine page names; none for a page whose leaf has AFF = 0 (R153). -/
def pageStack (g : Agent) (va : Nat) : SM (Option Nat) := do
  let s ← get
  match ← translate (bankRet (s.anchor (g.key va))) g.part g.asid va false with
  | .ok f => pure (if f.aff then some (f.pa / 2 ^ 36 % 64) else none)
  | .error _ => pure none

/-- The one stack of the pages of W, else XLATE with PA_RANGE at the lowest page that breaks R153. -/
def stackOf (g : Agent) (rs : List Rng) : M Nat := do
  let vas := (rngPages rs).map (fun q => q.1)
  let ks ← (vas.mapM (fun va => do
    let k ← pageStack g va
    pure (va, k)) : SM (List (Nat × Option Nat)))
  let low := (lowest vas).getD 0
  let k0 := ((ks.find? (fun e => e.1 == low)).map (fun e => e.2)).getD none
  match lowest ((ks.filter (fun e => e.2.isNone || e.2 != k0)).map (fun e => e.1)), k0 with
  | none, some k => pure k
  | some va, _ => throw { cause := 0x06, wst := 4, va := BitVec.ofNat 64 va }
  | none, none => throw { cause := 0x06, wst := 4, va := BitVec.ofNat 64 low }

/-- The descriptor of an MVS with its checks of form (R153): ILLEGAL, then ALIGN. -/
def mvsReq (bs : List Byte) : M MDesc := do
  let f := fieldOf bs
  let fl := f 36 4
  let m : MDesc := { wva := f 0 8, xva := f 8 8, yva := f 16 8, m := f 24 4, k := f 28 4, wstr := f 32 4, wfmt := fl % 4,
                     xsrc := fl / 4 % 2 == 1, ydst := fl / 8 % 2 == 1, yfmt := fl / 16 % 2 == 1, stack := 0 }
  if m.wfmt = 3 || fl ≥ 32 || f 56 8 ≠ 0 then throw (trapOf 0x01)
  if m.m = 0 || m.m > 65536 || m.k < 16 || m.k > 65536 || m.k % 16 ≠ 0 || m.wstr % 2 ≠ 0 || m.wstr < m.rowBytes then
    throw (trapOf 0x05)
  alignAll [(m.wva, 2), (m.xva, 2), (m.yva, m.yBytes), (f 40 8, 32), (f 48 8, 32)]
  pure m

/-- An MVS that passed the checks of R153. -/
def mvsOp (g : Agent) (wid launch : Nat) (bs : List Byte) : M EngOp := do
  let m ← mvsReq bs
  let crec := fieldOf bs 40 8
  let jrec := fieldOf bs 48 8
  let xy := [m.xRng, m.yRng]
  let jr := (jrecRng jrec).map (fun r => { r with acc := [.store] })
  orProbe (probeAll g (rngPages (m.wRngs ++ xy ++ crecRng crec ++ jr)))
  let k ← stackOf g m.wRngs
  probeRngs g (xy.filter (fun r => r.pad))
  let sys ← rngSys g (xy ++ crecRng crec)
  let locks := boundLock m.wRngs false ++ boundLock [m.xRng] false ++ boundLock [m.yRng] true ++ boundLock (crecRng crec) true
  pure (newOp g wid launch (.mvs { m with stack := k }) crec jrec locks sys)

/-- The stack of an operation's engine. -/
def EngOp.engine (o : EngOp) : Nat := match o.desc with | .mvs m => m.stack | _ => 0

/-- MVS (R152-R154, R363). -/
def execMvs (a : SReg) (s : State) : Out :=
  withWarp s fun w => runM w (do
    descAlign (w.s a)
    memReady w
    let o ← issued w (do mvsOp w.agent w.wid w.launch (← descRead w.agent (w.s a) 64))
    let s ← get
    if s.freeLocks w.core < o.locks.length || (s.stack o.engine).queue.length ≥ 64 then throw (waitAt 0)
    issueRelease w.agent o.locks
    let (w, oid) ← addOp w o
    modify fun s => s.updStack o.engine (fun x => { x with queue := x.queue ++ [oid] })
    pure w.engDone) s

/-! ## Collectives (R364-R367) -/

/-- OP of CRED. -/
def credOp (k : Nat) : RedOp :=
  match k with
  | 0 => .add | 1 => .min | 2 => .max | 3 => .and | 4 => .or | _ => .xor

/-- TY of a code of R239 that CRED takes. -/
def credTy (k : Nat) : Option Ty :=
  match k with
  | 0 => some .b32 | 3 => some .i32 | 4 => some .i64 | 7 => some .n32 | 8 => some .n64 | 10 => some .bf16 | 11 => some .f32
  | 15 => some .b64
  | _ => none

/-- The fields of a collective descriptor. -/
def collOf (bs : List Byte) : CDesc :=
  let f := fieldOf bs
  { src := f 0 8, dst := f 8 8, len := f 16 4, count := f 20 1, op := f 21 1, ty := f 22 1, whr := f 23 1, key := f 24 4, root := f 28 2,
    tmask := BitVec.ofNat 64 (f 48 8), gid := 0, member := 0 }

/-- A field of a CRED or CAG descriptor breaks R364. -/
def collBad (bs : List Byte) (c : CDesc) (cag : Bool) : Bool :=
  let f := fieldOf bs
  c.len > 16777216 || c.count > 64 || c.whr > 1 || f 30 2 != 0 || f 48 16 != 0 ||
    (if cag then c.op != 0 || c.ty != 0 || c.root != 0xFFFF
     else c.op > 5 || (match credTy c.ty with
      | none => true
      | some t => c.len % t.bytes != 0 || (t == .bf16 && c.op > 2)))

/-- Reads bytes of global memory for an engine, or none when an access fails. -/
def engBytes (g : Agent) (va : Word) : Nat → Nat → SM (Option (List Byte))
  | 0, _ => pure (some [])
  | k + 1, n =>
    if n = 0 then pure (some [])
    else do
      let m := min n (128 - va.toNat % 128)
      match ← engRead g va m with
      | none => pure none
      | some xs =>
        match ← engBytes g (va + BitVec.ofNat 64 m) k (n - m) with
        | none => pure none
        | some ys => pure (some (xs ++ ys))

/-- Writes bytes of global memory for an engine: how many were written before the first access that fails. -/
def engPut (g : Agent) (va : Word) : Nat → List Byte → SM Nat
  | 0, _ => pure 0
  | k + 1, bs =>
    if bs = [] then pure 0
    else do
      let m := min bs.length (128 - va.toNat % 128)
      if ← engWrite g va (bs.take m) then do
        let r ← engPut g (va + BitVec.ofNat 64 m) k (bs.drop m)
        pure (m + r)
      else pure 0

/-- Lines that `n` bytes can touch, and one more. -/
def lineCap (n : Nat) : Nat := n / 128 + 2

/-- `n` bytes of elements that each hold a value. -/
def fillElems (v : Word) (size n : Nat) : List Byte := ((List.replicate (n / size) (toBytes v.toNat size)).flatten)

/-- An operation ends at issue as EMPTY (R365): D is 3. -/
def emptyOp (w : Warp) (d : SReg) (o : EngOp) (n : Nat) : SM Warp := do
  let (w, oid) ← addOp w { o with status := 3, prog := n, locks := [] }
  let w := w.setS d 3
  modify fun s => s.setWarp w
  completeOp oid
  pure w.engDone

/-- The number of members that can take part (R365). -/
def State.liveMembers (s : State) (w : Warp) (whr gid : Nat) : Nat :=
  if whr = 0 then (match s.group? w.part gid with
    | some g => (g.members.filter (fun m => s.coreLive m.core)).length
    | none => 0)
  else (popV (s.reach w.part)).toNat

/-- The open instance that a contribution joins: of the members' sharing group, or of their job, named by its ASID (R365, log 50). -/
def State.openColl (s : State) (p whr gid key : Nat) : Option Coll :=
  s.colls.find? (fun x => x.part == p && x.whr == whr && x.gid == gid && x.key == key)

/-- The member of a collective has contributed to the open instance (R365). -/
def State.contributed (s : State) (p : Nat) (c : CDesc) : Bool :=
  (s.openColl p c.whr c.gid c.key).any (fun x => x.contribs.any (fun e => e.1 == c.member))

/-- A contribution arrives at its instance, which it opens when there is none (R365). -/
def contribute (p gid : Nat) (c : CDesc) (cag : Bool) (oid : Nat) (bs : List Byte) : SM Unit :=
  modify fun s =>
    match s.openColl p c.whr gid c.key with
    | none =>
      { s with fresh := s.fresh + 1,
               colls := s.colls ++ [{ cid := s.fresh, part := p, whr := c.whr, gid := gid, key := c.key, len := c.len, op := c.op,
                                      ty := c.ty, count := c.count, root := c.root, cag := cag, contribs := [(c.member, oid, bs)],
                                      bad := false, gone := false }] }
    | some x =>
      let same := x.len == c.len && x.op == c.op && x.ty == c.ty && x.count == c.count && x.root == c.root && x.cag == cag
      { s with colls := s.colls.map (fun y =>
          if y.cid = x.cid then { y with contribs := y.contribs ++ [(c.member, oid, bs)], bad := y.bad || !same } else y) }

/-- The rank of a member among the contributors of an instance: ascending member number. -/
def Coll.rank (x : Coll) (member : Nat) : Nat := (x.contribs.filter (fun e => decide (e.1 < member))).length

/-- Destination of a collective. -/
def CDesc.dstRng (c : CDesc) (cag : Bool) : Rng :=
  { pad := false, a := BitVec.ofNat 64 c.dst, n := if cag then c.count * c.len else c.len, acc := [.store] }

/-- A CRED or CAG that passed its checks (R364, R365). -/
def collOp (w : Warp) (bs : List Byte) (cag : Bool) : M EngOp := do
  let g := w.agent
  let c := collOf bs
  let crec := fieldOf bs 32 8
  let jrec := fieldOf bs 40 8
  alignAll [(crec, 32), (jrec, 32)]
  let src : Rng := { pad := false, a := BitVec.ofNat 64 c.src, n := c.len, acc := [.load] }
  let dst := c.dstRng cag
  probeRngs g ([src, dst] ++ crecRng crec ++ jrecRng jrec)
  if collBad bs c cag then throw (trapOf 0x01)
  let s ← get
  let mem := (s.core w.core).xch.mem
  if c.whr = 0 ∧ mem.isNone then throw (trapOf 0x0C)
  let (gid, k) := if c.whr = 0 then mem.getD (0, 0) else (w.asid.toNat, Config.ownWafer.toNat)
  let c : CDesc := { c with gid := gid, member := k }
  if c.count > s.liveMembers w c.whr gid then throw (trapOf 0x0B)
  if s.contributed w.part c then throw (trapOf 0x0B)
  let sys ← rngSys g ([src, dst] ++ crecRng crec)
  let locks := boundLock [src] false ++ boundLock [dst] true ++ boundLock (crecRng crec) true
  pure (newOp g w.wid w.launch (if cag then .cag c else .cred c) crec jrec locks (sys || c.whr == 1))

/-- The fields of a collective operation. -/
def EngOp.coll (o : EngOp) : CDesc :=
  match o.desc with
  | .cred c => c
  | .cag c => c
  | .cmc c => c
  | _ => collOf []

/-- CRED and CAG (R364-R366); one with COUNT = 0 completes at once behind its issue release (R174).  Another warp of the member may have contributed
while it waited. -/
def collective (d a : SReg) (cag : Bool) (s : State) : Out :=
  withWarp s fun w => runM w (do
    let g := w.agent
    descAlign (w.s a)
    memReady w
    let o ← issued w (do collOp w (← descRead g (w.s a) 64) cag)
    let c := o.coll
    if c.count = 0 then do
      issueRelease g o.locks
      let t := (credTy c.ty).getD .b32
      let n ← (if cag then pure 0
        else engPut g (c.dstRng cag).a (lineCap c.len) (fillElems (redIdent (credOp c.op) t) t.bytes c.len))
      let w ← emptyOp w d o n
      pure w
    else do
      let s ← get
      if s.freeLocks w.core < o.locks.length then throw (waitAt 0)
      if s.contributed w.part c then throw (trapOf 0x0B)
      issueRelease g o.locks
      let (w, oid) ← addOp w o
      match ← engBytes g (BitVec.ofNat 64 c.src) (lineCap c.len) c.len with
      | none => modify fun s => s.updOp oid (fun x => { x with status := 5 })
      | some xs => contribute w.part c.gid c cag oid xs
      pure (w.setS d 0).engDone) s

/-- CRED (R364-R366). -/
def execCred (d a : SReg) (s : State) : Out := collective d a false s
/-- CAG (R364-R366). -/
def execCag (d a : SReg) (s : State) : Out := collective d a true s

/-- A field of a CMC descriptor breaks R364. -/
def cmcBad (bs : List Byte) (c : CDesc) : Bool :=
  c.dst ≥ 2 ^ 20 || c.len = 0 || c.len > 1048576 || c.count != 0 || c.op != 0 || c.ty != 0 || (c.whr != 255 && c.whr > 63) ||
    c.key != 0 || fieldOf bs 30 2 != 0 || fieldOf bs 56 8 != 0

/-- CMC's targets lie on the own wafer. -/
def CDesc.own (c : CDesc) : Bool := c.whr == 255 || c.whr == Config.ownWafer.toNat

/-- The coordinates that a target mask names from an origin, with the number of the mask bit (R128). -/
def CDesc.targets (c : CDesc) : List (Nat × Nat × Nat) :=
  ((List.range 64).filter (fun b => c.tmask.getLsbD b)).map (fun b => (b, c.root % 64 + b % 8, c.root / 256 % 64 + b / 8))

/-- A CMC that passed its checks, in the order of R128 on its own wafer (R364, R367); an empty mask names no target to check. -/
def cmcOp (w : Warp) (bs : List Byte) : M EngOp := do
  let g := w.agent
  let c := collOf bs
  let crec := fieldOf bs 32 8
  let jrec := fieldOf bs 40 8
  alignAll [(crec, 32), (jrec, 32)]
  let src : Rng := { pad := false, a := BitVec.ofNat 64 c.src, n := c.len, acc := [.load] }
  probeRngs g ([src] ++ crecRng crec ++ jrecRng jrec)
  if cmcBad bs c then throw (trapOf 0x01)
  let sys ← rngSys g ([src] ++ crecRng crec)
  let mine : List Rng := if c.own && c.targets.any (fun t => coreAt t.2.1 t.2.2 == w.core && decide (t.2.1 < 36))
    then [{ pad := true, a := BitVec.ofNat 64 c.dst, n := c.len, acc := [.store] }] else []
  let locks := boundLock [src] false ++ boundLock mine true ++ boundLock (crecRng crec) true
  let s ← get
  if c.tmask != 0 && c.own && c.targets.any (fun t => decide (t.2.1 ≥ 36) || decide (t.2.2 ≥ 36) || s.partOfCore (coreAt t.2.1 t.2.2) != w.part) then
    throw (trapOf 0x0A)
  if c.tmask != 0 && c.own && decide (c.dst + c.len > 0x100000) then throw { cause := 0x0D, va := BitVec.ofNat 64 c.dst }
  pure (newOp g w.wid w.launch (.cmc c) crec jrec locks (sys || !c.own))

/-- CMC (R364, R367); one with an empty mask completes at once behind its issue release (R174). -/
def execCmc (d a : SReg) (s : State) : Out :=
  withWarp s fun w => runM w (do
    let g := w.agent
    descAlign (w.s a)
    memReady w
    let o ← issued w (do cmcOp w (← descRead g (w.s a) 64))
    if o.coll.tmask = 0 then do
      issueRelease g o.locks
      let w ← emptyOp w d o 0
      pure w
    else do
      let s ← get
      if s.freeLocks w.core < o.locks.length then throw (waitAt 0)
      issueRelease g o.locks
      let (w, _) ← addOp w o
      pure (w.setS d 0).engDone) s

/-! ## Range-lock query (R368) -/

/-- RLQ (R368). -/
def execRlq (d a : SReg) (s : State) : Out :=
  withWarp s fun w => runM w (do
    let x := w.s a
    let s ← get
    if x.msb then
      if x.extractLsb' 20 43 != 0#43 then throw { cause := 0x0D, va := x }
    else if x.extractLsb' 56 8 != 0#8 then throw { cause := 0x06, wst := 5, va := x }
    let ln := (if x.msb then x.toNat % 2 ^ 20 else x.toNat) / 128
    let ks := s.locksOn w.agent x.msb ln
    let ops := (s.lockOps w.core).filter (fun o => o.part == w.part && o.asid == w.asid &&
      o.locks.any (fun l => l.pad == x.msb && decide (l.lo ≤ ln) && decide (ln ≤ l.hi)))
    let v : Word := BitVec.ofNat 64 (s.freeLocks w.core) <<< 16 ||| BitVec.ofNat 64 (min ops.length 255) <<< 8 |||
      (if ks.any (fun l => l.wr) then 2 else 0) ||| (if ks.any (fun l => !l.wr) then 1 else 0)
    pure (w.setS d v).engDone) s

end Sys2Proof.Machine
end

