-- ==== Sys2Proof/Machine/Matrix.lean ====
section
/-!
DEFINITION. The matrix group, OPC 0xC0-0xC7 (R336-R346): the format word and its checks (R219, R220), operands (R336), sums
(R221, R222), sparse operands (R341, R342), and movement and conversion (R343-R345).
-/

namespace Sys2Proof.Machine

/-! ## The format word (R219) -/

/-- AF. -/
def fwA (x : Word32) : Nat := (x.extractLsb' 0 4).toNat
/-- BF. -/
def fwB (x : Word32) : Nat := (x.extractLsb' 4 4).toNat
/-- CF. -/
def fwC (x : Word32) : Nat := (x.extractLsb' 8 4).toNat
/-- RM. -/
def fwRm (x : Word32) : RM := RM.ofCode (x.extractLsb' 12 2)
/-- SAT. -/
def fwSat (x : Word32) : Bool := x.getLsbD 14
/-- SPARSE. -/
def fwSparse (x : Word32) : Bool := x.getLsbD 15
/-- TID. -/
def fwTid (x : Word32) : Nat := (x.extractLsb' 16 8).toNat
/-- ADJ. -/
def fwAdj (x : Word32) : Int := (x.extractLsb' 24 8).toInt

/-- A format code names an N format. -/
def codeN (k : Nat) : Bool := decide (2 ≤ k) && decide (k ≤ 4)
/-- A format code names an 8-bit floating-point format. -/
def code8 (k : Nat) : Bool := k == 6 || k == 7
/-- The floating-point format of a code; FP32 for the others. -/
def codeFmt (k : Nat) : Fmt :=
  match k with
  | 0 => fmtB16
  | 1 => fmt16
  | 6 => fmtE4
  | 7 => fmtE5
  | _ => fmt32
/-- K of MMA for a format (R336). -/
def codeK (k : Nat) : Nat :=
  match k with
  | 2 => 32
  | 3 => 64
  | 4 => 128
  | 5 => 32
  | _ => 16
/-- Bytes of a row of `n` elements. -/
def codeRow (k n : Nat) : Nat :=
  if codeN k then nBytes k * (n / 16) else if k ≤ 1 then 2 * n else n

/-- The pairs of AF and BF that MMA accepts (R220). -/
def pairOK (a b : Nat) : Bool := decide (a ≤ 7) && (a == b || (code8 a && code8 b))
/-- CF goes with AF (R220): code 5 for i8, with ADJ 0, else FP32. -/
def accOK (x : Word32) : Bool := if fwA x = 5 then fwC x == 5 && fwAdj x == 0 else fwC x == 8
/-- XAF is unchecked or names AF (R242). -/
def xafOK (xaf : BitVec 4) (x : Word32) : Bool := xaf == 15#4 || xaf.toNat == fwA x

/-- The vote over the active lanes of a register's bytes (R220). -/
def voteWord (act : Word32) (d : LineData) : Except Trap Word32 :=
  match lanesOf act with
  | [] => .ok 0
  | l :: ls =>
    let x := laneW d l
    if ls.all (fun k => laneW d k == x) then .ok x else .error (trapOf 0x09)

/-- The bytes of a format register for the vote.  Those of one outside the window are free (log 36): its WINDOW check comes after the vote and
the codes (R336, R346). -/
def voteBytes (w : Warp) (c : VReg) : M (Warp × LineData) := do
  if w.spansOK [w.vSrc .b32 c] then do
    let w ← needRegs w [w.vSrc .b32 c]
    pure (w, w.vreg c)
  else do
    let s ← get
    set { s with free := s.free + 1 }
    pure (w, Config.noMemory s.free)

/-! ## Operands -/

/-- The span of `n` bytes of a tile or accumulator from a first line. -/
def byteSpan (first n : Nat) (need : Bool) : Span := ⟨first, (n + 127) / 128, need⟩
/-- The destination span of `n` bytes of names of `unit` bytes: its bytes are needed unless whole names are written (R54). -/
def destSpan (unit first n : Nat) (p : Pred) : Span := byteSpan first n (!(predFull p && n % unit == 0))
/-- A tile operand of `n` bytes spans names up to t63 (R336). -/
def tileFits (r : TReg) (n : Nat) : Bool := decide (r.toNat + (n + 511) / 512 ≤ 64)

/-- The bytes of `n` lines from a line of the window, as one number. -/
def Warp.linesNat (w : Warp) (first : Nat) : Nat → Nat
  | 0 => 0
  | n + 1 => (w.line (w.wbo + first)).toNat + 2 ^ 1024 * Warp.linesNat w (first + 1) n

/-- Element `i` of row `r` as a floating-point value. -/
def elemF (x code pitch r i : Nat) : FVal :=
  if codeN code then nElem code (x / 2 ^ (8 * (pitch * r + nBytes code * (i / 16)))) (i % 16)
  else
    let f := codeFmt code
    f.decode (x / 2 ^ (8 * pitch * r + f.width * i) % 2 ^ f.width)
/-- Element `i` of row `r` as an i8. -/
def elemI (x pitch r i : Nat) : Int := intOf .i8 (x / 2 ^ (8 * (pitch * r + i)) % 2 ^ 8)

/-- Element words of `b` bytes packed upwards, with the mask of those that are present. -/
def packElems (b : Nat) : List (Option Nat) → Nat × Nat
  | [] => (0, 0)
  | x :: xs =>
    let (m, d) := packElems b xs
    let u := 2 ^ (8 * b)
    match x with
    | some v => (m * u + (u - 1), d * u + v % u)
    | none => (m * u, d * u)

/-- Writes the elements of `b` bytes that are present, packed from a line of the window on. -/
def Warp.putElems (w : Warp) (first b : Nat) (xs : List (Option Nat)) : Warp :=
  let per := 128 / b
  (List.range ((xs.length + per - 1) / per)).foldl (fun w j =>
    let (m, d) := packElems b ((xs.drop (per * j)).take per)
    let i := w.wbo + first + j
    if m = 0 then w
    else w.putLine i (BitVec.ofNat 1024 d ||| (w.line i &&& ~~~(BitVec.ofNat 1024 m)))) w

/-- The 256 elements of a destination: element 16r + c, that lane (16r + c) div 8 owns (R337), where the lane is active. -/
def shares {α : Type} (act : Word32) (g : Nat → Nat → α) : List (Option α) :=
  (List.range 256).map (fun e => if act.getLsbD (e / 8) then some (g (e / 16) (e % 16)) else none)

/-- The bits of results. -/
def bitsOf (xs : List (Option FRes)) : List (Option Nat) := xs.map (fun x => x.map (fun r => r.bits))
/-- The results that are present. -/
def present (xs : List (Option FRes)) : List FRes := xs.filterMap id

/-! ## Sums (R221) -/

/-- EXACT_SUM of the products of a group. -/
def exactSum (rm : RM) (xs ys : List FVal) : FVal :=
  match (xs.zip ys).map (fun q => q.1.mul q.2) with
  | [] => .fin false 0 0
  | v :: vs => vs.foldl (FVal.add rm) v
/-- ROUND_ACC of an FP32 accumulator and a group's sum; a saturation in any group counts once for the element (R339). -/
def roundAcc (x : Word32) (acc : FRes) (sum : FVal) : FRes :=
  let y := fmt32.round (fwRm x) (fwSat x) (FVal.add (fwRm x) (fmt32.decode acc.bits) (sum.scale (fwAdj x)))
  { y with sat := acc.sat || y.sat }
/-- Adds a group's sum to an i32 accumulator: wraps, or clamps under SAT (R220). -/
def roundInt (x : Word32) (acc : FRes) (sum : Int) : FRes :=
  let v := (BitVec.ofNat 32 acc.bits).toInt + sum
  if fwSat x then
    let y := clampTo .i32 v
    { bits := y.bits, sat := acc.sat || y.sat }
  else { bits := lowBits 32 v }

/-- Group `g` of `n` elements. -/
def groupOf {α : Type} (l : List α) (n g : Nat) : List α := (l.drop (n * g)).take n

/-- One element: groups in ascending order. -/
def dotF (x : Word32) (n : Nat) (as bs : List FVal) (acc : Nat) : FRes :=
  (List.range (as.length / n)).foldl (fun a g => roundAcc x a (exactSum (fwRm x) (groupOf as n g) (groupOf bs n g)))
    { bits := acc }
/-- One i8 element. -/
def dotI (x : Word32) (n : Nat) (as bs : List Int) (acc : Nat) : FRes :=
  (List.range (as.length / n)).foldl (fun a g =>
    roundInt x a (((groupOf as n g).zip (groupOf bs n g)).foldl (fun t q => t + q.1 * q.2) 0)) { bits := acc }

/-- A matrix instruction with a format word: with no active lane the ranges of one name each are checked; else the vote, the check
of the word, the voted ranges and the effect (R220, R337). -/
def matrixOp (p : Pred) (c : VReg) (idle : Warp → List Span) (legal : Word32 → Word32 → Bool) (rs : Warp → Word32 → List Span)
    (f : Warp → Word32 → Word32 → SM (Warp × Cnt)) (s : State) : Out :=
  withWarp s fun w => runM w (do
    let act := w.active p
    if act = 0 then do
      let w ← needRegs w (idle w)
      pure w.retire
    else do
      let (w, d) ← voteBytes w c
      match voteWord act d with
      | .error t => throw t
      | .ok x =>
        if !legal act x then throw (trapOf 0x01)
        if !w.spansOK [w.vSrc .b32 c] then throw (trapOf 0x0E)
        let w ← needRegs w (rs w x)
        let (w, n) ← (f w act x : SM (Warp × Cnt))
        modify (fun s => s.addCnt w n)
        pure w.retire) s

/-- One name of each operand of a multiplication. -/
def mulIdle (w : Warp) (d : AReg) (a b : TReg) (c : VReg) : List Span :=
  [byteSpan (w.aOff d) 1024 false, byteSpan (w.tOff a) 512 false, byteSpan (w.tOff b) 512 false, byteSpan (w.vOff c) 128 false]
/-- The spans of a multiplication with operands of `na` and `nb` bytes. -/
def mulSpans (w : Warp) (d : AReg) (a b : TReg) (na nb : Nat) : List Span :=
  [byteSpan (w.aOff d) 1024 true, byteSpan (w.tOff a) na true, byteSpan (w.tOff b) nb true]

/-- Writes the results of a multiplication and counts them. -/
def putAcc (w : Warp) (d : AReg) (x : Word32) (rs : List (Option FRes)) : Warp × Cnt :=
  (w.putElems (w.aOff d) 4 (bitsOf rs), countOf (fwTid x) (present rs))

/-- Element (r, c) of an accumulator held as a number. -/
def accElem (x r c : Nat) : Nat := x / 2 ^ (32 * (16 * r + c)) % 2 ^ 32

/-- The rows of an operand as floating-point values. -/
def rowsF (x code pitch n : Nat) : List (List FVal) :=
  (List.range 16).map (fun r => (List.range n).map (fun i => elemF x code pitch r i))
/-- The rows of an operand as i8. -/
def rowsI (x pitch n : Nat) : List (List Int) :=
  (List.range 16).map (fun r => (List.range n).map (fun i => elemI x pitch r i))

/-! ## MMA and MMB -/

/-- MMA (R339). -/
def execMma (p : Pred) (xaf : BitVec 4) (d : AReg) (a b : TReg) (c : VReg) (s : State) : Out :=
  let size (k : Nat) : Nat := 16 * codeRow k (codeK k)
  matrixOp p c (fun w => mulIdle w d a b c)
    (fun _ x => xafOK xaf x && pairOK (fwA x) (fwB x) && accOK x && !fwSparse x &&
      tileFits a (size (fwA x)) && tileFits b (size (fwB x)))
    (fun w x => mulSpans w d a b (size (fwA x)) (size (fwB x)))
    (fun w act x =>
      let n := codeK (fwA x)
      let g := if codeN (fwA x) then 16 else 4
      let acc := w.linesNat (w.aOff d) 8
      let xa := w.linesNat (w.tOff a) ((size (fwA x) + 127) / 128)
      let xb := w.linesNat (w.tOff b) ((size (fwB x) + 127) / 128)
      if fwA x = 5 then
        let ra := rowsI xa n n
        let rb := rowsI xb n n
        pure (putAcc w d x (shares act (fun r k => dotI x g (ra.getD r []) (rb.getD k []) (accElem acc r k))))
      else
        let ra := rowsF xa (fwA x) (codeRow (fwA x) n) n
        let rb := rowsF xb (fwB x) (codeRow (fwB x) n) n
        pure (putAcc w d x (shares act (fun r k => dotF x g (ra.getD r []) (rb.getD k []) (accElem acc r k))))) s

/-- MMB (R340): sixteen 4 × 4 products. -/
def execMmb (p : Pred) (xaf : BitVec 4) (d : AReg) (a b : TReg) (c : VReg) (s : State) : Out :=
  let size (k : Nat) : Nat := 16 * codeRow k 16
  matrixOp p c (fun w => mulIdle w d a b c)
    (fun _ x => xafOK xaf x && pairOK (fwA x) (fwB x) && fwA x != 5 && !codeN (fwA x) && fwC x == 8 && !fwSparse x &&
      tileFits a (size (fwA x)) && tileFits b (size (fwB x)))
    (fun w x => mulSpans w d a b (size (fwA x)) (size (fwB x)))
    (fun w act x =>
      let acc := w.linesNat (w.aOff d) 8
      let ra := rowsF (w.linesNat (w.tOff a) ((size (fwA x) + 127) / 128)) (fwA x) (codeRow (fwA x) 16) 16
      let rb := rowsF (w.linesNat (w.tOff b) ((size (fwB x) + 127) / 128)) (fwB x) (codeRow (fwB x) 16) 16
      pure (putAcc w d x (shares act (fun r k =>
        dotF x 4 (groupOf (ra.getD r []) 4 (k / 4)) (groupOf (rb.getD k []) 4 (k / 4)) (accElem acc r k))))) s

/-! ## Sparse operands -/

/-- Row `r` of an operand in 2:4 form, expanded by its metadata word (R341). -/
def expand {α : Type} (z : α) (stored : List α) (meta' : Nat) : List α :=
  (List.range (stored.length / 2)).flatMap (fun g =>
    let i0 := meta' / 2 ^ (4 * g) % 4
    let i1 := meta' / 2 ^ (4 * g + 2) % 4
    (List.range 4).map (fun i =>
      if i = i1 then stored.getD (2 * g + 1) z else if i = i0 then stored.getD (2 * g) z else z))

/-- Metadata word of row `r`. -/
def metaWord (x r : Nat) : Nat := x / 2 ^ (64 * r) % 2 ^ 64

/-- MMS (R341). -/
def execMms (p : Pred) (xaf : BitVec 4) (mta : VReg) (d : AReg) (a b : TReg) (c : VReg) (s : State) : Out :=
  let sizeA (k : Nat) : Nat := 16 * codeRow k (codeK k)
  let sizeB (k : Nat) : Nat := 16 * codeRow k (2 * codeK k)
  matrixOp p c (fun w => byteSpan (w.vOff mta) 128 false :: mulIdle w d a b c)
    (fun _ x => xafOK xaf x && pairOK (fwA x) (fwB x) && !codeN (fwA x) && accOK x && fwSparse x &&
      tileFits a (sizeA (fwA x)) && tileFits b (sizeB (fwB x)))
    (fun w x => w.vSrc .b32 mta :: mulSpans w d a b (sizeA (fwA x)) (sizeB (fwB x)))
    (fun w act x =>
      let n := codeK (fwA x)
      let mt := w.linesNat (w.vOff mta) 1
      let acc := w.linesNat (w.aOff d) 8
      let xa := w.linesNat (w.tOff a) ((sizeA (fwA x) + 127) / 128)
      let xb := w.linesNat (w.tOff b) ((sizeB (fwB x) + 127) / 128)
      if fwA x = 5 then
        let ra := ((rowsI xa n n).zip (List.range 16)).map (fun q => expand 0 q.1 (metaWord mt q.2))
        let rb := rowsI xb (2 * n) (2 * n)
        pure (putAcc w d x (shares act (fun r k => dotI x 4 (ra.getD r []) (rb.getD k []) (accElem acc r k))))
      else
        let ra := ((rowsF xa (fwA x) (codeRow (fwA x) n) n).zip (List.range 16)).map
          (fun q => expand (FVal.fin false 0 0) q.1 (metaWord mt q.2))
        let rb := rowsF xb (fwB x) (codeRow (fwB x) (2 * n)) (2 * n)
        pure (putAcc w d x (shares act (fun r k => dotF x 4 (ra.getD r []) (rb.getD k []) (accElem acc r k))))) s

/-- The two lanes of a row: `some true` both active, `some false` neither, `none` one of them. -/
def rowActive (act : Word32) (r : Nat) : Option Bool :=
  if act.getLsbD (2 * r) == act.getLsbD (2 * r + 1) then some (act.getLsbD (2 * r)) else none
/-- No row has exactly one active lane. -/
def rowsWhole (act : Word32) : Bool := (List.range 16).all (fun r => (rowActive act r).isSome)

/-- An element of SPCMP is larger than another: NaN above every number, then the magnitude (R342). -/
def largerF (x y : FVal) : Bool :=
  match x, y with
  | .nan, .nan => false
  | .nan, _ => true
  | _, .nan => false
  | .inf _, .inf _ => false
  | .inf _, _ => true
  | _, .inf _ => false
  | .fin _ m e, .fin _ n f => FVal.lt (.fin false n f) (.fin false m e)

/-- The two indices that a group of 4 keeps, ascending: each is beaten by at most one other, lower indices winning ties. -/
def keepTwo (larger : Nat → Nat → Bool) : Nat × Nat :=
  let beats (i j : Nat) : Bool := larger i j || (!larger j i && decide (i < j))
  match (List.range 4).filter (fun i => ((List.range 4).filter (fun j => j != i && beats j i)).length ≤ 1) with
  | i :: j :: _ => (i, j)
  | _ => (0, 1)

/-- SPCMP (R342).  Where its two destinations overlap, bytes that both write are left open (log 14). -/
def execSpcmp (p : Pred) (d a : TReg) (b c : VReg) (s : State) : Out :=
  let ok (k : Nat) : Bool := k == 0 || k == 1 || k == 5 || code8 k
  let size (k : Nat) : Nat := 16 * codeRow k (codeK k)
  matrixOp p c
    (fun w => [byteSpan (w.tOff d) 512 false, byteSpan (w.tOff a) 512 false, byteSpan (w.vOff b) 128 false,
      byteSpan (w.vOff c) 128 false])
    (fun act x => ok (fwA x) && !fwSparse x && tileFits d (size (fwA x)) && tileFits a (2 * size (fwA x)) && rowsWhole act)
    (fun w x => [destSpan 512 (w.tOff d) (size (fwA x)) p, byteSpan (w.tOff a) (2 * size (fwA x)) true,
      destSpan 128 (w.vOff b) 128 p])
    (fun w act x => do
      let s ← get
      let k := fwA x
      let n := 2 * codeK k
      let pitch := codeRow k n
      let xa := w.linesNat (w.tOff a) ((2 * size k + 127) / 128)
      let u := if k ≤ 1 then 2 else 1
      let raw (r i : Nat) : Nat := xa / 2 ^ (8 * (pitch * r + u * i)) % 2 ^ (8 * u)
      let larger (r g i j : Nat) : Bool :=
        if k = 5 then decide ((elemI xa pitch r (4 * g + j)).natAbs < (elemI xa pitch r (4 * g + i)).natAbs)
        else largerF (elemF xa k pitch r (4 * g + i)) (elemF xa k pitch r (4 * g + j))
      let kept := (List.range 16).map (fun r =>
        if rowActive act r == some true then some ((List.range (n / 4)).map (fun g => keepTwo (larger r g))) else none)
      let stored := (kept.zip (List.range 16)).flatMap (fun q =>
        match q.1 with
        | none => List.replicate (n / 2) none
        | some ks => (ks.zip (List.range (n / 4))).flatMap (fun t =>
            [some (raw q.2 (4 * t.2 + t.1.1)), some (raw q.2 (4 * t.2 + t.1.2))]))
      let metas := kept.map (fun o => o.map (fun ks =>
        (ks.zip (List.range (n / 4))).foldl (fun acc t => acc + (t.1.1 + 4 * t.1.2) * 2 ^ (4 * t.2)) 0))
      let clash := decide (w.tOff d ≤ w.vOff b) && decide (w.vOff b < w.tOff d + (size k + 127) / 128)
      let o := 128 * (w.vOff b - w.tOff d)
      let both (r i : Nat) : Bool := clash && rowActive act ((o + 8 * r + i) / (pitch / 2)) == some true
      let free := metas.zip (List.range 16) |>.map (fun q => q.1.map (fun v => leNat ((toBytes v 8).zip (List.range 8) |>.map
        (fun t => if both q.2 t.2 then (Config.freeWord s.free).extractLsb' (8 * t.2) 8 else t.1))))
      if clash then set { s with free := s.free + 1 }
      let nans := if k = 5 then 0 else
        (kept.zip (List.range 16)).foldl (fun acc q =>
          if q.1.isSome then acc + ((List.range n).filter (fun i => elemF xa k pitch q.2 i == .nan)).length else acc) 0
      pure ((w.putElems (w.tOff d) u stored).putElems (w.vOff b) 8 free, { tid := fwTid x, nan := nans })) s

/-! ## Tile movement and conversion -/

/-- MTRN (R343). -/
def execMtrn (p : Pred) (d a : TReg) (s : State) : Out :=
  regOp (fun w => [destSpan 512 (w.tOff d) 512 p, byteSpan (w.tOff a) 512 true])
    (fun w =>
      let x := w.linesNat (w.tOff a) 4
      .ok (w.putElems (w.tOff d) 2 (shares (w.active p) (fun r c => x / 2 ^ (16 * (16 * c + r)) % 2 ^ 16)), {})) s

/-- MZERO (R343). -/
def execMzero (p : Pred) (d : TAReg) (s : State) : Out :=
  match d with
  | .t r => regOp (fun w => [destSpan 512 (w.tOff r) 512 p])
      (fun w => .ok (w.putElems (w.tOff r) 2 (shares (w.active p) (fun _ _ => 0)), {})) s
  | .a r => regOp (fun w => [destSpan 1024 (w.aOff r) 1024 p])
      (fun w => .ok (w.putElems (w.aOff r) 4 (shares (w.active p) (fun _ _ => 0)), {})) s

/-- Bytes of an MCVT destination (R344). -/
def cvtSize (k : Nat) : Nat := 16 * codeRow k 16

/-- MCVT (R344). -/
def execMcvt (p : Pred) (d : TReg) (a : AReg) (c : VReg) (s : State) : Out :=
  matrixOp p c (fun w => [byteSpan (w.tOff d) 512 false, byteSpan (w.aOff a) 1024 false, byteSpan (w.vOff c) 128 false])
    (fun act x => ((fwC x == 8 && decide (fwA x ≤ 7) && fwA x != 5) || (fwC x == 5 && fwA x == 5 && fwAdj x == 0)) &&
      !fwSparse x && (!codeN (fwA x) || rowsWhole act))
    (fun w x => [destSpan 512 (w.tOff d) (cvtSize (fwA x)) p, byteSpan (w.aOff a) 1024 true])
    (fun w act x =>
      let k := fwA x
      let acc := w.linesNat (w.aOff a) 8
      let val (r j : Nat) : FVal := (fmt32.decode (accElem acc r j)).scale (fwAdj x)
      if codeN k then
        let blks := (List.range 16).map (fun r =>
          if rowActive act r == some true then some (nEncode k (fwRm x) ((List.range 16).map (val r))) else none)
        let on := blks.filterMap id
        pure (w.putBytes (w.wbo + w.tOff d) ((blks.zip (List.range 16)).flatMap (fun q =>
            match q.1 with
            | none => []
            | some b => ((List.range (nBytes k)).map (fun i => (nBytes k * q.2 + i, BitVec.ofNat 8 (b.bits / 2 ^ (8 * i))))))),
          { tid := fwTid x, sat := (on.map NBlk.sat).sum, fl := (on.map NBlk.fl).sum, nan := (on.map NBlk.nan).sum })
      else
        let one (r j : Nat) : FRes :=
          if k = 5 then
            let v := (BitVec.ofNat 32 (accElem acc r j)).toInt
            if fwSat x then clampTo .i8 v else { bits := lowBits 8 v }
          else (codeFmt k).round (fwRm x) (fwSat x) (val r j)
        let rs := shares act one
        pure (w.putElems (w.tOff d) (if k ≤ 1 then 2 else 1) (bitsOf rs), countOf (fwTid x) (present rs))) s

/-- MSCALE (R345). -/
def execMscale (p : Pred) (d a : AReg) (b : VReg) (s : State) : Out :=
  regOp (fun w => [destSpan 1024 (w.aOff d) 1024 p, byteSpan (w.aOff a) 1024 true, w.vSrc .b32 b])
    (fun w =>
      let acc := w.linesNat (w.aOff a) 8
      let rs := shares (w.active p) (fun r c =>
        fmt32.round w.rm w.sat ((fmt32.decode (accElem acc r c)).mul
          (fmt32.decode (laneW (w.vreg b) (2 * r + c / 8)).toNat)))
      .ok (w.putElems (w.aOff d) 4 (bitsOf rs), countOf 0 (present rs))) s

end Sys2Proof.Machine
end

