-- ==== Sys2Proof/Machine/EngStep.lean ====
section
/-!
DEFINITION. The steps of the engines: copies (R353), stack engines (R154-R157), collectives (R365-R367), stopping (R35) and
completion (R175).
-/

namespace Sys2Proof.Machine

/-- An operation leaves the queues of the engines. -/
def dequeue (oid : Nat) : SM Unit :=
  modify fun s => { s with copyq := s.copyq.filter (fun e => e.2 != oid),
                           hbm := s.hbm.map (fun e => (e.1, { e.2 with queue := e.2.queue.filter (fun o => o != oid) })) }

/-- An operation advances to a progress, and ends with a status when it is not 0. -/
def advance (oid prog status : Nat) : SM Unit := do
  modify fun s => s.updOp oid (fun o => { o with prog := prog, status := status })
  if status ≠ 0 then dequeue oid

/-- An operation that an engine may work on. -/
def EngOp.active (o : EngOp) : Bool := o.status == 0 && !o.held && !o.stop

/-! ## The copy engine (R353) -/

/-- Bytes of one line for a copy: a piece of 4 or 8 aligned bytes reads a register as an access of the issuing context that no warp makes (R30,
R174); other pieces read apertures by lines. -/
def copyRead (g : Agent) (pad : Bool) (a : Word) (n : Nat) : SM (Option (List Byte)) := do
  if pad then placeRead g pad a n
  else
    match ← engFill g a with
    | none => pure none
    | some f =>
      match f.aper with
      | none => pure (some (lineBytes f.data a n))
      | some o => do
        let s ← get
        let off := o + a.toNat % 128
        pure (some (if !plainAper off && regWidth off n then toBytes (s.aperReadBy none g.user g.part off n).toNat n
          else lineBytes (s.aperLine g.part o) a n))

/-- Writes bytes of one line for a copy, a register by a piece of 4 or 8 aligned bytes. -/
def copyWrite (g : Agent) (pad : Bool) (a : Word) (bs : List Byte) : SM Bool := do
  if pad then placeWrite g pad a bs
  else do
    let (ok, ap) ← engTry g a bs
    match ap with
    | some o => aperWriteBy none g.user g.part (o + a.toNat % 128) bs.length (BitVec.ofNat 64 (leNat bs))
    | none => pure ()
    pure ok

/-- Moves bytes in pieces that lie in one line on both sides: how many were written, and whether no access failed. -/
def copyPieces (g : Agent) (sp dp : Bool) : Nat → Word → Word → Nat → SM (Nat × Bool)
  | 0, _, _, _ => pure (0, true)
  | k + 1, a, b, n =>
    if n = 0 then pure (0, true)
    else do
      let m := min n (min (128 - a.toNat % 128) (128 - b.toNat % 128))
      match ← copyRead g sp a m with
      | none => pure (0, false)
      | some bs =>
        if ← copyWrite g dp b bs then do
          let (r, ok) ← copyPieces g sp dp k (a + BitVec.ofNat 64 m) (b + BitVec.ofNat 64 m) (n - m)
          pure (m + r, ok)
        else pure (0, false)

/-- The copy engine runs an operation to its next stopping point: the start of a row or a multiple of 4 KiB of the destination (R35). -/
def copyStep (o : EngOp) (x : XDesc) : SM Unit := do
  let r := o.prog / x.len
  let j := o.prog % x.len
  let z := BitVec.ofNat 64 (r / x.rows)
  let y := BitVec.ofNat 64 (r % x.rows)
  let src := x.src + z * x.sstr2 + y * x.sstr1 + BitVec.ofNat 64 j
  let dst := x.dst + z * x.dstr2 + y * x.dstr1 + BitVec.ofNat 64 j
  let n := min (x.len - j) (4096 - dst.toNat % 4096)
  let (k, ok) ← copyPieces o.agent x.spad x.dpad (2 * lineCap n + 2) src dst n
  let prog := o.prog + k
  advance o.oid prog (if !ok then 5 else if prog = x.len * x.rows * x.planes then 1 else 0)

/-- The operation at the head of a core's copy queue; while the partition is reshaped its accesses wait (R433). -/
def State.copyHead (s : State) (core : Nat) : Option EngOp :=
  (s.copyq.filter (fun e => e.1 == core)).findSome? (fun e => (s.op? e.2).filter (fun o => o.active && (s.part o.part).qst != .reshaping))

/-- COPY_ENGINE_OP (R353). -/
def execCopyEngineOp (core : Nat) (s : State) : Out :=
  event s ((s.copyHead core).bind (fun o =>
    match o.desc with
    | .copy x => some (copyStep o x)
    | _ => none))

/-! ## The stack engines (R154-R157) -/

/-- EMAXL of the share entry of an ASID: none for an ASID bound to no enabled entry (R136, R154). -/
def Part.emaxl (q : Part) (asid : BitVec 12) : Option Nat :=
  let e := q.shareOf asid
  if e = 64 then none
  else
    let m := (((q.shInf[e]?).getD 0).extractLsb' 19 9).toNat
    if m = 0 then none else some (m * 62500 / 256)

/-- The operation that an engine works on (R154): one that ends at once, else the oldest under its ceiling; none while the stack drains or trains
(R150, R157). -/
def State.stackHead (s : State) (k : Nat) : Option EngOp :=
  let quiet := (s.stack k).phase == .drain || (s.stack k).phase == .training
  let os := if quiet then [] else ((s.stack k).queue.filterMap s.op?).filter (fun o => o.active && (s.part o.part).qst != .reshaping)
  match os.find? (fun o => ((s.part o.part).emaxl o.asid).isNone) with
  | some o => some o
  | none => os.find? (fun o =>
      match (s.part o.part).emaxl o.asid with
      | none => true
      | some l => (s.stack k).cur == 3 || decide (tget (s.stack k).eused ((s.part o.part).shareOf o.asid) 0 < l))

/-- Bytes of x. -/
def MDesc.readX (m : MDesc) (g : Agent) : SM (Option (List Byte)) :=
  if m.xsrc then placeRead g true (BitVec.ofNat 64 m.xva) (2 * m.k) else engBytes g (BitVec.ofNat 64 m.xva) (lineCap (2 * m.k)) (2 * m.k)

/-- Counts lines of W read for an entry (R139, R154). -/
def countEngine (k e n : Nat) : SM Unit :=
  modify fun s => s.updStack k (fun x => { x with shecnt := bump x.shecnt e n, eused := bump x.eused e n })

/-- Reads a line of W from the stack's DRAM under the leaf of its page (R156), or none when it is poisoned or does not translate.  A line that is
read counts, an uncorrectable one too (log 60). -/
def weightLine (o : EngOp) (k ln : Nat) : SM (Option (List Byte)) := do
  let g := o.agent
  let va := 128 * ln
  let s ← get
  match ← translate (bankRet (s.anchor (g.key va))) g.part g.asid va false with
  | .error _ => pure none
  | .ok f =>
    match (s.part g.part).route (f.pa / 128 * 128) with
    | .dram stk loc =>
      if stk ≠ k then pure none
      else do
        countEngine k ((s.part o.part).shareOf o.asid) 1
        let (d, poi) ← dramLine g.part f.perm.kd stk loc
        pure (if poi then none else some ((List.range 128).map (LineData.byte d)))
    | _ => pure none

/-- Reads lines of W behind those read, as far as the ceiling lets the operation go on (R154). -/
def weightLines (o : EngOp) (k lim : Nat) : Nat → Nat → List Byte → SM (Option (List Byte))
  | _, 0, bs => pure (some bs)
  | ln, n + 1, bs => do
    let s ← get
    if lim ≤ tget (s.stack k).eused ((s.part o.part).shareOf o.asid) 0 then pure (some bs)
    else
      match ← weightLine o k ln with
      | none => pure none
      | some r => weightLines o k lim (ln + 1) n (bs ++ r)

/-- One row of y = W·x (R155). -/
def mvsSum (m : MDesc) (row x : List Byte) : Nat :=
  let code := if m.wfmt = 0 then 0 else m.wfmt + 1
  let rn := leNat row
  let xn := leNat x
  let ws := (List.range m.k).map (fun i => elemF rn code m.rowBytes 0 i)
  let xs := (List.range m.k).map (fun i => fmtB16.decode (xn / 2 ^ (16 * i) % 2 ^ 16))
  let acc := (dotF 0 (if m.wfmt = 0 then 4 else 16) ws xs 0).bits
  if m.yfmt then (fmtB16.round .rne false (fmt32.decode acc)).bits else acc

/-- The engine of a stack goes on with the next row of an operation (R154, R155, R157): it reads the row's lines of W until the ceiling makes it
pause, then x, and writes the element of y.  x is read again for every row (log 60).  An operation under way whose entry is disabled or whose EMAX
becomes 0 ends with ERROR and the rows done: R154 states the case with progress 0, and this is the model's choice (log 60). -/
def mvsStep (k : Nat) (o : EngOp) (m : MDesc) : SM Unit := do
  let s ← get
  let i := o.prog
  match (s.part o.part).emaxl o.asid with
  | none => advance o.oid i 5
  | some lim =>
    if (s.stack k).cur = 3 then advance o.oid i 5
    else
      let lo := m.wva + i * m.wstr
      let first := lo / 128
      let last := (lo + m.rowBytes - 1) / 128
      let have' := o.row.length / 128
      match ← weightLines o k lim (first + have') (last + 1 - first - have') o.row with
      | none => advance o.oid i 5
      | some w =>
        if w.length < 128 * (last + 1 - first) then modify fun s => s.updOp o.oid (fun x => { x with row := w })
        else
          match ← m.readX o.agent with
          | none => advance o.oid i 5
          | some x => do
            let y := mvsSum m ((w.drop (lo % 128)).take m.rowBytes) x
            let ok ← placeWrite o.agent m.ydst (BitVec.ofNat 64 (m.yva + i * m.yBytes)) (toBytes y m.yBytes)
            let rest := if (lo + m.wstr) / 128 = last then w.drop (128 * (last - first)) else []
            modify fun s => s.updOp o.oid (fun x => { x with row := rest })
            if ok then advance o.oid (i + 1) (if i + 1 = m.m then 1 else 0) else advance o.oid i 5

/-- STACK_ENGINE_OP (R154, R155). -/
def execStackEngineOp (stack : Nat) (s : State) : Out :=
  event s ((s.stackHead stack).bind (fun o =>
    match o.desc with
    | .mvs m => some (mvsStep stack o m)
    | _ => none))

/-! ## Collectives (R365-R367) -/

/-- Combines two contributions element by element (R366). -/
def credSum (op : RedOp) (ty : Ty) (xs ys : List Byte) : List Byte :=
  let n := ty.bytes
  let at' (l : List Byte) (i : Nat) : Word := BitVec.ofNat 64 (fieldOf l (n * i) n)
  (List.range (xs.length / n)).flatMap (fun i => toBytes (redNode op ty .rne false (at' xs i, false) (at' ys i, false)).1.toNat n)

/-- The result of an instance: the combination in the order of arrival, or the contributions by rank. -/
def Coll.result (x : Coll) : List Byte :=
  if x.cag then ((List.range 64).flatMap (fun k => (x.contribs.filter (fun e => e.1 == k)).flatMap (fun e => e.2.2)))
  else
    match x.contribs.map (fun e => e.2.2) with
    | [] => []
    | b :: bs => bs.foldl (credSum (credOp x.op) ((credTy x.ty).getD .b32)) b

/-- CMASK of an instance. -/
def Coll.mask (x : Coll) : Word := x.contribs.foldl (fun m e => m ||| (1#64 <<< e.1)) 0

/-- An instance ends for one contributor (R365, R366). -/
def collEnd (x : Coll) (member oid : Nat) : SM Unit := do
  let s ← get
  match s.op? oid with
  | none => pure ()
  | some o =>
    if o.status ≠ 0 then pure ()
    else do
      modify fun s => s.updOp oid (fun o => { o with cmask := x.mask })
      if x.gone then advance oid 0 4
      else if x.bad then advance oid 0 5
      else if x.root = 0xFFFF ∨ x.rank member = x.root then
        match o.desc with
        | .cred c | .cag c => do
          let r := x.result
          let n ← engPut o.agent (BitVec.ofNat 64 c.dst) (lineCap r.length) r
          advance oid n (if n = r.length then 1 else 5)
        | _ => pure ()
      else advance oid 0 1

/-- An instance can end: every contribution has arrived or a member is gone, and no contributor is saved (R365). -/
def State.collReady (s : State) (x : Coll) : Bool :=
  (s.part x.part).qst != .reshaping && (x.gone || decide (x.contribs.length ≥ x.count)) && x.contribs.all (fun e => (s.op? e.2.1).all (fun o => !o.held))

/-- A core takes the bytes of a multicast copy: its pages are granted to a context of the same job and lie outside its exchange
region (R367), and a route leads there (R409). -/
def State.cmcTakes (s : State) (o : EngOp) (core off n : Nat) : Bool :=
  let c := s.core core
  s.routed (coreQuarter o.core) (coreQuarter core) && decide (off + n ≤ c.xb) && (List.range ((off + n + 8191) / 8192 - off / 8192)).all (fun i =>
    c.grants.any (fun g => g.page == off / 8192 + i && g.part == o.part && (s.ctx g.part g.ctx).asid == o.asid))

/-- A CMC is carried out (R367). -/
def cmcStep (o : EngOp) (c : CDesc) : SM Unit := do
  match ← engBytes o.agent (BitVec.ofNat 64 c.src) (lineCap c.len) c.len with
  | none => advance o.oid 0 5
  | some bs => do
    let s ← get
    let on := if c.own then c.targets.filter (fun t => s.cmcTakes o (coreAt t.2.1 t.2.2) c.dst c.len) else []
    modify fun s => on.foldl (fun s t => s.padWrite (coreAt t.2.1 t.2.2) c.dst bs) s
    modify fun s => s.updOp o.oid (fun o => { o with cmask := on.foldl (fun m t => m ||| (1#64 <<< t.1)) 0 })
    advance o.oid (on.length * c.len) (if on.length = c.targets.length then 1 else 5)

/-- No target page of a CMC is still being returned (R114). -/
def State.cmcReady (s : State) (c : CDesc) : Bool :=
  !c.own || c.targets.all (fun t => !s.padWait (coreAt t.2.1 t.2.2) c.dst c.len)

/-- COLLECTIVE_COMPLETE (R365, R367): an instance, or the operation of a CMC. -/
def execCollectiveComplete (inst : Nat) (s : State) : Out :=
  event s (match s.colls.find? (fun x => x.cid == inst) with
    | some x =>
      if s.collReady x then some (do
        set { s with colls := s.colls.filter (fun y => y.cid != inst) }
        x.contribs.forM (fun e => collEnd x e.1 e.2.1))
      else none
    | none =>
      match s.op? inst with
      | some o =>
        match o.desc with
        | .cmc c => if o.active && s.cmcReady c then some (cmcStep o c) else none
        | _ => none
      | none => none)

/-! ## Stopping and completion -/

/-- ENGINE_STOP (R35): an operation that a shoot-down asks to stop stands at a stopping point and ends PARTIAL. -/
def execEngineStop (op : Nat) (s : State) : Out :=
  event s ((s.op? op).bind (fun o =>
    if o.stop && o.status == 0 then some (do
      advance op o.prog 2
      completeOp op)
    else none))

/-- ENGINE_COMPLETION (R175). -/
def execEngineCompletion (op : Nat) (s : State) : Out :=
  event s ((s.op? op).bind (fun o =>
    if o.status != 0 && !o.held && !(o.posted && o.jrec == 0) && (s.part o.part).qst != .reshaping then some (do
      dequeue op
      completeOp op)
    else none))

end Sys2Proof.Machine
end

