-- ==== Sys2Proof/Machine/GroupStep.lean ====
section
/-!
DEFINITION. Messages of exchange stores, sharing groups and barriers that arrive (R118, R124, R126, R332).
-/

namespace Sys2Proof.Machine

/-- EXCHANGE_STORE_ARRIVE (R118): the oldest exchange or multicast store in flight lands, once the pages it writes have been returned (R114). -/
def execExchangeStoreArrive (s : State) : Out :=
  event s (match s.pkts with
    | [] => none
    | k :: r => if s.pktWaits k then none else some (set (State.finishLeaves { s.deliver k with pkts := r })))

/-- GROUP_ARRIVAL (R124): a core whose live warps have all issued GBAR arrives. -/
def execGroupArrival (core : Nat) (s : State) : Out := eventIf s (s.canArrive core) (set (s.arriveGroup core))

/-- The group that has a release on its way to a core. -/
def State.releasing (s : State) (core : Nat) : Option (Group × Bool) :=
  s.groups.findSome? (fun g => if g.part = s.partOfCore core ∧ !s.away g then (g.rels.find? (fun r => r.1 == core)).map (fun r => (g, r.2)) else none)

/-- GROUP_RELEASE (R124): a release reaches a member. -/
def execGroupRelease (core : Nat) (s : State) : Out :=
  event s ((s.releasing core).map (fun g => set (s.takeRelease g.1 core g.2)))

/-- The oldest revocation of a group. -/
def State.revoking (s : State) : Option (Group × Nat × Nat) :=
  s.groups.findSome? (fun g => if s.away g then none else g.revs.head?.map (fun r => (g, r.1, r.2)))

/-- SLOT_REVOCATION (R126): the oldest revocation reaches its member. -/
def execSlotRevocation (s : State) : Out :=
  event s (s.revoking.map (fun g => set (s.takeRevocation g.1 g.2.1 g.2.2)))

/-- BARRIER_ARRIVAL (R332): the oldest arrival or excusing reaches its tree; else an instance that a kill or an exit completed releases. -/
def execBarrierArrival (s : State) : Out :=
  event s (match s.barq with
    | m :: r => some (set (State.takeBarMsg { s with barq := r } m))
    | [] => s.doneBar.map (fun x => set (s.setBar (x.1.releaseBar x.2))))

end Sys2Proof.Machine
end

