-- ==== Sys2Proof/Machine/PartStep.lean ====
section
/-!
DEFINITION. Work queues and launches (R371-R374, R380, R182), fabric launch packets (R449), quiesce and reshape of partitions (R407-R410,
R433, R434).
-/

namespace Sys2Proof.Machine

/-! ## Work queues -/

/-- WQ_TAIL_WRITE (R372). -/
def execWqTailWrite (q : Nat) (v : Word32) (s : State) : Out := eventIf s (decide (q < 16384)) (wqTailSet q v)
/-- WQ_CTL_WRITE (R372). -/
def execWqCtlWrite (q : Nat) (v : Word32) (s : State) : Out := eventIf s (decide (q < 16384)) (wqCtlSet q v)

/-- A launch packet is accepted at its queue (R449). -/
def State.packetOK (s : State) (k src q : Nat) : Bool :=
  let x := s.port k
  x.len && (x.st == 2 || x.st == 3) && (x.pany || x.peer == src) && decide (x.qbase ≤ q) && decide (q < x.qbase + x.qcnt) &&
    decide (q < 16384) && s.queuePart q == some (s.partOfPort k) && (s.queue q).en

/-- LAUNCH_PACKET (R373, R449): the record stands at the queue's tail, or the packet is dropped and counted. -/
def execLaunchPacket (port src q : Nat) (rec1 : LineData) (s : State) : Out :=
  eventIf s (decide (port < 128) && decide (src < 64)) (modify fun s =>
    if s.packetOK port src q then
      s.updQueue q (fun k => { k with tail := (k.tail + 1) % 2 ^ 32, arr := k.arr ++ [(s.plat.cc, some rec1)] })
    else s.updPort port (fun x => { x with drops := min 0xFFFF (x.drops + 1) }))

/-- The record at the head of a queue: from its packet, or read from the ring (R371). -/
def headRec (p q : Nat) : SM (Except Nat (LineData × Bool)) := do
  let s ← get
  let k := s.queue q
  match k.arr with
  | (_, some d) :: _ => pure (.ok (d, false))
  | _ => dispLine p k.asid (k.base.toNat + 128 * (k.head % 2 ^ k.log2n))

/-- LAT of the record at the head of a queue; a record that does not read stands first. -/
def State.headLat (s : State) (p q : Nat) : Nat :=
  match ((headRec p q).run s).1 with
  | .ok (d, _) => lineNat d 24 4 / 8 % 4
  | .error _ => 0

/-- The record at the head of a queue must wait: the acquire of its launch does (R95), or it has predecessors and the pending list is full
(R380, log 22). -/
def State.headWaits (s : State) (p q : Nat) : Bool :=
  s.acqFull p (s.queue q).asid || (decide (s.pendingN p ≥ 4096) &&
    (match ((headRec p q).run s).1 with
     | .ok (d, _) => lineNat d 46 2 != 0
     | .error _ => false))

/-- Queue `a` is served before queue `b` (R374). -/
def serveBefore (a b : Nat × Nat × Nat) : Bool :=
  decide (a.1 < b.1) || (a.1 == b.1 && (decide (a.2.1 < b.2.1) || (a.2.1 == b.2.1 && decide (a.2.2 < b.2.2))))

/-- The queue whose head record the dispatcher takes next: latency class, arrival, queue index; at most one record every 200 cc (R374).
Records that a commit held come first, in arrival order (R433). -/
def State.nextQueue (s : State) (p : Nat) : Option Nat :=
  let qs := s.usedQueues.filter (fun q => s.queuePart q == some p && (s.queue q).en && (s.queue q).arr != [] &&
    decide ((s.part p).accFrom ≤ s.plat.cc) && !s.headWaits p q)
  let es := qs.map (fun q =>
    let t := (((s.queue q).arr.head?).map (fun e => e.1)).getD 0
    (if t ≤ (s.part p).heldTo then 0 else 1 + s.headLat p q, t, q))
  (es.foldl (fun (best : Option (Nat × Nat × Nat)) e =>
    match best with
    | none => some e
    | some b => if serveBefore e b then some e else some b) none).map (fun e => e.2.2)

/-- The dispatcher takes the head record of a queue; a ring read that faults is an overrun (R372). -/
def takeHead (p q : Nat) : SM Unit := do
  match ← headRec p q with
  | .error _ => modify fun s => s.updQueue q WorkQ.overrun
  | .ok (d, poi) => do
    modify fun s => s.updQueue q (fun k => { k with head := (k.head + 1) % 2 ^ 32, arr := k.arr.drop 1 })
    modify fun s => s.updPart p (fun k => { k with accFrom := s.plat.cc + 200 })
    let s ← get
    acceptLaunch p q (s.queue q).asid d poi

/-- LAUNCH_ACCEPT (R374, R383): records are held while the partition is reshaped (R433). -/
def execLaunchAccept (part : Nat) (s : State) : Out :=
  event s (if (s.part part).formed && (s.part part).qst != .reshaping then (s.nextQueue part).map (takeHead part) else none)

/-! ## Pending launches and completion -/

/-- A pending launch whose turn has come: its context failed, its predecessors are done, or its resources are free (R380, R384); a launch whose
acquire must wait (R95) waits. -/
def State.dueLaunch (s : State) (l : Launch) : Bool :=
  l.failed || (!s.acqFull l.part l.asid && ((l.st == .waitDep && l.depc == 0) || (l.st == .waitRes && s.fitCode l == 0)))

/-- A pending launch ends or is decided. -/
def startPending (l : Launch) : SM Unit :=
  if l.failed then do
    modify fun s => { s with launches := s.launches.filter (fun x => x.uid != l.uid) }
    signal l 0 2
    cancelEdges l
  else decide2 l false false

/-- PENDING_LAUNCH_START (R380): in the order of acceptance. -/
def execPendingLaunchStart (part : Nat) (s : State) : Out :=
  event s (if (s.part part).qst = .reshaping then none
    else (s.launches.find? (fun l => l.part == part && l.st != .running && s.dueLaunch l)).map startPending)

/-- GRID_COMPLETION (R182). -/
def execGridCompletion (launch : Nat) (s : State) : Out :=
  event s ((s.launch? launch).bind (fun l => if s.gridDone l then some (completeLaunch l) else none))

/-! ## Quiesce, seams and queue ownership (R408, R409, R434) -/

/-- The writer of a wafer register is the host, or a formed partition. -/
def State.writer (s : State) (part : Option Nat) : Bool :=
  match part with
  | none => true
  | some p => (s.part p).formed && decide (p < 4)

/-- The writer may write the wafer's registers (R406, R443). -/
def State.writerAuth (s : State) (part : Option Nat) : Bool :=
  match part with
  | none => true
  | some p => s.auth p

/-- QUIESCE_REQUEST (R408). -/
def execQuiesceRequest (part : Option Nat) (q : Nat) (s : State) : Out := eventIf s (s.writer part && decide (q < 4)) (qctlWrite part q true)
/-- QUIESCE_CANCEL (R408). -/
def execQuiesceCancel (part : Option Nat) (q : Nat) (s : State) : Out := eventIf s (s.writer part && decide (q < 4)) (qctlWrite part q false)

/-- A draining partition has no launch left and no record waiting (R408). -/
def State.drained (s : State) (p : Nat) : Bool :=
  (s.part p).qst == .draining && s.left p == 0 &&
    s.usedQueues.all (fun q => s.queuePart q != some p || (s.queue q).head == (s.queue q).tail)

/-- PARTITION_QUIESCED (R408). -/
def execPartitionQuiesced (part : Nat) (s : State) : Out :=
  eventIf s (s.drained part) (set (s.updPart part (fun k => { k with qst := .quiesced })))

/-- PART_NBND_WRITE (R409). -/
def execPartNbndWrite (part : Option Nat) (v : Word32) (s : State) : Out := eventIf s (s.writer part) (nbndWrite (s.writerAuth part) v)
/-- SEAM_ROUTES_READY (R434). -/
def execSeamRoutesReady (s : State) : Out :=
  eventIf s (s.wafer.nbnd != s.wafer.seams) (set { s with wafer := { s.wafer with nbnd := s.wafer.seams } })
/-- QOWN_WRITE (R409). -/
def execQownWrite (part : Option Nat) (q : Nat) (v : Word) (s : State) : Out :=
  eventIf s (s.writer part && decide (q < 4)) (qownSet (s.writerAuth part) q v)
/-- PARTITION_COMMIT (R407). -/
def execPartitionCommit (part : Option Nat) (v : Word32) (s : State) : Out := eventIf s (s.writer part) (shapeWrite (s.writerAuth part) v)

/-! ## A reshape (R410) -/

/-- A partition's caches, gates, hints and code lines are emptied (R410 step 1). -/
def emptyPart (p : Nat) : SM Unit := do
  emptyCaches p
  dropCode (fun k => k.part == p)
  modify fun s => { s with gates := { gtc := s.gates.gtc.filter (fun e => e.part != p), wc := s.gates.wc.filter (fun e => e.part != p),
                                      slots := s.gates.slots.filter (fun w => w.key.part != p),
                                      queue := s.gates.queue.filter (fun w => w.key.part != p) } }

/-- A launch of ASID 0 that touches a lost quarter ends with STATUS 4 and CODE 0x10 (R410 step 2). -/
def loseLaunch (l : Launch) : SM Unit := do
  modify fun s => s.killAll (fun w => w.launch == l.uid) { cause := 0x13 } false false
  drainAll (fun w => w.launch == l.uid) false
  modify fun s => { s.freeLaunch l with ready := s.ready.filter (fun r => r.launch != l.uid) }
  signal l 0x10 4
  cancelEdges l

/-- The launches of a partition with a core in a quarter it loses. -/
def State.lostLaunches (s : State) (p : Nat) (lost : List Nat) : List Launch :=
  s.launches.filter (fun l => l.part == p && l.place.any (fun c => lost.contains (retQuarter (coreRet c))))

/-- A step that must have seen every operation and launch of a partition end waits for the writes that hold a record or a signal back (R94, R175,
R182). -/
def waitFlushed (p : Nat) : SM Unit :=
  modify fun s =>
    if s.stall.isNone && (s.launches.any (fun l => l.part == p) || s.ops.any (fun o => o.part == p && !o.posted)) then { s with stall := s.mcq.find? (fun c => !c.awaited && c.part == p) } else s

/-- A partition that is absorbed: its contexts are released, and what it held is gone (R410 step 2). -/
def absorbPart (p : Nat) : SM Unit := do
  let s ← get
  ((List.range 64).filter (fun c => (s.ctx p c).en)).forM (fun c => releaseCtx p c)
  drainAll (fun w => w.part == p) false
  let s ← get
  set { s with ops := s.ops.map (fun (o : EngOp) => if o.part == p then { o with held := false } else o) }
  (s.ops.filter (fun o => o.part == p)).forM (fun o => completeOp o.oid)
  let s ← get
  (s.launches.filter (fun l => l.part == p)).forM completeLaunch
  waitFlushed p
  emptyPart p
  modify fun s =>
    let gone := (s.ops.filter (fun o => o.part == p)).map (fun o => o.oid)
    { s with ops := s.ops.filter (fun o => o.part != p), copyq := s.copyq.filter (fun e => !gone.contains e.2),
             hbm := s.hbm.map (fun e => (e.1, { e.2 with queue := e.2.queue.filter (fun o => !gone.contains o) })),
             warps := s.warps.filter (fun w => w.part != p), colls := s.colls.filter (fun x => x.part != p),
             groups := s.groups.filter (fun g => g.part != p), bars := s.bars.filter (fun b => b.part != p),
             barq := s.barq.filter (fun b => b.part != p), ready := s.ready.filter (fun r => r.part != p),
             stats := s.stats.filter (fun e => e.1.1 != p) }
  modify fun s =>
    let s : State := s.updPart p (fun q => { Part.init p with version := q.version, keys := Vector.ofFn (fun (i : Fin 16) => s.fresh + i.val) })
    { s with fresh := s.fresh + 16 }

/-- The largest version among the old partitions that a set of quarters covers. -/
def State.topVersion (s : State) (old : BitVec 8) (qs : List Nat) : Nat :=
  (qs.map (fun q => (s.part (shapeOf old q)).version)).foldl max 0

/-- A changed partition stands in its new shape, quiesced, with a rebuilt bank map, and its version rises (R410 steps 2, 4 and 5). -/
def newPart (old new : BitVec 8) (tops : List (Nat × Nat)) (p : Nat) : SM Unit := do
  let qs := shapeSet new p
  modify fun s =>
    let fresh := shapeSet old p = []
    let s : State := s.updPart p (fun q =>
      { q with formed := true, quarters := qs, version := tget tops p 0, mapDead := s.wafer.deadBanks, moves := [],
               westFirst := (s.wafer.deadLinkE ++ s.wafer.deadLinkN).any (fun c => qs.contains (retQuarter (coreRet c))),
               req := true, qst := .quiesced, heldTo := s.plat.cc,
               keys := if fresh then Vector.ofFn (fun (i : Fin 16) => s.fresh + i.val) else q.keys })
    { s with fresh := s.fresh + 16 }
  riseMap p 7 0

/-- The seams that stay open: those inside one new partition (R410 step 3). -/
def keepSeams (new : BitVec 8) (v : BitVec 4) : BitVec 4 :=
  BitVec.ofNat 4 (((List.range 4).filter (fun i => v.getLsbD i && shapeOf new (seamSides i).1 == shapeOf new (seamSides i).2)).map (fun i => 2 ^ i)).sum

/-- A commit ends (R410). -/
def finishCommit (new : BitVec 8) : SM Unit := do
  let s ← get
  let old := s.wafer.shape
  let ch := changedParts old new
  ch.forM emptyPart
  ch.forM (fun p => do
    let s ← get
    let lost := (shapeSet old p).filter (fun q => !(shapeSet new p).contains q)
    if shapeSet new p ≠ [] then (s.lostLaunches p lost).forM loseLaunch)
  (ch.filter (fun p => shapeSet new p == [])).forM absorbPart
  ch.forM emptyPart
  let s ← get
  let made := (List.range 4).filter (fun p => shapeSet new p != [] && shapeSet new p != shapeSet old p)
  let tops := made.map (fun p => (p, s.topVersion old (shapeSet new p)))
  let keep := BitVec.ofNat 4 (((List.range 4).filter (fun p => shapeSet new p != [] && shapeSet old p != [])).map (fun p => 2 ^ p)).sum
  let w : Wafer := { s.wafer with shape := new, busy := false, newShape := none, seams := keepSeams new s.wafer.seams,
                                  nbnd := keepSeams new s.wafer.nbnd }
  set { s with wafer := w, plat := { s.plat with auth := s.plat.auth &&& keep } }
  made.forM (newPart old new tops)

/-- COMMIT_COMPLETE (R410). -/
def execCommitComplete (s : State) : Out := event s (s.wafer.newShape.map finishCommit)

end Sys2Proof.Machine
end

