-- ==== Sys2Proof/Machine/Hash.lean ====
section
/-!
DEFINITION. SHA-256 and SHA-512 (FIPS 180-4), HMAC (FIPS 198-1) and MGF1, which the image check and the attestation of R452 and R453 name.  The spec
names the functions and leaves their text to the standards: PRESUMED (log 47).
-/

namespace Sys2Proof.Machine

/-! ## Bytes, highest first -/

/-- A number as `n` bytes, the highest first. -/
def toBe (v n : Nat) : List Byte := (toBytes v n).reverse

/-- The number of some bytes, the highest first. -/
def beNat (bs : List Byte) : Nat := leNat bs.reverse

/-- The piece of number `i` of a list of pieces of `n` elements. -/
def pieceOf {α : Type} (l : List α) (n i : Nat) : List α := (l.drop (n * i)).take n

/-! ## Tables -/

/-- Round constants of SHA-512, 0 to 19. -/
def shaK0 : List Nat :=
  [0x428a2f98d728ae22, 0x7137449123ef65cd, 0xb5c0fbcfec4d3b2f, 0xe9b5dba58189dbbc,
   0x3956c25bf348b538, 0x59f111f1b605d019, 0x923f82a4af194f9b, 0xab1c5ed5da6d8118,
   0xd807aa98a3030242, 0x12835b0145706fbe, 0x243185be4ee4b28c, 0x550c7dc3d5ffb4e2,
   0x72be5d74f27b896f, 0x80deb1fe3b1696b1, 0x9bdc06a725c71235, 0xc19bf174cf692694,
   0xe49b69c19ef14ad2, 0xefbe4786384f25e3, 0x0fc19dc68b8cd5b5, 0x240ca1cc77ac9c65]

/-- Round constants of SHA-512, 20 to 39. -/
def shaK1 : List Nat :=
  [0x2de92c6f592b0275, 0x4a7484aa6ea6e483, 0x5cb0a9dcbd41fbd4, 0x76f988da831153b5,
   0x983e5152ee66dfab, 0xa831c66d2db43210, 0xb00327c898fb213f, 0xbf597fc7beef0ee4,
   0xc6e00bf33da88fc2, 0xd5a79147930aa725, 0x06ca6351e003826f, 0x142929670a0e6e70,
   0x27b70a8546d22ffc, 0x2e1b21385c26c926, 0x4d2c6dfc5ac42aed, 0x53380d139d95b3df,
   0x650a73548baf63de, 0x766a0abb3c77b2a8, 0x81c2c92e47edaee6, 0x92722c851482353b]

/-- Round constants of SHA-512, 40 to 59. -/
def shaK2 : List Nat :=
  [0xa2bfe8a14cf10364, 0xa81a664bbc423001, 0xc24b8b70d0f89791, 0xc76c51a30654be30,
   0xd192e819d6ef5218, 0xd69906245565a910, 0xf40e35855771202a, 0x106aa07032bbd1b8,
   0x19a4c116b8d2d0c8, 0x1e376c085141ab53, 0x2748774cdf8eeb99, 0x34b0bcb5e19b48a8,
   0x391c0cb3c5c95a63, 0x4ed8aa4ae3418acb, 0x5b9cca4f7763e373, 0x682e6ff3d6b2b8a3,
   0x748f82ee5defb2fc, 0x78a5636f43172f60, 0x84c87814a1f0ab72, 0x8cc702081a6439ec]

/-- Round constants of SHA-512, 60 to 79. -/
def shaK3 : List Nat :=
  [0x90befffa23631e28, 0xa4506cebde82bde9, 0xbef9a3f7b2c67915, 0xc67178f2e372532b,
   0xca273eceea26619c, 0xd186b8c721c0c207, 0xeada7dd6cde0eb1e, 0xf57d4f7fee6ed178,
   0x06f067aa72176fba, 0x0a637dc5a2c898a6, 0x113f9804bef90dae, 0x1b710b35131c471b,
   0x28db77f523047d84, 0x32caab7b40c72493, 0x3c9ebe0a15c9bebc, 0x431d67c49c100d4c,
   0x4cc5d4becb3e42b6, 0x597f299cfc657e2a, 0x5fcb6fab3ad6faec, 0x6c44198c4a475817]

/-- Round constants of SHA-512; SHA-256 uses the upper halves of the first 64. -/
def shaK : List Nat := shaK0 ++ shaK1 ++ shaK2 ++ shaK3

/-- Initial hash value of SHA-512; that of SHA-256 holds the upper halves. -/
def shaIv : List Nat :=
  [0x6a09e667f3bcc908, 0xbb67ae8584caa73b, 0x3c6ef372fe94f82b, 0xa54ff53a5f1d36f1,
   0x510e527fade682d1, 0x9b05688c2b3e6c1f, 0x1f83d9abfb41bd6b, 0x5be0cd19137e2179]

/-! ## The two functions -/

/-- What tells the two functions apart: the word width, the rounds, and the amounts of the rotations and shifts. -/
structure Sha where
  w      : Nat
  rounds : Nat
  big0   : Nat × Nat × Nat
  big1   : Nat × Nat × Nat
  small0 : Nat × Nat × Nat
  small1 : Nat × Nat × Nat

/-- SHA-256. -/
def sha2 : Sha :=
  { w := 32, rounds := 64, big0 := (2, 13, 22), big1 := (6, 11, 25), small0 := (7, 18, 3), small1 := (17, 19, 10) }

/-- SHA-512. -/
def sha5 : Sha :=
  { w := 64, rounds := 80, big0 := (28, 34, 39), big1 := (14, 18, 41), small0 := (1, 8, 7), small1 := (19, 61, 6) }

/-- Three rotations, combined. -/
def rot3 {w : Nat} (r : Nat × Nat × Nat) (x : BitVec w) : BitVec w := x.rotateRight r.1 ^^^ x.rotateRight r.2.1 ^^^ x.rotateRight r.2.2

/-- Two rotations and a shift, combined. -/
def rotShift {w : Nat} (r : Nat × Nat × Nat) (x : BitVec w) : BitVec w := x.rotateRight r.1 ^^^ x.rotateRight r.2.1 ^^^ (x >>> r.2.2)

/-- A constant of the tables at a width: its upper bits. -/
def Sha.const (p : Sha) (l : List Nat) (i : Nat) : BitVec p.w := BitVec.ofNat p.w (l.getD i 0 / 2 ^ (64 - p.w))

/-- Word `i` of a message schedule. -/
def schedAt {w : Nat} (ws : Array (BitVec w)) (i : Nat) : BitVec w := ws.getD i 0

/-- The message schedule of a block. -/
def Sha.schedule (p : Sha) (block : List (BitVec p.w)) : Array (BitVec p.w) :=
  (List.range (p.rounds - 16)).foldl (fun ws t =>
    ws.push (rotShift p.small1 (schedAt ws (t + 14)) + schedAt ws (t + 9) + rotShift p.small0 (schedAt ws (t + 1)) + schedAt ws t)) block.toArray

/-- The eight working variables. -/
structure ShaVars (w : Nat) where
  a : BitVec w
  b : BitVec w
  c : BitVec w
  d : BitVec w
  e : BitVec w
  f : BitVec w
  g : BitVec w
  h : BitVec w

/-- One round with its constant and schedule word added up. -/
def Sha.round (p : Sha) (v : ShaVars p.w) (kw : BitVec p.w) : ShaVars p.w :=
  let t1 := v.h + rot3 p.big1 v.e + ((v.e &&& v.f) ^^^ (~~~v.e &&& v.g)) + kw
  let t2 := rot3 p.big0 v.a + ((v.a &&& v.b) ^^^ (v.a &&& v.c) ^^^ (v.b &&& v.c))
  { a := t1 + t2, b := v.a, c := v.b, d := v.c, e := v.d + t1, f := v.e, g := v.f, h := v.g }

/-- The hash value after a block. -/
def Sha.compress (p : Sha) (v : ShaVars p.w) (block : List (BitVec p.w)) : ShaVars p.w :=
  let ws := p.schedule block
  let u := (List.range p.rounds).foldl (fun u t => p.round u (p.const shaK t + schedAt ws t)) v
  { a := v.a + u.a, b := v.b + u.b, c := v.c + u.c, d := v.d + u.d, e := v.e + u.e, f := v.f + u.f, g := v.g + u.g, h := v.h + u.h }

/-- Bytes of a block. -/
def Sha.blockBytes (p : Sha) : Nat := 2 * p.w

/-- A message with its padding: a set bit, zeros, and its length in bits as two words. -/
def Sha.pad (p : Sha) (msg : List Byte) : List Byte :=
  let b := p.blockBytes
  let n := msg.length + 1 + p.w / 4
  msg ++ [0x80] ++ List.replicate ((b - n % b) % b) 0 ++ toBe (8 * msg.length) (p.w / 4)

/-- The digest of a message. -/
def Sha.hash (p : Sha) (msg : List Byte) : List Byte :=
  let bs := p.pad msg
  let words (i : Nat) : List (BitVec p.w) :=
    (List.range 16).map (fun j => BitVec.ofNat p.w (beNat (pieceOf (pieceOf bs p.blockBytes i) (p.w / 8) j)))
  let k := p.const shaIv
  let v := (List.range (bs.length / p.blockBytes)).foldl (fun v i => p.compress v (words i))
    { a := k 0, b := k 1, c := k 2, d := k 3, e := k 4, f := k 5, g := k 6, h := k 7 }
  [v.a, v.b, v.c, v.d, v.e, v.f, v.g, v.h].flatMap (fun x => toBe x.toNat (p.w / 8))

/-- HMAC of a message under a key of at most a block. -/
def Sha.hmac (p : Sha) (key msg : List Byte) : List Byte :=
  let k := key ++ List.replicate (p.blockBytes - key.length) 0
  let mask (c : Byte) : List Byte := k.map (fun x => x ^^^ c)
  p.hash (mask 0x5C ++ p.hash (mask 0x36 ++ msg))

/-- MGF1: `n` bytes of mask from a seed. -/
def Sha.mgf1 (p : Sha) (seed : List Byte) (n : Nat) : List Byte :=
  ((List.range ((n + p.w - 1) / p.w)).flatMap (fun i => p.hash (seed ++ toBe i 4))).take n

/-- SHA-256 of some bytes as a number, the first byte of the digest lowest. -/
def sha256Num (bs : List Byte) : BitVec 256 := BitVec.ofNat 256 (leNat (sha2.hash bs))

end Sys2Proof.Machine
end

