-- ==== Sys2Proof/Machine/Slh.lean ====
section
/-!
DEFINITION. SLH-DSA with SHA-2 (FIPS 205), as R452 verifies an image with it and R453 signs a report.  The spec names the parameter sets and leaves the
functions to the standard: PRESUMED (log 47).
-/

namespace Sys2Proof.Machine

/-- A parameter set: bytes of a hash, height of the hypertree, its layers, height and number of the trees of FORS, bytes of a message digest, and
whether the wide hashes are SHA-512. -/
structure Slh where
  n    : Nat
  h    : Nat
  d    : Nat
  a    : Nat
  k    : Nat
  m    : Nat
  wide : Bool

/-- SLH-DSA-SHA2-128s. -/
def slh128s : Slh := { n := 16, h := 63, d := 7, a := 12, k := 14, m := 30, wide := false }
/-- SLH-DSA-SHA2-256s. -/
def slh256s : Slh := { n := 32, h := 64, d := 8, a := 14, k := 22, m := 47, wide := true }

/-- Height of a tree of a layer. -/
def Slh.hp (p : Slh) : Nat := p.h / p.d
/-- Chains of a one-time signature: two for each byte of a hash, and three of the checksum. -/
def Slh.len (p : Slh) : Nat := 2 * p.n + 3
/-- Bytes of the signature of a tree of a layer. -/
def Slh.xmssBytes (p : Slh) : Nat := (p.len + p.hp) * p.n
/-- Bytes of a signature of FORS. -/
def Slh.forsBytes (p : Slh) : Nat := p.k * (1 + p.a) * p.n
/-- Bytes of a signature. -/
def Slh.sigBytes (p : Slh) : Nat := p.n + p.forsBytes + p.d * p.xmssBytes

/-- An address: layer, tree, type and the three words that depend on the type. -/
structure SlhAdrs where
  layer : Nat
  tree  : Nat
  ty    : Nat
  pair  : Nat
  x     : Nat
  y     : Nat

/-- The compressed address, 22 bytes. -/
def SlhAdrs.bytes (q : SlhAdrs) : List Byte := toBe q.layer 1 ++ toBe q.tree 8 ++ toBe q.ty 1 ++ toBe q.pair 4 ++ toBe q.x 4 ++ toBe q.y 4

/-- The hash of a parameter set for messages of several hashes. -/
def Slh.big (p : Slh) : Sha := if p.wide then sha5 else sha2

/-- A tweaked hash under a public seed. -/
def Slh.tweak (p : Slh) (f : Sha) (seed : List Byte) (q : SlhAdrs) (m : List Byte) : List Byte :=
  (f.hash (seed ++ List.replicate (f.blockBytes - p.n) 0 ++ q.bytes ++ m)).take p.n

/-- F, and PRF with the secret seed as its message. -/
def Slh.one (p : Slh) (seed : List Byte) (q : SlhAdrs) (m : List Byte) : List Byte := p.tweak sha2 seed q m
/-- H and T of several hashes. -/
def Slh.many (p : Slh) (seed : List Byte) (q : SlhAdrs) (m : List Byte) : List Byte := p.tweak p.big seed q m

/-- Digits of `b` bits of a string, the highest first. -/
def digitsOf (bs : List Byte) (b n : Nat) : List Nat := (List.range n).map (fun i => beNat bs / 2 ^ (8 * bs.length - b * (i + 1)) % 2 ^ b)

/-! ## One-time signatures -/

/-- `n` steps of a chain from a place. -/
def Slh.chain (p : Slh) (seed : List Byte) (q : SlhAdrs) (x : List Byte) (i n : Nat) : List Byte :=
  (List.range n).foldl (fun t j => p.one seed { q with y := i + j } t) x

/-- The digits that a one-time signature signs: those of the message and of its checksum. -/
def Slh.wotsDigits (p : Slh) (m : List Byte) : List Nat :=
  let ds := digitsOf m 4 (2 * p.n)
  ds ++ digitsOf (toBe ((ds.map (fun x => 15 - x)).sum * 16) 2) 4 3

/-- The public key of a one-time signature from the ends of its chains. -/
def Slh.wotsPk (p : Slh) (seed : List Byte) (q : SlhAdrs) (ends : List (List Byte)) : List Byte :=
  p.many seed { q with ty := 1, x := 0, y := 0 } ends.flatten

/-- The public key that a one-time signature gives. -/
def Slh.wotsFromSig (p : Slh) (seed : List Byte) (q : SlhAdrs) (sig m : List Byte) : List Byte :=
  p.wotsPk seed q ((p.wotsDigits m).zipIdx.map (fun (x, i) =>
    p.chain seed { q with ty := 0, x := i, y := 0 } (pieceOf sig p.n i) x (15 - x)))

/-- The secret start of a chain. -/
def Slh.wotsSk (p : Slh) (sk seed : List Byte) (q : SlhAdrs) (i : Nat) : List Byte := p.one seed { q with ty := 5, x := i, y := 0 } sk

/-- A public key. -/
def Slh.wotsKey (p : Slh) (sk seed : List Byte) (q : SlhAdrs) : List Byte :=
  p.wotsPk seed q ((List.range p.len).map (fun i => p.chain seed { q with ty := 0, x := i, y := 0 } (p.wotsSk sk seed q i) 0 15))

/-- A one-time signature. -/
def Slh.wotsSign (p : Slh) (sk seed : List Byte) (q : SlhAdrs) (m : List Byte) : List Byte :=
  (p.wotsDigits m).zipIdx.flatMap (fun (x, i) => p.chain seed { q with ty := 0, x := i, y := 0 } (p.wotsSk sk seed q i) 0 x)

/-! ## Trees -/

/-- The root that an authentication path gives from a leaf; `q` is the address of a node of height 0. -/
def Slh.climb (p : Slh) (seed : List Byte) (q : SlhAdrs) (ix : Nat) (auth : List Byte) (n : Nat) (leaf : List Byte) : List Byte :=
  (List.range n).foldl (fun t j =>
    let a := pieceOf auth p.n j
    p.many seed { q with x := j + 1, y := q.y / 2 ^ (j + 1) } (if ix / 2 ^ j % 2 = 0 then t ++ a else a ++ t)) leaf

/-- The node of a tree at a height, from its leaves. -/
def Slh.node (p : Slh) (seed : List Byte) (q : SlhAdrs) (leaf : Nat → List Byte) : Nat → Nat → List Byte
  | 0, i => leaf i
  | z + 1, i => p.many seed { q with x := z + 1, y := i } (p.node seed q leaf z (2 * i) ++ p.node seed q leaf z (2 * i + 1))

/-- The root that the signature of a tree of a layer gives. -/
def Slh.xmssFromSig (p : Slh) (seed : List Byte) (q : SlhAdrs) (ix : Nat) (sig m : List Byte) : List Byte :=
  let leaf := p.wotsFromSig seed { q with pair := ix } (sig.take (p.len * p.n)) m
  p.climb seed { q with ty := 2, pair := 0, x := 0, y := ix } ix (sig.drop (p.len * p.n)) p.hp leaf

/-- A node of a tree of a layer. -/
def Slh.xmssNode (p : Slh) (sk seed : List Byte) (q : SlhAdrs) (z i : Nat) : List Byte :=
  p.node seed { q with ty := 2, pair := 0 } (fun i => p.wotsKey sk seed { q with pair := i }) z i

/-- The signature of a tree of a layer. -/
def Slh.xmssSign (p : Slh) (sk seed : List Byte) (q : SlhAdrs) (ix : Nat) (m : List Byte) : List Byte :=
  p.wotsSign sk seed { q with pair := ix } m ++ (List.range p.hp).flatMap (fun j => p.xmssNode sk seed q j (ix / 2 ^ j ^^^ 1))

/-- The address of a tree of a layer above a leaf of the hypertree. -/
def Slh.layerAdrs (p : Slh) (tree j : Nat) : SlhAdrs := { layer := j, tree := tree / 2 ^ (p.hp * j), ty := 0, pair := 0, x := 0, y := 0 }

/-- The leaf of a tree of a layer above a leaf of the hypertree. -/
def Slh.layerLeaf (p : Slh) (tree leaf j : Nat) : Nat := if j = 0 then leaf else tree / 2 ^ (p.hp * (j - 1)) % 2 ^ p.hp

/-- The root that the signatures of the layers give. -/
def Slh.htFromSig (p : Slh) (seed : List Byte) (tree leaf : Nat) (sig m : List Byte) : List Byte :=
  (List.range p.d).foldl (fun t j => p.xmssFromSig seed (p.layerAdrs tree j) (p.layerLeaf tree leaf j) (pieceOf sig p.xmssBytes j) t) m

/-- The signatures of the layers. -/
def Slh.htSign (p : Slh) (sk seed : List Byte) (tree leaf : Nat) (m : List Byte) : List Byte :=
  ((List.range p.d).foldl (fun (acc : List Byte × List Byte) j =>
    let q := p.layerAdrs tree j
    let ix := p.layerLeaf tree leaf j
    let s := p.xmssSign sk seed q ix acc.1
    (p.xmssFromSig seed q ix s acc.1, acc.2 ++ s)) (m, [])).2

/-! ## FORS -/

/-- The address of a key of FORS. -/
def forsAdrs (tree leaf ty : Nat) : SlhAdrs := { layer := 0, tree := tree, ty := ty, pair := leaf, x := 0, y := 0 }

/-- The public key that a signature of FORS gives. -/
def Slh.forsFromSig (p : Slh) (seed : List Byte) (tree leaf : Nat) (sig md : List Byte) : List Byte :=
  let roots := (digitsOf md p.a p.k).zipIdx.flatMap (fun (x, i) =>
    let s := pieceOf sig ((1 + p.a) * p.n) i
    let q : SlhAdrs := { forsAdrs tree leaf 3 with y := i * 2 ^ p.a + x }
    p.climb seed q x (s.drop p.n) p.a (p.one seed q (s.take p.n)))
  p.many seed (forsAdrs tree leaf 4) roots

/-- A signature of FORS. -/
def Slh.forsSign (p : Slh) (sk seed : List Byte) (tree leaf : Nat) (md : List Byte) : List Byte :=
  let secret (i : Nat) : List Byte := p.one seed { forsAdrs tree leaf 6 with y := i } sk
  let q := forsAdrs tree leaf 3
  let lf (i : Nat) : List Byte := p.one seed { q with y := i } (secret i)
  (digitsOf md p.a p.k).zipIdx.flatMap (fun (x, i) =>
    secret (i * 2 ^ p.a + x) ++ (List.range p.a).flatMap (fun j => p.node seed q lf j (i * 2 ^ (p.a - j) + (x / 2 ^ j ^^^ 1))))

/-! ## Signatures -/

/-- A message with an empty context string, as the pure form signs it. -/
def slhMessage (m : List Byte) : List Byte := [0, 0] ++ m

/-- The digest of a message under a randomizer: what FORS signs, the tree and the leaf. -/
def Slh.digest (p : Slh) (r seed root m : List Byte) : List Byte × Nat × Nat :=
  let f := p.big
  let g := f.mgf1 (r ++ seed ++ f.hash (r ++ seed ++ root ++ m)) p.m
  let n1 := (p.k * p.a + 7) / 8
  let n2 := (p.h - p.hp + 7) / 8
  let n3 := (p.hp + 7) / 8
  (g.take n1, beNat ((g.drop n1).take n2) % 2 ^ (p.h - p.hp), beNat ((g.drop (n1 + n2)).take n3) % 2 ^ p.hp)

/-- A signature verifies under a public key, the seed followed by the root. -/
def Slh.verify (p : Slh) (pk msg sig : List Byte) : Bool :=
  let seed := pk.take p.n
  let root := pk.drop p.n
  let r := sig.take p.n
  let (md, tree, leaf) := p.digest r seed root (slhMessage msg)
  let m := p.forsFromSig seed tree leaf ((sig.drop p.n).take p.forsBytes) md
  sig.length == p.sigBytes && p.htFromSig seed tree leaf (sig.drop (p.n + p.forsBytes)) m == root

/-- The root of the hypertree. -/
def Slh.root (p : Slh) (sk seed : List Byte) : List Byte := p.xmssNode sk seed (p.layerAdrs 0 (p.d - 1)) p.hp 0

/-- The signature of a message under a secret seed, a secret of the randomizer and a public seed, with some randomness. -/
def Slh.sign (p : Slh) (sk prf seed rnd msg : List Byte) : List Byte :=
  let root := p.root sk seed
  let m := slhMessage msg
  let r := (p.big.hmac prf (rnd ++ m)).take p.n
  let (md, tree, leaf) := p.digest r seed root m
  let fs := p.forsSign sk seed tree leaf md
  r ++ fs ++ p.htSign sk seed tree leaf (p.forsFromSig seed tree leaf fs md)

end Sys2Proof.Machine
end

