-- ==== Sys2Proof/Machine/PlatStep.lean ====
section
/-!
DEFINITION. The platform: bring-up and the image check (R444, R451, R452), attestation (R453), power (R454, R455), fabric ports (R448) and
the time base (R450).
-/

namespace Sys2Proof.Machine

/-! ## Bring-up (R451, R452) -/

/-- GO starts the image check at stage 0x01; it is ignored at any other stage (R444). -/
def Plat.go (k : Plat) : Plat := if k.stage = 1 then { k with stage := 2 } else k

/-- BOOT_GO (R444). -/
def execBootGo (s : State) : Out := eventIf s true (set { s with plat := s.plat.go })

/-- A number of an image in the boot window. -/
def bootNat (m : Memory) (o n : Nat) : Nat := leNat (m.getN o n)

/-- The image is accepted (R452). -/
def Plat.imageOK (k : Plat) : Bool :=
  let m := k.boot
  let n := bootNat m 16 8
  m.getN 0 4 == [0x4B, 0x57, 0x33, 0x36] && bootNat m 4 4 == 0 && bootNat m 88 40 == 0 && decide (n ≤ 2 ^ 26 - 29920) &&
    sha256Num (m.getN 24 64) == Config.keyHash && slh256s.verify (m.getN 24 64) (m.getN 0 (128 + n)) (m.getN (128 + n) 29792) &&
    decide (k.rollback ≤ bootNat m 8 8)

/-- The image check of stage 0x02. -/
def Plat.checkImage (k : Plat) : Plat :=
  if k.imageOK then
    { k with stage := 3, fwVer := bootNat k.boot 8 8, fwHash := sha256Num (k.boot.getN 0 (128 + bootNat k.boot 16 8 + 29792)) }
  else { k with stage := 0xE2 }

/-- The live sets that the self-test finds (R451 stage 0x03); at least 1,224 cores are live (R2). -/
def Wafer.found (w : Wafer) (r : StageReport) : Wafer :=
  { w with deadCores := (r.deadCores.filter (fun c => decide (c < 1296))).eraseDups,
           deadBanks := (r.deadBanks.filter (fun b => decide (b < 3456))).eraseDups,
           deadLinkE := (r.deadLinkE.filter (fun c => decide (c < 1296))).eraseDups,
           deadLinkN := (r.deadLinkN.filter (fun c => decide (c < 1296))).eraseDups }

/-- The rates that training finds (R451 stage 0x04). -/
def State.trained (s : State) (r : StageReport) : State :=
  r.rates.foldl (fun (s : State) e => if e.1 < 48 ∧ e.2 ≤ 3 then s.updStack e.1 (fun k => { k with cur := e.2 }) else s) s

/-- A quarter partition is formed (R451 stage 0x05): VERSION 1 and no context but context 0, which is resident in ASID 0. -/
def State.formQuarter (s : State) (p : Nat) : State :=
  let s : State := s.updPart p (fun q =>
    { q with formed := true, version := 1, mapTime := s.timeNs, mapDead := s.wafer.deadBanks,
             westFirst := (s.wafer.deadLinkE ++ s.wafer.deadLinkN).any (fun c => retQuarter (coreRet c) == p) })
  s.updCtx p 0 (fun k => { k with en := true, ackv := 1 })

/-- A stage that succeeds leads to the next. -/
def stageDone (r : StageReport) : SM Unit := do
  let s ← get
  let k := s.plat
  match k.stage with
  | 3 => set { s with wafer := s.wafer.found r, plat := { k with stage := 4 } }
  | 4 => set { s.trained r with plat := { k with stage := 5 } }
  | 5 => set ((List.range 4).foldl State.formQuarter { s with plat := { k with stage := 6 } })
  | 6 => set { s with plat := { k with stage := 7 } }
  | 7 => do
    (r.portsUp.filter (fun p => decide (p < 128) && ((s.port p).st == 0 || (s.port p).st == 1))).forM (fun p => portState p 2)
    modify fun s => { s with plat := { s.plat with stage := 0x80, boot := [], rollback := max k.rollback k.fwVer } }
  | _ => pure ()

/-- BRINGUP_STAGE_DONE (R451): stages 0x02 to 0x07; a failure stops bring-up at 0xE0 plus the stage.  What the image check finds is the
image's; what the other stages find is in the report. -/
def execBringupStageDone (ok : Bool) (rpt : StageReport) (s : State) : Out :=
  eventIf s (decide (2 ≤ s.plat.stage) && decide (s.plat.stage ≤ 7) && !(s.plat.stage == 3 && ok && decide ((s.wafer.found rpt).deadCores.length > 72)))
    (if s.plat.stage = 2 then set { s with plat := s.plat.checkImage }
     else if ok then stageDone rpt
     else set { s with plat := { s.plat with stage := 0xE0 + s.plat.stage } })

/-! ## Attestation (R453) -/

/-- The secret seed of the device identity. -/
def idSecret : List Byte := toBytes Config.idSecret.toNat 16
/-- The secret of the randomizer. -/
def idPrf : List Byte := toBytes Config.idPrf.toNat 16
/-- The public seed. -/
def idSeed : List Byte := toBytes Config.idSeed.toNat 16
/-- The identity public key (R453): its seed and the root of its hypertree. -/
def idKey : List Byte := idSeed ++ slh128s.root idSecret idSeed

/-- The 128 signed bytes of a report. -/
def State.reportHead (s : State) : List Byte :=
  toBytes 1 4 ++ toBytes s.wafer.shapeReg.toNat 4 ++ idKey ++ toBytes s.plat.fwVer 8 ++ toBytes s.plat.fwHash.toNat 32 ++
    toBytes (s.part s.plat.pnum.toNat).version 8 ++ toBytes s.timeNs 8 ++ toBytes s.plat.nonce.toNat 32

/-- The report: with its signature, or format 0 and zeros for a request made before Ready or for no partition. -/
def State.reportBytes (s : State) : List Byte :=
  if s.plat.stage = 0x80 ∧ !s.plat.early ∧ (s.part s.plat.pnum.toNat).formed then
    s.reportHead ++ slh128s.sign idSecret idPrf idSeed (toBytes (Config.idRandom s.free).toNat 16) s.reportHead
  else List.replicate 7984 0

/-- The host writes 1 to the request register (R453). -/
def Plat.attest (k : Plat) : Plat := { k with code := 1, early := k.stage != 0x80 }

/-- ATTEST_REQUEST (R453): the host writes 1. -/
def execAttestRequest (s : State) : Out := eventIf s true (set { s with plat := s.plat.attest })
/-- ATTEST_REPORT (R453). -/
def execAttestReport (s : State) : Out :=
  eventIf s (s.plat.code == 1#32) (set { s with plat := { s.plat with report := s.reportBytes, code := 2 }, free := s.free + 1 })

/-! ## Power (R454, R455) -/

/-- Without power all state is lost but the fused counter, and what is not the device's: the host's memory and what it does next (R454).
Identities and free values are not used twice. -/
def State.off (s : State) : State :=
  { State.reset with plat := { Plat.init with on := false, rollback := s.plat.rollback }, host := s.host, agenda := s.agenda,
                     free := s.free, fresh := s.fresh }

/-- POWER_ON (R451): a module without power starts at stage 0x01. -/
def execPowerOn (s : State) : Out := if s.plat.on then .fault .notEnabled else .next { s with plat := { s.plat with on := true } }

/-- POWER_LOSS (R454). -/
def execPowerLoss (s : State) : Out := event s (some (set s.off))
/-- OVERTEMP_POWER_OFF (R455). -/
def execOvertempPowerOff (s : State) : Out := event s (some (set s.off))

/-- SHUT: every partition begins to drain (R408, R454). -/
def State.shutReq (s : State) : State :=
  { s with plat := { s.plat with shut := true }, parts := s.parts.map (fun q => if q.formed then q.quiesce true else q) }

/-- Every partition is quiesced. -/
def State.allQuiesced (s : State) : Bool := (List.range 4).all (fun p => !(s.part p).formed || s.quiesced p)

/-- SHUTDOWN (R454): the request, and then, when every partition is quiesced, the write-back of every dirty line and the end of power. -/
def execShutdown (s : State) : Out :=
  eventIf s (!s.plat.shut || s.allQuiesced) (if s.plat.shut then do
      ((List.range 4).filter (fun p => (s.part p).formed)).forM emptyPart
      modify fun s => s.off
    else set s.shutReq)

/-- A CLK write (R454): in force only when every partition is quiesced; there is no state P3. -/
def State.setClk (s : State) (v : Nat) : State :=
  if v < 3 ∧ s.allQuiesced then
    { s with plat := { s.plat with clk := v, pcur := v, cbad := false } }
  else { s with plat := { s.plat with cbad := true } }

/-- CLK_WRITE (R454). -/
def execClkWrite (v : BitVec 2) (s : State) : Out := eventIf s true (set (s.setClk v.toNat))

/-- THROTTLE (R455): the draw, in units of 10 W, is above 23 kW.  Harvest warps are throttled first; a draw still above it throttles standard-owner
warps too. -/
def execThrottle (draw : BitVec 16) (s : State) : Out :=
  eventIf s (decide (draw.toNat > 2300)) (set { s with plat := { s.plat with thr := true, thr2 := s.plat.thr, draw := draw.toNat } })
/-- THROTTLE_RELEASE (R455). -/
def execThrottleRelease (draw : BitVec 16) (s : State) : Out :=
  eventIf s (decide (draw.toNat ≤ 2300)) (set { s with plat := { s.plat with thr := false, thr2 := false, draw := draw.toNat } })

/-! ## Fabric ports (R448) -/

/-- Trainings of a port that failed within the last 1 s. -/
def State.recentFails (s : State) (k : Nat) : List Nat := (s.port k).fails.filter (fun t => decide (s.plat.cc < t + 1400000000))

/-- PORT_LINK_FAIL (R448): a port in state 0, 2 or 3 goes to Training. -/
def execPortLinkFail (port : Nat) (s : State) : Out :=
  let st := (s.port port).st
  eventIf s (decide (port < 128) && (st == 0 || st == 2 || st == 3)) (portState port 1)

/-- PORT_TRAINED (R448): a training ends; the third that fails within 1 s leaves the port Dead. -/
def execPortTrained (port : Nat) (ok oneLane : Bool) (s : State) : Out :=
  eventIf s (decide (port < 128) && (s.port port).st == 1)
    (if ok then portState port (if oneLane then 3 else 2)
     else do
      let fs := s.plat.cc :: s.recentFails port
      modify fun s => s.updPort port (fun x => { x with fails := fs })
      if fs.length ≥ 3 then portState port 5)

/-- PORT_FENCE (R448). -/
def execPortFence (part port : Nat) (fen : Bool) (s : State) : Out :=
  eventIf s (decide (port < 128) && s.partOfPort port == part && (s.part part).formed) (setFence port fen)

/-! ## Time (R450) -/

/-- Some partition slices. -/
def State.slicing (s : State) : Bool := s.parts.toList.any (fun q => q.slc.getLsbD 31 || q.slcW.getLsbD 31)

/-- An offset from the master is corrected: a step forwards above 1 us while nothing slices, else a slew; time never runs backwards.  The time base
takes the master's frequency, and holds it while no port is slave. -/
def State.correct (s : State) (off : Int) : State :=
  let k := s.plat
  let now := s.timeNs
  let k : Plat := { k with offs := off :: k.offs.take 15, tcc := k.cc, freq := some s.free }
  let s : State := { s with free := s.free + 1 }
  if !s.slicing ∧ off > 1000 then { s with plat := { k with tns := now + off.toNat, slew := 0 } }
  else { s with plat := { k with tns := now, slew := off } }

/-- PTP_SYNC (R450): a message of the master reaches the slave port. -/
def execPtpSync (off : Int) (s : State) : Out := eventIf s s.plat.slave.isSome (set (s.correct off))

/-- The slave port changes; SLV shows it (R447).  The time base holds the frequency it has. -/
def State.selectSlave (s : State) (port : Option Nat) : State :=
  let s : State := match s.plat.slave with | some k => s.updPort k (fun x => { x with slv := false }) | none => s
  let s : State := match port with | some k => s.updPort k (fun x => { x with slv := true }) | none => s
  { s with plat := { s.plat with slave := port } }

/-- PTP_SLAVE_SELECT (R450): at most one of the ports that are Up. -/
def execPtpSlaveSelect (port : Option Nat) (s : State) : Out :=
  eventIf s (match port with | some k => decide (k < 128) && ((s.port k).st == 2 || (s.port k).st == 3) | none => true)
    (set (s.selectSlave port))

end Sys2Proof.Machine
end

