-- ==== Sys2Proof/Machine/HostStep.lean ====
section
/-!
DEFINITION. The host port (R183, R442-R446): device memory, the register space of BAR0, engine channels, the map pages and error logs, and
writes to registers without a row of their own.  A host access names BAR0 by an address from 2^52 on, BAR2 from 2^53 and BAR4 from 2^54; the
partition whose interleave maps an address of device memory stands above bit 56 (log 31).
-/

namespace Sys2Proof.Machine

/-! ## Doorbells (R445, R446) -/

/-- The limited acquire at `.sys` that a host-started copy makes at issue in place of the issue release (R181, R446): clean bytes of the ranges are
dropped. -/
def doorAcquire (g : Agent) (locks : List Lock) : SM Unit := do
  let cond (ln : Nat) : Bool := locks.any (fun l => !l.pad && decide (l.lo ≤ ln) && decide (ln ≤ l.hi))
  acquireL1 g.core g.part g.asid true cond
  removeLines g.part (fun k => k.asid == g.asid && cond k.ln) false

/-- The first doorbell of a channel is done with; it may be counted as dropped. -/
def dropBell (c : Nat) (count : Bool) : SM Unit :=
  modify fun s => s.updChan c (fun k => { k with bells := k.bells.drop 1, drop := if count then min 0xFFFF (k.drop + 1) else k.drop })

/-- A template that fails a check: its completion record reports ERROR when its page was probed, else the doorbell is dropped. -/
def bellError (c : Nat) (g : Agent) (q : Option CopyReq) : SM Unit := do
  match q with
  | none => dropBell c true
  | some q =>
    if q.crec = 0 then dropBell c true
    else
      match ← (probeRngs g (crecRng q.crec)).run with
      | .error _ => dropBell c true
      | .ok _ => do
        let s ← get
        let o := newOp g 0 0 (.copy q.x) q.crec 0 [] true
        let _ ← engWrite g (BitVec.ofNat 64 q.crec) ((EngOp.record { o with status := 5 } s.timeNs))
        cleanLine (g.key q.crec)
        dropBell c false

/-- The copy of the first doorbell of a channel starts; one that must wait for room is kept as it was issued. -/
def bellStart (c : Nat) (g : Agent) (o : EngOp) : SM Unit := do
  match ← (copyStart g o (doorAcquire g)).run with
  | .ok o => do
    let s ← get
    set { s with ops := s.ops ++ [{ o with oid := s.fresh, host := true, sys := true }], fresh := s.fresh + 1 }
    queueCopy g.core s.fresh
    modify fun s => s.updChan c (fun k => { k with hold := none })
    dropBell c false
  | .error t =>
    if t.cause = 0 then modify fun s => s.updChan c (fun k => { k with hold := some o })
    else do
      modify fun s => s.updChan c (fun k => { k with hold := none })
      match o.desc with
      | .copy x => bellError c g (some { x := x, ring := none, crec := o.crec, jrec := o.jrec })
      | _ => dropBell c true

/-- The first doorbell of a channel is taken (R446); a copy that must wait for room leaves it waiting. -/
def takeBell (c : Nat) : SM Unit := do
  let s ← get
  let k := s.chan c
  let p := s.partOfCore k.core
  match k.bells, k.en && s.coreLive k.core && decide (k.core < 1296), s.ctxsOf p k.asid with
  | [], _, _ => pure ()
  | i :: _, true, ctx :: _ =>
    if (s.part p).qst = .reshaping then pure ()
    else do
      let g : Agent := { core := k.core, part := p, ctx := ctx, asid := k.asid }
      match k.hold with
      | some o => bellStart c g o
      | none => do
        match ← ((do copyReq (← descRead g (tmplVa i) 128) none : M CopyReq)).run with
        | .error t => if t.cause = 0 then pure () else bellError c g none
        | .ok q => do
          match ← (copyOp g 0 0 q).run with
          | .ok o => bellStart c g o
          | .error t => if t.cause = 0 then pure () else bellError c g (some q)
  | _ :: _, _, _ => do
    modify fun s => s.updChan c (fun k => { k with hold := none })
    dropBell c true

/-- DOORBELL (R446): it joins those that wait at its channel, and the first of them is taken. -/
def execDoorbell (ch : Nat) (tmpl : Word32) (s : State) : Out :=
  eventIf s (decide (ch < 4096) && s.plat.chanUp) (do
    modify fun s => s.updChan ch (fun k => { k with bells := k.bells ++ [(tmpl.extractLsb' 0 11).toNat] })
    takeBell ch)

/-! ## Device memory (R183) -/

/-- Where a host access to device memory goes: a stack and an address in it, or nowhere (an Unsupported Request). -/
def State.hostRoute (s : State) (pa : Nat) : Option (Nat × Nat) :=
  let q := s.part (pa / 2 ^ 56)
  if !q.formed then none
  else
    match q.route (pa % 2 ^ 56 / 128 * 128) with
    | .dram stk loc => some (stk, loc)
    | _ => none

/-- A host read of device memory, a command of unshared traffic (R139): data, and 0, 1 for poisoned data or 2 for an Unsupported Request. -/
def hostRead (pa : Nat) : SM (LineData × Nat) := do
  let s ← get
  match s.hostRoute pa with
  | none => pure (0, 2)
  | some (stk, loc) => do
    mcRead stk loc hostPart 0
    let (d, poi) ← dramLine (s.partOfStack stk) 0 stk loc
    pure (d, if poi then 1 else 0)

/-- A host write of device memory, a command of unshared traffic: a merge by byte mask under key domain 0, made at its issue, before the host's later
accesses (R183, R446). -/
def hostWrite (pa : Nat) (mask : LineMask) (d : LineData) : SM Unit := do
  let s ← get
  match s.hostRoute pa with
  | none => pure ()
  | some (stk, loc) => do
    let c : McCmd := { stack := stk, addr := loc, mask := mask, data := d, part := hostPart, asid := 0, kd := 0, poi := false, rd := false,
                       done := false, save := false, held := false, at' := 0 }
    if mask ≠ 0 then mcAwait c

/-! ## BAR0 (R371, R442-R444, R453) -/

/-- DEV_CTL. -/
def Plat.devCtl (k : Plat) : Word32 := 0#4 ++ k.auth ++ 0#6 ++ BitVec.ofNat 2 k.clk ++ 0#16
/-- DEV_STAT. -/
def Plat.devStat (k : Plat) : Word32 :=
  BitVec.ofNat 8 k.stage ++ BitVec.ofNat 2 k.pcur ++ BitVec.ofBool k.cbad ++ BitVec.ofBool k.thr ++ 0#4 ++ BitVec.ofNat 16 k.draw

/-- Eight bytes of a work queue's block. -/
def State.queueWord (s : State) (q r : Nat) : Word :=
  match r / 8 with
  | 0 => (s.queue q).base
  | 1 => 0#32 ++ s.wqCtl q
  | 2 => BitVec.ofNat 32 (s.queue q).head ++ BitVec.ofNat 32 (s.queue q).tail
  | _ => 0

/-- Eight bytes of a partition's window: the plain registers, or the block of an instance. -/
def State.windowWord (s : State) (p o : Nat) : Word :=
  if !(s.part p).formed then 0
  else if o < 0x80000 then regAperRead s none false p (o / 8) none 0 8
  else if 0x100000 ≤ o ∧ o < 0x180000 then
    match instAt (o - 0x100000) with
    | some (n, i) => regAperRead s none false p n (some i) 0 8
    | none => 0
  else 0

/-- Eight bytes of a list of bytes from an offset. -/
def byteWord (bs : List Byte) (o : Nat) : Word := BitVec.ofNat 64 (leNat ((bs.drop o).take 8))

/-- Eight bytes of the device registers. -/
def Plat.devWord (k : Plat) (o : Nat) : Word :=
  if o = 0 then 0#32 ++ k.devCtl
  else if o = 8 then 0#32 ++ k.devStat
  else if 0x100 ≤ o ∧ o < 0x120 then k.nonce.extractLsb' (8 * (o - 0x100)) 64
  else if o = 0x120 then 0#32 ++ k.pnum
  else if o = 0x128 then 0#32 ++ k.code
  else if 0x1000 ≤ o ∧ o < 0x1000 + 7984 then byteWord k.report (o - 0x1000)
  else 0

/-- Eight aligned bytes of BAR0. -/
def State.bar0Word (s : State) (o : Nat) : Word :=
  if o < 0x80000 then s.queueWord (o / 32) (o % 32)
  else if 0x1000000 ≤ o ∧ o < 0x2000000 then s.windowWord ((o - 0x1000000) / 0x400000) ((o - 0x1000000) % 0x400000)
  else if 0x2000000 ≤ o ∧ o < 0x4000000 then s.plat.devWord (o - 0x2000000)
  else if 0x4000000 ≤ o ∧ o < 0x8000000 then byteWord (s.plat.boot.getN (o - 0x4000000) 8) 0
  else 0

/-- A line made of sixteen words. -/
def lineOfWords (f : Nat → Word) : LineData :=
  BitVec.ofNat 1024 (((List.range 16).map (fun i => (f i).toNat * 2 ^ (64 * i))).sum)

/-- A line of BAR4: a partition's map page, or a stack's error log. -/
def State.bar4Line (s : State) (o : Nat) : LineData :=
  if o < 0x10000 then (if (s.part (o / 0x4000)).formed ∧ o % 0x4000 < 0x3000 then s.mapLine (o / 0x4000) (o % 0x4000) else 0)
  else if o < 0x40000 then (s.stack ((o - 0x10000) / 4096)).logLine (o % 4096)
  else 0

/-- A line of a BAR; after a failed bring-up only BAR0 answers (R451). -/
def State.barRead (s : State) (a : Nat) : LineData × Nat :=
  let o := a / 128 * 128
  if o < 2 ^ 53 then (if o - 2 ^ 52 < 0x8000000 then (lineOfWords (fun i => s.bar0Word (o - 2 ^ 52 + 8 * i)), 0) else (0, 2))
  else if s.plat.stage > 0xE0 then (0, 2)
  else if o < 2 ^ 54 then
    (if o - 2 ^ 53 < 0x1000000 then
      (lineOfWords (fun i => chanRead s ((o - 2 ^ 53) / 4096) ((o - 2 ^ 53) % 4096 + 8 * i) 8), 0) else (0, 2))
  else if o - 2 ^ 54 < 0x40000 then (s.bar4Line (o - 2 ^ 54), 0)
  else (0, 2)

/-- HOST_MEM_READ (R183, R442): what the read returned stands in `hostRd`. -/
def execHostMemRead (pa : Nat) (s : State) : Out :=
  event s (some (do
    let r ← (if pa % 2 ^ 56 < 2 ^ 52 then (if s.plat.stage > 0xE0 then pure (0, 2) else hostRead pa) else pure (s.barRead (pa % 2 ^ 56)))
    modify fun s => { s with hostRd := some r }))

/-- An aligned span of 4 or 8 bytes that a mask names. -/
def maskSpan (mask : LineMask) : Option (Nat × Nat) :=
  ((List.range 16).map (fun i => (8 * i, 8)) ++ (List.range 32).map (fun i => (4 * i, 4))).find? (fun x => mask == spanMask x.1 x.2)

/-- A write to a work queue's block (R371): whole fields alone. -/
def queueWrite (q r n : Nat) (v : Word) : SM Unit := do
  let s ← get
  let old := (s.queue q).base
  match r, n with
  | 0, 8 => wqBaseSet q v
  | 0, 4 => wqBaseSet q ((old.extractLsb' 32 32 : Word32) ++ (v.truncate 32 : Word32))
  | 4, 4 => wqBaseSet q ((v.truncate 32 : Word32) ++ (old.extractLsb' 0 32 : Word32))
  | 8, 4 => wqCtlSet q (v.truncate 32)
  | 16, _ => wqTailSet q (v.truncate 32)
  | _, _ => pure ()

/-- A write to a partition's window. -/
def windowWrite (p o n : Nat) (v : Word) : SM Unit := do
  let s ← get
  if !(s.part p).formed then pure ()
  else if o < 0x80000 then regAperWrite none false p (o / 8) none (o % 8) n v
  else if 0x100000 ≤ o ∧ o < 0x180000 then
    match instAt (o - 0x100000) with
    | some (k, i) => regAperWrite none false p k (some i) (o % 8) n v
    | none => pure ()
  else pure ()

/-- AUTH (R444): a write of two bits, or of a bit that names no lowest quarter, leaves it as it is. -/
def State.setAuth (s : State) (v : BitVec 4) : State :=
  let bits := (List.range 4).filter (fun i => v.getLsbD i)
  if decide (bits.length ≤ 1) && bits.all (fun p => s.partOfQ p == p) then { s with plat := { s.plat with auth := v } } else s

/-- A write to DEV_CTL (R444): GO, AUTH, a changed CLK, SHUT. -/
def devCtlWrite (v : Word32) : SM Unit := do
  if v.getLsbD 15 then modify fun s => { s with plat := s.plat.go }
  modify fun s => s.setAuth (v.extractLsb' 24 4)
  modify fun s => if (v.extractLsb' 16 2).toNat = s.plat.clk then s else s.setClk (v.extractLsb' 16 2).toNat
  if v.getLsbD 31 then modify fun s => if s.plat.shut then s else s.shutReq

/-- A write of 4 or 8 bytes to the device registers. -/
def devWrite8 (o : Nat) (v : Word) : SM Unit :=
  if o = 0 then devCtlWrite (v.truncate 32)
  else if o = 0x120 then modify fun s => { s with plat := { s.plat with pnum := v.truncate 32 } }
  else if o = 0x128 then modify fun s => if v.truncate 32 = 1#32 then { s with plat := s.plat.attest } else s
  else pure ()

/-- Bytes of a masked line that fall into a place, one by one. -/
def maskedBytes (mask : LineMask) (d : LineData) : List (Nat × Byte) :=
  ((List.range 128).filter (fun i => mask.getLsbD i)).map (fun i => (i, LineData.byte d i))

/-- A write of bytes to the nonce (R453). -/
def Plat.setNonce (k : Plat) (o : Nat) (bs : List (Nat × Byte)) : Plat :=
  bs.foldl (fun (k : Plat) (e : Nat × Byte) =>
    if 0x100 ≤ o + e.1 ∧ o + e.1 < 0x120 then
      let sh := 8 * (o + e.1 - 0x100)
      { k with nonce := (k.nonce &&& ~~~((0xFF#256 : BitVec 256) <<< sh)) ||| ((BitVec.setWidth 256 e.2 : BitVec 256) <<< sh) }
    else k) k

/-- A write to BAR0: the boot window and the nonce take any bytes, registers an aligned span of 4 or 8. -/
def bar0Write (o : Nat) (mask : LineMask) (d : LineData) : SM Unit := do
  let s ← get
  let k := s.plat
  if 0x4000000 ≤ o ∧ o < 0x8000000 then
    if k.stage = 0x80 then pure ()
    else set { s with plat := { k with boot := k.boot.setLine (o - 0x4000000) mask d } }
  else if o = 0x2000100 ∧ (maskedBytes mask d).all (fun e => decide (e.1 < 0x20)) then
    set { s with plat := k.setNonce 0x100 (maskedBytes mask d) }
  else
    match maskSpan mask with
    | none => pure ()
    | some (i, n) => do
      let v : Word := (d >>> (8 * i)).truncate 64 &&& (if n = 8 then BitVec.allOnes 64 else 0xFFFFFFFF)
      let a := o + i
      if a < 0x80000 then queueWrite (a / 32) (a % 32) n v
      else if 0x1000000 ≤ a ∧ a < 0x2000000 then windowWrite ((a - 0x1000000) / 0x400000) ((a - 0x1000000) % 0x400000) n v
      else if 0x2000000 ≤ a ∧ a < 0x4000000 then devWrite8 (a - 0x2000000) v
      else pure ()

/-- A write to a BAR; BAR4 is read-only. -/
def barWrite (a : Nat) (mask : LineMask) (d : LineData) : SM Unit := do
  let s ← get
  let o := a / 128 * 128
  if o < 2 ^ 53 then bar0Write (o - 2 ^ 52) mask d
  else if s.plat.stage > 0xE0 ∨ o ≥ 2 ^ 54 then pure ()
  else
    match maskSpan mask with
    | none => pure ()
    | some (i, n) =>
      chanWrite ((o - 2 ^ 53) / 4096) ((o - 2 ^ 53) % 4096 + i) n ((d >>> (8 * i)).truncate 64 &&& (if n = 8 then BitVec.allOnes 64 else 0xFFFFFFFF))

/-- HOST_MEM_WRITE (R183, R442). -/
def execHostMemWrite (pa : Nat) (mask : LineMask) (data : LineData) (s : State) : Out :=
  event s (some (if pa % 2 ^ 56 < 2 ^ 52 then (if s.plat.stage > 0xE0 then pure () else hostWrite pa mask data)
    else barWrite (pa % 2 ^ 56) mask data))

/-- REGISTER_WRITE (R277, R443): a write by the host to a listed register of a partition. -/
def execRegisterWrite (part num inst : Nat) (v : Word) (s : State) : Out :=
  event s (match regInfo num with
    | some r => if (s.part part).formed ∧ s.instOK part r.inst inst ∧ 0x200 ≤ num then some (regPut none part num inst v) else none
    | none => none)

end Sys2Proof.Machine
end

