-- ==== Sys2Proof/Machine/Fetch.lean ====
section
/-!
DEFINITION. Fetching an instruction (R228-R235, R243) and the choice of the warp that issues next (R202, R385).
-/

namespace Sys2Proof.Machine

/-- OPC 0xC0-0xC7, the matrix family (R243). -/
def isMatrix : Instr → Bool
  | .mma _ _ _ _ _ _ | .mmb _ _ _ _ _ _ | .mms _ _ _ _ _ _ _ | .spcmp _ _ _ _ _ | .mtrn _ _ _ | .mzero _ _
  | .mcvt _ _ _ _ | .mscale _ _ _ _ => true
  | _ => false

/-- Steps 2 to 4 of R243 on a word of a line whose reserved bits are checked: an instruction, or the cause of the trap. -/
def checkWord (g16 : Bool) (word : BitVec 96) : Except Nat Instr :=
  match decode word with
  | .error .illegal => .error 0x01
  | .error .reserved => .error 0x02
  | .ok i => if g16 && isMatrix i then .error 0x15 else .ok i

/-- The instruction of a slot of a line that passed its parity check (R230, R243). -/
def slotInstr (g16 : Bool) (d : BitVec 512) (slot : Nat) : Except Nat Instr :=
  if (lineWord d).extractLsb' 15 17 != 0#17 then .error 0x02 else checkWord g16 (slotWord d slot)

/-- Fetches the instruction at a warp's PC, or gives the trap that the slot raises.  A warp that resumes is not checked by R234; of a malformed PC in
its control block the model ignores the bits that no PC has and takes the word from its slot on, its own choice (log 68). -/
def fetchInstr (w : Warp) : SM (Except Trap Instr) := do
  match ← fetchLine w.core w.part w.asid (pcLine w.pc).toNat with
  | .error t => pure (.error t)
  | .ok d =>
    match slotInstr w.g16 d (pcSlot w.pc) with
    | .error c => pure (.error (trapOf c))
    | .ok i => pure (.ok i)

/-! ## Choice of the next warp -/

/-- The code line of a warp's PC stands in the instruction cache of its core. -/
def State.codeHeld (s : State) (w : Warp) : Bool :=
  (s.core w.core).icache.any (fun l => l.part == w.part && l.asid == w.asid && l.ln == (pcLine w.pc).toNat)

/-- A warp that may issue (R206, R272): Running, not waiting, not paused.  While its partition is reshaped a fetch from memory waits
(R433), and while the module throttles no harvest warp issues, and, when that is not enough, a standard one in one cc of two (R455). -/
def State.ready? (s : State) (w : Warp) : Bool :=
  w.st == .running && !w.wait && (match w.pause with | some t => decide (t ≤ s.plat.cc) | none => true) &&
    ((s.part w.part).qst != .reshaping || s.codeHeld w) && !(s.plat.thr && w.harvest) &&
    !(s.plat.thr2 && w.cls == 1 && s.plat.cc % 2 == 0)

/-- How long a ready instruction of the warp has waited. -/
def State.waited (s : State) (w : Warp) : Nat := s.plat.cc - w.since

/-- Rank of a warp's class in issue order: a standard warp that waited 4,096 cc and was promoted comes first (R385), then
latency-critical owner, standard owner, harvest (R202). -/
def State.rank (s : State) (w : Warp) : Nat :=
  if w.harvest then 4
  else if w.promo && w.cls == 1 && decide (s.waited w ≥ 4096) then 0
  else w.cls + 1

/-- A warp stands before another of its sub-core in issue order (R202, R385). -/
def State.before (s : State) (a b : Warp) : Bool :=
  decide (s.rank a < s.rank b) ||
    (s.rank a == s.rank b && ((a.promo && !b.promo) || (a.promo == b.promo && decide (a.age < b.age))))

/-- The heads of the sub-cores' candidate lists. -/
def State.heads (s : State) : List Warp :=
  let c := s.warps.filter s.ready?
  c.filter (fun w => c.all (fun x => !(x.core == w.core && x.sub == w.sub && s.before x w)))

/-- The warp that issues next: of the heads, the one that has waited longest (log 10). -/
def State.pick (s : State) : Option Warp :=
  s.heads.foldl (fun best w =>
    match best with
    | none => some w
    | some b => if decide (w.since < b.since) then some w else some b) none

end Sys2Proof.Machine
end

