-- ==== Sys2Proof/Machine/IssueStep.lean ====
section
/-!
DEFINITION. Steps inside a sub-core: issue into the reorder buffer (R201, R202), promotion (R385), load replies (R205), refetch
(R230), and window lines (R55, R63).  No party observes the reorder buffer (R201).
-/

namespace Sys2Proof.Machine

/-- Issued instructions from the warp's PC on: entries of retired instructions are gone. -/
def Warp.liveRob (w : Warp) : List RobEntry := w.rob.dropWhile (fun e => e.pc != w.pc)
/-- PC of the instruction that the warp issues next. -/
def Warp.nextIssue (w : Warp) : Word := if w.liveRob = [] then w.pc else w.fpc
/-- Issues one instruction of the warp, which takes an entry of the reorder buffer. -/
def Warp.issue (w : Warp) (cc : Nat) : Warp :=
  { w with rob := w.liveRob ++ [{ pc := w.nextIssue, done := false }], fpc := nextSlot w.nextIssue, since := cc, promo := false }

/-- Candidates of a sub-core (R202): warps that may issue, with a free entry of the reorder buffer. -/
def State.cands (s : State) (core sub : Nat) : List Warp :=
  s.warps.filter (fun w => w.core == core && w.sub == sub && s.ready? w && decide (w.liveRob.length < 48))
/-- The head of candidates. -/
def State.headOf (s : State) (ws : List Warp) : Option Warp :=
  ws.find? (fun w => ws.all (fun x => x.wid == w.wid || !s.before x w))

/-- The format field of an instruction word (R236). -/
def formatOf (word : BitVec 96) : Nat := (word.extractLsb' 21 3).toNat

/-- Two instructions are of one kind of which two never issue together: MEM, MX, BR or SYS format (R235). -/
def sameKind (a b : BitVec 96) : Bool := decide (4 ≤ formatOf a) && formatOf a == formatOf b

/-- The instruction of a word is a taken branch of a warp (R235).  Behind instructions that have not retired a conditional one counts as taken:
the model's choice, which no party observes (log 61). -/
def takenBranch (w : Warp) (word : BitVec 96) : Bool :=
  let early := !w.liveRob.isEmpty
  match decode word with
  | .ok (.br _) | .ok (.call _ _) | .ok (.calli _ _) | .ok .ret => true
  | .ok (.bcc k _) => early || w.cond k
  | .ok (.bmz m _) => early || w.m m == 0#32
  | .ok (.bmnz m _) => early || w.m m != 0#32
  | _ => false

/-- The instruction at a PC and the next one of its line may issue together: the PAIR bit for the slot is set, and neither case of R235 holds
(R202, R229). -/
def mayPair (w : Warp) (pc : Word) : SM Bool := do
  if pcSlot pc ≥ 4 then pure false
  else
    match ← fetchLine w.core w.part w.asid (pcLine pc).toNat with
    | .ok d =>
      let a := slotWord d (pcSlot pc)
      pure ((lineWord d).getLsbD (5 + pcSlot pc) && !sameKind a (slotWord d (pcSlot pc + 1)) && !takenBranch w a)
    | .error _ => pure false

/-- ISSUE_CYCLE (R201, R202). -/
def execIssueCycle (core sub : Nat) (s : State) : Out :=
  event s ((s.headOf (s.cands core sub)).map (fun w => do
    let cc := s.plat.cc
    let others := (s.cands core sub).filter (fun x => x.wid != w.wid && (w.harvest || !x.harvest))
    let pair ← mayPair w w.nextIssue
    let v := w.issue cc
    if pair ∧ v.liveRob.length < 48 then modify fun s => s.setWarp (v.issue cc)
    else do
      modify fun s => s.setWarp v
      match s.headOf others with
      | some x => modify fun s => s.setWarp (x.issue cc)
      | none => pure ()))

/-- STARVATION_PROMOTION (R385): after 256 cc the warp is the oldest of its class, after 4,096 cc a standard-owner warp goes ahead of
latency-critical ones. -/
def execStarvationPromotion (wid : Nat) (s : State) : Out :=
  event s ((s.warp? wid).bind (fun w =>
    if s.ready? w && decide (s.waited w ≥ 256) then some (modify fun s => s.setWarp { w with promo := true }) else none))

/-- LOAD_REPLY (R205): the oldest incomplete instruction of the warp completes. -/
def execLoadReply (wid : Nat) (s : State) : Out :=
  event s ((s.warp? wid).bind (fun w =>
    let r := w.liveRob
    match r.findIdx? (fun e => !e.done) with
    | some i => some (modify fun s => s.setWarp { w with rob := r.modify i (fun e => { e with done := true }), wait := false, reply := none })
    | none => none))

/-- The code lines of a core's instruction cache in a line of memory. -/
def State.codeOf (s : State) (core : Nat) (key : LineKey) : List ILine :=
  (s.core core).icache.filter (fun l => l.part == key.part && l.asid == key.asid && l.ln / 2 == key.ln)

/-- Discards code lines of a core and fetches each once more; one that fails again stays out. -/
def refetch (core : Nat) (held : List ILine) : SM Unit := do
  modify fun s => s.updCore core (fun c => { c with icache := c.icache.filter (fun l => !held.contains l) })
  held.forM (fun l => do
    match ← codeRead core l.part l.asid l.ln with
    | .ok (d, poi) => if parityOK d && !poi then putCode core { l with data := d, poi := false } else pure ()
    | .error _ => pure ())

/-- FETCH_PARITY_REFETCH (R230): a line that fails its parity is discarded and fetched once more; it stays out when it fails again. -/
def execFetchParityRefetch (core : Nat) (key : LineKey) (s : State) : Out :=
  eventIf s (s.codeOf core key != []) (refetch core (s.codeOf core key))

/-- The least recently used committed line of the register cache, or of the Kennel when the register cache holds none. -/
def Warp.lruLine (w : Warp) : Option Nat := ((w.kennel ++ w.lines).getLast?).map (fun l => l.idx)

/-- A line of the warp is to be evicted: it is beyond the quota, or the warp is saved and an incoming warp needs the place (R55, R64). -/
def State.mustEvict (s : State) (w : Warp) : Bool :=
  w.overQuota || (w.st == .saved && decide (0 < w.lines.length) && decide (1280 < s.subLines w.core w.sub))

/-- Lines of a warp of the sub-core that moved quota away are evicted before those of another warp (R60). -/
def State.evictsFirst (s : State) (w : Warp) : Bool :=
  w.shed || !s.warps.any (fun x => x.core == w.core && x.sub == w.sub && x.shed && x.overQuota)

/-- One line leaves the register cache; a write-back that finds no page to write is an orphan of the warp's context (R45, R184). -/
def evictOne (w : Warp) (i : Nat) : SM Unit := do
  match ← (evictLine w i).run with
  | .ok v => modify fun s => s.setWarp { v with shed := v.shed && v.overQuota }
  | .error _ => do
    modify fun s => s.setWarp { w with lines := w.lines.filter (fun l => l.idx != i), kennel := w.kennel.filter (fun l => l.idx != i) }
    modify fun s => s.orphan w.part w.ctx (BitVec.ofNat 64 (w.lineVa i))

/-- WINDOW_LINE_EVICT (R55): the line used least recently is dropped, or written back through the L1. -/
def execWindowLineEvict (wid : Nat) (s : State) : Out :=
  event s ((s.warp? wid).bind (fun w =>
    match s.mustEvict w && s.evictsFirst w && (s.part w.part).qst != .reshaping, w.lruLine with
    | true, some i => some (evictOne w i)
    | _, _ => none))

/-- Fills a line of a running warp's window; a fill that fails leaves the trap to the instruction that needs the line (R55). -/
def fillFor (w : Warp) (i : Nat) : SM Unit := do
  match ← (fillLine w i).run with
  | .ok w => modify fun s => s.setWarp w
  | .error _ => pure ()

/-- WINDOW_LINE_FILL (R55). -/
def execWindowLineFill (wid idx : Nat) (s : State) : Out :=
  event s ((s.warp? wid).bind (fun w =>
    if w.st == .running && decide (idx < w.wres) && !w.hasLine idx && !w.inKennel idx && !s.renameWaits w then some (fillFor w idx)
    else none))

/-- KENNEL_LINE_RETURN (R63). -/
def execKennelLineReturn (wid idx : Nat) (s : State) : Out :=
  event s ((s.warp? wid).bind (fun w =>
    if w.st == .running && w.inKennel idx && !s.renameWaits w then some (fillFor w idx) else none))

end Sys2Proof.Machine
end

