-- ==== Sys2Proof/Machine/Arrays.lean ====
section
/-!
DEFINITION. Lines of a core's arrays and of the banks that cannot be corrected (R98, R402): a clean one is dropped and filled again, a dirty one is
written poisoned.  Which lines fail, and when, is free (log 59).
-/

namespace Sys2Proof.Machine

/-- Dirty bytes that cannot be corrected are written poisoned: at the home where a bank holds one, else in memory. -/
def poisonWrite (k : LineKey) (kd pa : Nat) (mask : LineMask) (d : LineData) : SM Unit := do
  takeHeld k
  let s ← get
  match s.dirEnt k with
  | some e => do
    updBank e.home k (fun l => { l with data := mergeLine mask l.data d, dirty := l.dirty ||| mask, poi := true })
    if e.vv || e.rmask != [] then collapse k
  | none => memWrite k kd pa mask d true

/-- An L1 line that cannot be corrected. -/
def loseL1 (core : Nat) (l : L1Line) : SM Unit := do
  dropL1 core (fun x => x.key == l.key)
  if l.dirty ≠ 0 then poisonWrite l.key l.perm.kd l.pa l.dirty l.data

/-- A line of a warp in the register cache or the Kennel that cannot be corrected; a dirty one whose page no longer takes it is lost. -/
def loseReg (w : Warp) (l : WLine) : SM Unit := do
  modify fun s => s.updWarps (fun x => x.wid == w.wid) (fun x => { x with lines := x.lines.erase l, kennel := x.kennel.erase l })
  if l.dirty then do
    let k := w.imgKey (64 + l.idx)
    dropL1 w.core (fun x => x.key == k)
    match ← probeStore w.core k .store false with
    | .error _ => pure ()
    | .ok (m, pa, _) => poisonWrite k m.kd pa (BitVec.allOnes 128) l.data

/-- A line of a bank that cannot be corrected: a copy is dropped, a home goes to memory, poisoned when it is dirty (R98). -/
def loseBank (l : BLine) : SM Unit := do
  settle l.key
  match l.role with
  | .home => do
    updBank l.bank l.key (fun x => { x with poi := true })
    removeLine l.key false
  | _ => copyEvicted l.bank l.key

/-- The window lines that a warp holds in the arrays of its sub-core. -/
def Warp.arrayLines (w : Warp) : List WLine := w.lines ++ w.kennel

/-- A failure of a line of an array: of an L1 (0), of the register caches (1) of a core, or of a bank. -/
def arrayFault (f : Nat × Nat × Nat) : SM Unit := do
  let s ← get
  match f.1 with
  | 0 => match (s.core f.2.1).l1[f.2.2]? with
    | some l => loseL1 f.2.1 l
    | none => pure ()
  | 1 => match ((s.warps.filter (fun w => w.core == f.2.1)).flatMap (fun w => w.arrayLines.map (fun l => (w, l))))[f.2.2]? with
    | some (w, l) => loseReg w l
    | none => pure ()
  | _ => match (s.cache.lines.filter (fun l => l.bank == f.2.1))[f.2.2]? with
    | some l => loseBank l
    | none => pure ()

/-- The lines of arrays that fail in a window of time. -/
def arrayFaults : SM Unit := do
  let s ← get
  set { s with free := s.free + 1 }
  (Config.arrayFaults s.free).forM (fun f => attempt (arrayFault f))

/-- The arrays of a core that is retired: what can be corrected goes to its homes, the rest follows the same rule (R402). -/
def retireArrays (c : Nat) : SM Unit := do
  let s ← get
  set { s with free := s.free + 1 }
  (s.core c).l1.zipIdx.forM (fun (l, i) => if Config.dataLost s.free i then loseL1 c l else evictL1 c l true)
  let ls := (s.warps.filter (fun w => w.core == c && w.st != .saved)).flatMap (fun w => w.arrayLines.map (fun l => (w, l)))
  ls.zipIdx.forM (fun (e, i) => if Config.dataLost (s.free + 1) i then loseReg e.1 e.2 else pure ())
  modify fun s => { s with free := s.free + 1 }

end Sys2Proof.Machine
end

