-- ==== Sys2Proof/Machine/MapStep.lean ====
section
/-!
DEFINITION. Retirement of banks, links and cores under the resource map (R97, R104, R423) and the deadline of an acknowledgement (R405).
-/

namespace Sys2Proof.Machine

/-! ## Banks -/

/-- Adds one to the place of a bank in a table of counts. -/
def addOne (cs : List (Nat × Nat)) (b : Nat) : List (Nat × Nat) :=
  cs.map (fun e => if e.1 = b then (b, e.2 + 1) else e)

/-- The bank with the fewest buckets, ties to the lower id (R97 step 2). -/
def fewest (cs : List (Nat × Nat)) : Option Nat :=
  (cs.foldl (fun (best : Option (Nat × Nat)) e =>
    match best with
    | none => some e
    | some x => if e.2 < x.2 || (e.2 == x.2 && decide (e.1 < x.1)) then some e else some x) none).map (fun e => e.1)

/-- Moves one bucket to the bank with the fewest buckets. -/
def moveBucket (acc : List (Nat × Nat) × List (Nat × Nat)) (k : Nat) : List (Nat × Nat) × List (Nat × Nat) :=
  match fewest acc.1 with
  | some b => (addOne acc.1 b, (k, b) :: acc.2)
  | none => acc

/-- The buckets of a retired bank with the banks they move to (R97 step 2): banks of the same reticle come first. -/
def State.bucketMoves (s : State) (p b : Nat) : List (Nat × Nat) :=
  let q := s.part p
  let all := (List.range 4096).map (fun k => (k, q.bankOf k))
  let live := (List.range 3456).filter (fun x => s.mapBank p x && x != b)
  let near := live.filter (fun x => bankRet x == bankRet b)
  let cands := if near = [] then live else near
  let cnt := cands.map (fun x => (x, (all.filter (fun e => e.2 == x)).length))
  ((all.filter (fun e => e.2 == b)).foldl (fun acc e => moveBucket acc e.1) (cnt, [])).2

/-- A directory entry anchored at a retired bank moves to its new anchor, or leaves with its line when no way is free there (R97 step 3). -/
def moveEntry (k : LineKey) : SM Unit := do
  if ← dirRoom k then
    modify fun s => { s with cache := { s.cache with dir := s.cache.dir.map (fun e => if e.key == k then { e with anchor := s.anchor k } else e) } }
  else removeLine k false

/-- A home at a bank that is retired (R97 step 4, R98): dirty data that cannot be corrected is written back poisoned; a clean line is dropped.
Which homes cannot be corrected is free (log 59). -/
def retireHome (b : Nat) (l : BLine) : SM Unit := do
  let s ← get
  set { s with free := s.free + 1 }
  updBank b l.key (fun x => { x with poi := x.poi || Config.dataLost s.free l.way })
  removeLine l.key false

/-- A bank that is found defective is emptied (R97, R98): it takes no line any more, what waits at it ends, its buckets and directory entries move, its
homes are written back and its copies are dropped. -/
def emptyBank (b : Nat) : SM Unit := do
  modify fun s => { s with wafer := { s.wafer with deadBanks := b :: s.wafer.deadBanks } }
  let s ← get
  let p := s.partOfQ (retQuarter (bankRet b))
  (s.cache.dir.filter (fun e => e.st == .migrating && (e.home == b || e.vloc == b || e.anchor == b))).forM (fun e => migrationEnd e.key)
  drainInvs (fun k => s.anchor k == b || s.cache.invs.any (fun i => i.bank == b && i.key == k))
  modify fun s =>
    let ms := s.bucketMoves p b
    s.updPart p (fun q => { q with moves := ms ++ q.moves.filter (fun m => !ms.any (fun x => x.1 == m.1)) })
  let s ← get
  (s.cache.dir.filter (fun e => e.anchor == b)).forM (fun e => moveEntry e.key)
  let s ← get
  (s.cache.lines.filter (fun l => l.bank == b)).forM (fun l =>
    if l.role == .home then retireHome b l else copyEvicted b l.key)
  modify fun s => { s with cache := { s.cache with win := s.cache.win.filter (fun w => w.bank != b) } }

/-- A bank is retired (R97): it is emptied, and the map rises. -/
def retireBank (b : Nat) : SM Unit := do
  let s ← get
  emptyBank b
  riseMap (s.partOfQ (retQuarter (bankRet b))) 2 b

/-- BANK_RETIRE (R97): the device finds a live bank defective. -/
def execBankRetire (bank : Nat) (s : State) : Out :=
  let p := s.partOfQ (retQuarter (bankRet bank))
  eventIf s (s.mapBank p bank && (s.part p).formed) (retireBank bank)

/-! ## Cores -/

/-- The core leaves its sharing group with its region lost, and a join of it ends (R127). -/
def State.loseRegion (s : State) (c : Nat) : State :=
  let x := (s.core c).xch
  let s : State := match x.join with | some g => s.withdraw c g | none => s
  let s : State := match x.mem with
    | some (gid, _) =>
      let s : State := match s.group? (s.partOfCore c) gid with
        | some g => g.members.foldl (fun (s : State) m => s.updXch m.core (fun y => { y with lost := true })) s
        | none => s
      (s.startLeave c).updGroup (s.partOfCore c) gid (fun g => { g with revs := g.revs.filter (fun r => r.1 != c) })
    | none => s
  (s.updXch c (fun _ => Exch.none)).finishLeaves

/-- The leaf of a retired core counts as arrived in every tree: each of its warps is gone, and the first instance shows it (R423 step 2). -/
def Launch.loseLeaf (l : Launch) (c : Nat) : Launch :=
  let ns := ((l.wgsOn c).flatMap l.warpsOf).filter (fun n => !l.gone.contains n)
  { l with gone := ns ++ l.gone, kills := l.kills ++ ns.map (fun n => (n, true)) }

/-- A core is retired while the context of a launch on it is saved: in every open instance of a tree at quad level or above in which it holds arrivals
its warps count as arrived, which shows as XCORE (R188, R424); the warps resume on another core and take part in later instances (log 53). -/
def State.excuseSaved (s : State) (l : Launch) (c : Nat) : State :=
  let ns := ((l.wgsOn c).flatMap l.warpsOf).filter (fun n => !l.gone.contains n)
  let hit (b : Bar) : Bool := b.part == l.part && b.launch == l.uid && decide (2 ≤ b.lvl) && b.arr.any (fun n => ns.contains n)
  if s.bars.any hit then
    let s := s.updLaunch l.uid (fun x => { x with kills := x.kills ++ ns.map (fun n => (n, true)) })
    { s with bars := s.bars.map (fun b => if hit b then { b with arr := b.arr ++ ns.filter (fun n => !b.arr.contains n) } else b) }
  else s

/-- The launches that occupy a core that is retired: the core is excused (R403), and its leaf is lost. -/
def State.loseLeaves (s : State) (p c : Nat) : State :=
  (s.launches.filter (fun l => l.part == p && l.st == .running && l.place.contains c)).foldl (fun (s : State) l =>
    let s := s.updLaunch l.uid (fun x => { x with excused := c :: x.excused })
    if (s.ctx p l.ctx).saved then s.excuseSaved l c else s.updLaunch l.uid (fun x => x.loseLeaf c)) s

/-- A core that is found defective stops (R423): its warps are killed, its leaf is excused, its records move to the nearest live core (R192), and its L1
and register caches are written back by the rule of R98.  Launches that have not started are placed on the cores that live (R381); a saved context
resumes on other cores (R396). -/
def emptyCore (c : Nat) : SM Unit := do
  let s ← get
  let p := s.partOfCore c
  set (s.killAll (fun w => w.core == c && w.st != .saved) { cause := 0x13 } true true)
  retireArrays c
  modify fun s => s.loseRegion c
  modify fun s =>
    let s := s.loseLeaves p c
    let s : State := { s with wafer := { s.wafer with deadCores := c :: s.wafer.deadCores } }
    let s : State := s.updCore c (fun k => { k with icache := [], l1 := [], hints := [], ret := [], revoked := [] })
    let s : State := { s with launches := s.launches.map (fun l => if l.part == p && l.st != .running then l.replaced s else l) }
    { s with ready := s.ready.map (fun r => if r.core = c then { r with core := s.queueCore p c } else r) }

/-- A core is retired (R423): it stops, and the map rises. -/
def retireCore (c : Nat) : SM Unit := do
  let s ← get
  emptyCore c
  riseMap (s.partOfCore c) 1 c

/-- CORE_RETIRE (R423). -/
def execCoreRetire (core : Nat) (s : State) : Out :=
  let p := s.partOfCore core
  eventIf s (s.mapCore p core && (s.part p).formed) (retireCore core)

/-! ## Links (R104) -/

/-- The live links of a partition, as sets of the rows of each column: those east of the cores of a column, and those north of them. -/
structure Links where
  east  : Nat → Nat
  north : Nat → Nat

/-- A set of rows: bit `y` stands for row `y`. -/
def rowSet (f : Nat → Bool) : Nat := (List.range 36).foldl (fun a y => if f y then a + 2 ^ y else a) 0

/-- The live links of a partition between routers that forward. -/
def State.links (s : State) (p : Nat) : Links :=
  let on (c : Nat) : Bool := !s.wafer.mute.contains c
  let e := (List.range 36).map (fun x => rowSet (fun y => on (coreAt x y) && on (coreAt (x + 1) y) && s.mapLinkE p (coreAt x y)))
  let n := (List.range 36).map (fun x => rowSet (fun y => on (coreAt x y) && on (coreAt x (y + 1)) && s.mapLinkN p (coreAt x y)))
  { east := fun x => (e[x]?).getD 0, north := fun x => (n[x]?).getD 0 }

/-- The rows that a set of rows of a column reaches by links north and south. -/
def Links.along (k : Links) (x a : Nat) : Nat :=
  (List.range 36).foldl (fun a _ => a ||| ((a &&& k.north x) <<< 1) ||| ((a >>> 1) &&& k.north x)) a

/-- The cores that a core reaches under the west-first turn model (R104), by columns: it goes west first, then east, north and south. -/
def Links.reached (k : Links) (c : Nat) : List Nat :=
  let start (x : Nat) : Nat :=
    if x ≤ coreX c ∧ (List.range (coreX c - x)).all (fun i => (k.east (x + i)).testBit (coreY c)) then 2 ^ coreY c else 0
  ((List.range 36).foldl (fun (acc : List Nat) x => k.along x (start x ||| (acc.headD 0 &&& k.east (x - 1))) :: acc) []).reverse

/-- The cores that reach a core under the west-first turn model, by columns. -/
def Links.reaching (k : Links) (c : Nat) : List Nat :=
  let late := (List.range (coreX c + 1)).foldl (fun (acc : List Nat) i =>
    let x := coreX c - i
    k.along x (if i = 0 then 2 ^ coreY c else acc.headD 0 &&& k.east x) :: acc) []
  ((List.range 36).foldl (fun (acc : List Nat) x => ((late[x]?).getD 0 ||| (acc.headD 0 &&& k.east (x - 1))) :: acc) []).reverse

/-- The banks at a core's router (R66). -/
def coreBanks (c : Nat) : List Nat :=
  let l := 6 * (coreY c % 6) + coreX c % 6
  ([l, l + 36, l + 72].filter (fun i => decide (i < 96))).map (fun i => 96 * coreRet c + i)

/-- The cores of a partition that live or that have a live bank at their router. -/
def State.inUse (s : State) (p : Nat) : List Nat :=
  (List.range 1296).filter (fun c => s.partOfCore c == p && (s.coreLive c || (coreBanks c).any s.bankLive))

/-- The cores in use of a partition that a core does not both reach and is reached by. -/
def State.apart (s : State) (p : Nat) (k : Links) (c : Nat) : List Nat :=
  let to' := k.reached c
  let by' := k.reaching c
  (s.inUse p).filter (fun d => !(((to'[coreX d]?).getD 0) &&& ((by'[coreX d]?).getD 0)).testBit (coreY d))

/-- The cores in use that no live route reaches in both directions (R104): those apart from the live core from which fewest are apart, the lowest
such core (log 62). -/
def State.cutOff (s : State) (p : Nat) : List Nat :=
  let k := s.links p
  let apart := s.apart p k
  match (s.liveCores p).find? (fun c => apart c == []) with
  | some _ => []
  | none =>
    ((s.liveCores p).foldl (fun (best : Option (List Nat)) c =>
      let a := apart c
      match best with
      | some b => if a.length < b.length then some a else some b
      | none => some a) none).getD []

/-- A core that is cut off is retired with its banks, and its router forwards nothing (R104). -/
def retireCut (c : Nat) : SM Unit := do
  if (← get).coreLive c then retireCore c
  let s ← get
  ((coreBanks c).filter s.bankLive).forM retireBank
  modify fun s => { s with wafer := { s.wafer with mute := c :: s.wafer.mute } }

/-- LINK_RETIRE (R104): the link east or north of core (x, y) fails; routes follow the west-first turn model from then on. -/
def execLinkRetire (north : Bool) (x y : Nat) (s : State) : Out :=
  let c := coreAt x y
  let p := s.partOfCore c
  eventIf s (decide (x < 36 ∧ y < 36) && (s.part p).formed && (if north then s.mapLinkN p c else s.mapLinkE p c)) (do
    modify fun s => { s with wafer := if north then { s.wafer with deadLinkN := c :: s.wafer.deadLinkN }
                                      else { s.wafer with deadLinkE := c :: s.wafer.deadLinkE } }
    modify fun s => s.updPart p (fun q => { q with westFirst := true })
    riseMap p 3 c
    (← get).cutOff p |>.forM retireCut)

/-! ## Acknowledgement of the map (R405) -/

/-- A context that has not acknowledged in time is suspended, with a KIND 3 record. -/
def mapSuspend (p c : Nat) : SM Unit := do
  suspendWarps p c
  modify fun s => (s.updCtx p c (fun k => { k with mapSusp := true, owes := none })).postCtx p c 3 0x14 0 0 0

/-- 50 us after the oldest unacknowledged rise, as cc, suspended by SUSPR or not; a saved context's deadline runs from its resumption (R389). -/
def State.ackLate (s : State) (p c : Nat) : Bool :=
  let k := s.ctx p c
  k.en && !k.saved && (match k.owes with | some t => decide (s.plat.cc ≥ t + 70000) | none => false)

/-- MAP_ACK_DEADLINE (R405). -/
def execMapAckDeadline (part ctx : Nat) (s : State) : Out := eventIf s (s.ackLate part ctx) (mapSuspend part ctx)

end Sys2Proof.Machine
end

