-- ==== Sys2Proof/Machine/Memory.lean ====
section
/-!
DEFINITION. Loads, stores, tile fragments, prefetches, atomics, fences and cache maintenance: OPC 0xA0-0xAA, 0xAF-0xB1, 0xB3-0xB5 (R310-R326).
-/

namespace Sys2Proof.Machine

/-! ## Loads and stores (R317, R319) -/

/-- The accesses of the active lanes at an address (R310). -/
def Warp.accs (w : Warp) (p : Pred) (ad : Addr) (n : Nat) : List LA :=
  (lanesOf (w.active p)).map (fun l => { lane := l, va := w.laneAddr ad n l, n := n })

/-- What a load's hint and scope ask of the caches (R87, R172, R313). -/
def loadKind (h : Hint) (sc : Scope) (beyond : Bool) : LoadKind :=
  { beyond := beyond || h == .strm, pin := h == .pin, strm := h == .strm, repl := h == .repl,
    mem := h == .strm && sysScope sc }

/-- A vector load with what follows it. -/
def vecLoad (w : Warp) (p : Pred) (ty : Ty) (d : VReg) (ad : Addr) (lk : LoadKind) (after : SM Unit) : M Warp := do
  let w ← needRegs w (w.vDst ty d p :: w.adSpan ad)
  let xs := w.accs p ad ty.bytes
  let f ← loadLanes w true lk xs
  (after : SM Unit)
  pure (w.putLanes ty d (w.active p)
    (fun l => leWord (f { lane := l, va := w.laneAddr ad ty.bytes l, n := ty.bytes }))).retire

/-- A vector store with what precedes it, at the home or in the L1. -/
def vecStore (w : Warp) (p : Pred) (ty : Ty) (ad : Addr) (c : VReg) (home strm : Bool) (before : M Unit) : M (Warp × List AperPut) := do
  let w ← needRegs w (w.vSrc ty c :: w.adSpan ad)
  let xs := (w.accs p ad ty.bytes).map (fun x => (x, toBytes (w.lane ty c x.lane).toNat x.n))
  let ps ← storeLanes w true home strm before xs
  pure (w.retire, ps)

/-- LD (R317). -/
def execLd (p : Pred) (ty : Ty) (d : VReg) (addr : Addr) (hint : Hint) (scope : Scope) (s : State) : Out :=
  withWarp s fun w => runM w (vecLoad w p ty d addr (loadKind hint scope false) (pure ())) s

/-- ST (R317). -/
def execSt (p : Pred) (ty : Ty) (addr : Addr) (c : VReg) (hint : Hint) (_scope : Scope) (s : State) : Out :=
  withWarp s fun w => runPuts w (vecStore w p ty addr c (hint == .strm) (hint == .strm) (pure ())) s

/-- The one access of a scalar load or store. -/
def Warp.scalarAcc (w : Warp) (ty : Ty) (a b : SReg) (disp : BitVec 20) : LA :=
  { lane := 0, va := w.s a + w.s b + dispW disp, n := ty.bytes }

/-- LDS (R317). -/
def execLds (ty : Ty) (d a b : SReg) (disp : BitVec 20) (hint : Hint) (scope : Scope) (s : State) : Out :=
  withWarp s fun w => runM w (do
    let x := w.scalarAcc ty a b disp
    let f ← loadLanes w false (loadKind hint scope false) [x]
    let v := leWord (f x)
    pure (w.setS d (if ty == .i32 then (v.truncate 32 : Word32).signExtend 64 else v)).retire) s

/-- STS (R317). -/
def execSts (ty : Ty) (a b c : SReg) (disp : BitVec 20) (hint : Hint) (_scope : Scope) (s : State) : Out :=
  withWarp s fun w => runPuts w (do
    let x := w.scalarAcc ty a b disp
    let ps ← storeLanes w false (hint == .strm) (hint == .strm) (pure ()) [(x, toBytes (w.s c).toNat x.n)]
    pure (w.retire, ps)) s

/-- LDACQ (R319): the load, then the acquire. -/
def execLdacq (p : Pred) (ty : Ty) (d : VReg) (addr : Addr) (hint : Hint) (scope : Scope) (s : State) : Out :=
  withWarp s fun w => runM w (do
    if s.acqWaits w scope then throw (waitAt 0)
    vecLoad w p ty d addr (loadKind hint scope (wideScope scope)) (acqAt w scope)) s

/-- STREL (R319): the release, then the store. -/
def execStrel (p : Pred) (ty : Ty) (addr : Addr) (c : VReg) (hint : Hint) (scope : Scope) (s : State) : Out :=
  withWarp s fun w => runPuts w (vecStore w p ty addr c (hint == .strm || wideScope scope) (hint == .strm) (release w scope)) s

/-- The line of a prefetch is filled as a load would fill it; a lane that would fail is dropped (R318). -/
def prefetch (w : Warp) (lk : LoadKind) (x : LA) : SM Unit := do
  let s ← get
  if s.locked w.agent false (x.va.toNat / 128) false then pure ()
  else
    let _ ← loadLine w.core (w.laKey x) (BitVec.allOnes 128) .load (!w.sup) lk
    pure ()

/-- Of the accesses to each line the first: a prefetch of a line is made once. -/
def Warp.firstOnLine (w : Warp) (xs : List LA) : List LA :=
  xs.foldl (fun acc x => if acc.any (fun y => w.laKey y == w.laKey x) then acc else acc ++ [x]) []

/-- PLD (R318). -/
def execPld (p : Pred) (addr : Addr) (hint : Hint) (scope : Scope) (s : State) : Out :=
  withWarp s fun w => runM w (do
    memReady w
    let w ← needRegs w (w.adSpan addr)
    let xs := w.accs p addr 0
    failIf true xs (fun x => x.va.extractLsb' 56 8 != 0#8) 0x06 5
    let lk := loadKind hint scope false
    ((w.firstOnLine xs).forM (fun x => if lk.mem then pure () else prefetch w lk x) : SM Unit)
    pure w.retire) s

/-! ## Scratchpad (R317) -/

/-- LDPD (R317). -/
def execLdpd (p : Pred) (ty : Ty) (d : VReg) (addr : Addr) (s : State) : Out :=
  withWarp s fun w => runM w (do
    let w ← needRegs w (w.vDst ty d p :: w.adSpan addr)
    checkPad w false (w.accs p addr ty.bytes)
    let s ← get
    pure (w.putLanes ty d (w.active p)
      (fun l => leWord (s.padRead w.core (w.laneAddr addr ty.bytes l).toNat ty.bytes))).retire) s

/-- STPD (R317). -/
def execStpd (p : Pred) (ty : Ty) (addr : Addr) (c : VReg) (s : State) : Out :=
  withWarp s fun w => runM w (do
    let w ← needRegs w (w.vSrc ty c :: w.adSpan addr)
    let xs := w.accs p addr ty.bytes
    checkPad w true xs
    (xs.forM (fun x => modify fun s => s.padWrite w.core x.va.toNat (toBytes (w.lane ty c x.lane).toNat x.n)) : SM Unit)
    pure w.retire) s

/-! ## The register window (R320) -/

/-- The lines of a vector register moved to or from window bytes. -/
def winBytes (ty : Ty) : Nat := 32 * ty.bytes

/-- The span of window bytes that LDL reads or STL writes. -/
def winSpan (ty : Ty) (o : Word) (need : Bool) : Span := ⟨o.toNat / 128, (o.toNat + winBytes ty + 127) / 128 - o.toNat / 128, need⟩

/-- The checks of LDL and STL (R51, R335): the whole byte range and the register range lie in the window, whatever the mask; then the alignment
of the active lanes. -/
def winCheck (w : Warp) (p : Pred) (ty : Ty) (o : Word) (reg : Span) : M Unit := do
  let xs : List LA := (lanesOf (w.active p)).map (fun l =>
    { lane := l, va := BitVec.ofNat 64 (w.lineVa w.wbo) + o + BitVec.ofNat 64 (ty.bytes * l), n := ty.bytes })
  if !w.spansOK [winSpan ty o true, reg] then throw (trapOf 0x0E)
  failIf true xs (fun _ => o.toNat % ty.bytes != 0) 0x05 0

/-- LDL (R320). -/
def execLdl (p : Pred) (ty : Ty) (d : VReg) (a : SReg) (disp : BitVec 20) (s : State) : Out :=
  withWarp s fun w => runM w (do
    let o := w.s a + dispW disp
    winCheck w p ty o (w.vDst ty d p)
    if w.active p = 0#32 then do
      let w ← needRegs w [w.vDst ty d p]
      pure w.retire
    else do
      let w ← needRegs w [winSpan ty o true, w.vDst ty d p]
      pure (w.putLanes ty d (w.active p) (fun l => leWord (w.bytes w.wbo (o.toNat + ty.bytes * l) ty.bytes))).retire) s

/-- STL (R320). -/
def execStl (p : Pred) (ty : Ty) (a : SReg) (disp : BitVec 20) (c : VReg) (s : State) : Out :=
  withWarp s fun w => runM w (do
    let o := w.s a + dispW disp
    winCheck w p ty o (w.vSrc ty c)
    if w.active p = 0#32 then do
      let w ← needRegs w [w.vSrc ty c]
      pure w.retire
    else do
      let w ← needRegs w [winSpan ty o true, w.vSrc ty c]
      let bs := (lanesOf (w.active p)).flatMap (fun l =>
        (toBytes (w.lane ty c l).toNat ty.bytes).zipIdx.map (fun (e : Byte × Nat) => (o.toNat + ty.bytes * l + e.2, e.1)))
      pure (w.putBytes w.wbo bs).retire) s

/-! ## Tile fragments (R321) -/

/-- Bytes of a lane's share of a row: half the row size. -/
def shareOf (d : TAReg) (ty : Ty) : Nat :=
  match d with
  | .a _ => 32
  | .t _ => if ty == .e4m3 || ty == .e5m2 then 8 else 16

/-- First line of a tile or accumulator register from WB. -/
def Warp.taOff (w : Warp) (d : TAReg) : Nat :=
  match d with
  | .a r => w.aOff r
  | .t r => w.tOff r

/-- The accesses of the active lanes of MLD and MST: lane L moves half of row L div 2. -/
def Warp.rowAccs (w : Warp) (p : Pred) (h : Nat) (a b : SReg) (disp : BitVec 20) : List LA :=
  (lanesOf (w.active p)).map (fun l =>
    { lane := l, va := w.s a + dispW disp + BitVec.ofNat 64 (l / 2) * w.s b + BitVec.ofNat 64 (h * (l % 2)), n := h })

/-- MLD (R321). -/
def execMld (p : Pred) (ty : Ty) (d : TAReg) (a b : SReg) (disp : BitVec 20) (hint : Hint) (scope : Scope) (s : State) : Out :=
  withWarp s fun w => runM w (do
    let h := shareOf d ty
    let w ← needRegs w [⟨w.taOff d, h / 4, !(predFull p && decide (16 ≤ h))⟩]
    let xs := w.rowAccs p h a b disp
    let f ← loadLanes w true (loadKind hint scope false) xs
    let bs := xs.flatMap (fun x => (f x).zipIdx.map (fun (e : Byte × Nat) => (h * x.lane + e.2, e.1)))
    pure (w.putBytes (w.wbo + w.taOff d) bs).retire) s

/-- MST (R321). -/
def execMst (p : Pred) (ty : Ty) (a b : SReg) (disp : BitVec 20) (c : TAReg) (hint : Hint) (_scope : Scope) (s : State) : Out :=
  withWarp s fun w => runPuts w (do
    let h := shareOf c ty
    let w ← needRegs w [⟨w.taOff c, h / 4, true⟩]
    let xs := (w.rowAccs p h a b disp).map (fun x => (x, w.bytes (w.wbo + w.taOff c) (h * x.lane) h))
    let ps ← storeLanes w true (hint == .strm) (hint == .strm) (pure ()) xs
    pure (w.retire, ps)) s

/-! ## Atomics (R322-R324) -/

/-- The new value of an atomic, or none when nothing is written (R322). -/
def atomNew (op : AtomOp) (ty : Ty) (old c n : Word) : Option Word :=
  let fm := if ty.wide then fmt64 else fmt32
  match op with
  | .add => some (old + c)
  | .min => some (if ty.wide then minV ty.signed old c else (minV (n := 32) ty.signed (old.truncate 32) (c.truncate 32)).zeroExtend 64)
  | .max => some (if ty.wide then maxV ty.signed old c else (maxV (n := 32) ty.signed (old.truncate 32) (c.truncate 32)).zeroExtend 64)
  | .and => some (old &&& c)
  | .or => some (old ||| c)
  | .xor => some (old ^^^ c)
  | .xch => some c
  | .cas => if old = c then some n else none
  | .incw => some (if old.toNat ≥ c.toNat then 0 else old + 1)
  | .fadd => some (BitVec.ofNat 64 (fm.round .rne false (FVal.add .rne (fm.decode old.toNat) (fm.decode c.toNat))).bits)

/-- The register that holds the new value of a compare-and-swap (R322). -/
def casReg (ty : Ty) (c : VReg) : VReg := c + (if ty.wide then 2 else 1)

/-- The spans an atomic reads. -/
def Warp.atomSpans (w : Warp) (op : AtomOp) (ty : Ty) (ad : Addr) (c : VReg) : List Span :=
  w.vSrc ty c :: (if op == .cas then [w.vSrc ty (casReg ty c)] else []) ++ w.adSpan ad

/-- An atomic's lanes: its old values, after its release (R323, R324). -/
def atomGo (w : Warp) (p : Pred) (op : AtomOp) (ty : Ty) (pad : Bool) (ad : Addr) (c : VReg) (ord : Ord) (sc : Scope) :
    M (List (Nat × Word)) :=
  let f : AtomStep := fun x old => atomNew op ty old (w.lane ty c x.lane) (w.lane ty (casReg ty c) x.lane)
  let before : M Unit := if ord == .rel || ord == .ar then release w sc else pure ()
  let xs := w.accs p ad ty.bytes
  if pad then atomPad w before f xs else atomLanes w (wideScope sc) before f xs

/-- ATOM (R322-R324). -/
def execAtom (p : Pred) (op : AtomOp) (ty : Ty) (pad : Bool) (d : VReg) (addr : Addr) (c : VReg) (ord : Ord) (scope : Scope)
    (s : State) : Out :=
  withWarp s fun w => runM w (do
    let acq := ord == .acq || ord == .ar
    if acq && s.acqWaits w scope then throw (waitAt 0)
    let w ← needRegs w (w.vDst ty d p :: w.atomSpans op ty addr c)
    let vs ← atomGo w p op ty pad addr c ord scope
    if acq then (acqAt w scope : SM Unit)
    pure ((w.putLanes ty d (w.active p) (laneOld vs)).retireRegion (nextSlot w.pc))) s

/-- RED (R322-R324). -/
def execRed (p : Pred) (op : AtomOp) (ty : Ty) (pad : Bool) (addr : Addr) (c : VReg) (ord : Ord) (scope : Scope) (s : State) : Out :=
  withWarp s fun w => runM w (do
    let w ← needRegs w (w.atomSpans op ty addr c)
    let _ ← atomGo w p op ty pad addr c ord scope
    pure (w.retireRegion (nextSlot w.pc))) s

/-! ## Fences and cache maintenance (R325, R326) -/

/-- FENCE (R325). -/
def execFence (ord : Ord) (scope : Scope) (s : State) : Out :=
  withWarp s fun w => runM w (do
    let acq := ord == .acq || ord == .ar
    if acq && s.acqWaits w scope then throw (waitAt 0)
    if ord == .rel || ord == .ar then release w scope
    if acq then (acqAt w scope : SM Unit)
    pure w.retire) s

/-- The lines of the range of CLEAN, INVAL and FLUSH. -/
def inRange (a b : Word) (ln : Nat) : Bool :=
  decide (a.toNat / 128 ≤ ln) && decide (ln < (min (a.toNat + b.toNat) (2 ^ 56) + 127) / 128)

/-- A core drops the lines of its instruction cache that a range of an ASID covers (R231). -/
def dropOwnCode (w : Warp) (cond : Nat → Bool) : SM Unit :=
  modify fun s => s.updCore w.core (fun c =>
    { c with icache := c.icache.filter (fun l => !(l.part == w.part && l.asid == w.asid && cond (l.ln / 2))) })

/-- Cache maintenance on a range (R326); at `.sys` it is complete when the stacks have taken what it writes to memory (R94). -/
def maintain (a b : SReg) (sys : Bool) (act : Warp → (Nat → Bool) → SM Unit) (s : State) : Out :=
  withWarp s fun w => runM w (do
    let x := w.s a
    let n := w.s b
    if n = 0 then pure w.retire
    else if x.extractLsb' 56 8 ≠ 0#8 then throw { cause := 0x06, wst := 5, va := x }
    else do
      memReady w
      (act w (inRange x n) : SM Unit)
      if sys then
        if !(← (mcFlush w.part w.asid : SM Bool)) then throw (waitAt w.mid)
      pure w.retire) s

/-- The lines of a range leave the issuing core's L1, and at `.sys` the wafer-wide cache: an acquire limited to the range. -/
def invalRange (w : Warp) (sc : Scope) (cond : Nat → Bool) : SM Unit := do
  acquireL1 w.core w.part w.asid true cond
  if sysScope sc then removeLines w.part (fun k => k.asid == w.asid && cond k.ln) true
  dropOwnCode w cond

/-- CLEAN (R326). -/
def execClean (a b : SReg) (scope : Scope) (s : State) : Out :=
  maintain a b (sysScope scope) (fun w cond => releaseAct w.core w.part w.asid (sysScope scope) cond) s

/-- INVAL (R326). -/
def execInval (a b : SReg) (scope : Scope) (s : State) : Out := maintain a b (sysScope scope) (fun w cond => invalRange w scope cond) s

/-- FLUSH (R326). -/
def execFlush (a b : SReg) (scope : Scope) (s : State) : Out :=
  maintain a b (sysScope scope) (fun w cond => do
    releaseAct w.core w.part w.asid (sysScope scope) cond
    invalRange w scope cond) s

end Sys2Proof.Machine
end

