-- ==== Sys2Proof/Machine/Scalar.lean ====
section
/-!
DEFINITION. The scalar group, OPC 0x01-0x11 (R250-R255).
-/

namespace Sys2Proof.Machine

/-- NOP (R252). -/
def execNop (s : State) : Out := warpOp id s
/-- SADD (R252). -/
def execSadd (ty : Ty) (d a : SReg) (b : SSrc) (s : State) : Out := scalar3 ty d a b (fun _ x y => saluAdd x y) s
/-- SSUB (R252). -/
def execSsub (ty : Ty) (d a : SReg) (b : SSrc) (s : State) : Out := scalar3 ty d a b (fun _ x y => saluSub x y) s
/-- SMUL (R252). -/
def execSmul (ty : Ty) (d a : SReg) (b : SSrc) (s : State) : Out := scalar3 ty d a b (fun _ x y => saluMul ty.signed x y) s
/-- SMULH (R252). -/
def execSmulh (ty : Ty) (d a : SReg) (b : SSrc) (s : State) : Out := scalar3 ty d a b (fun _ x y => saluMulh ty.signed x y) s
/-- SDIV (R252). -/
def execSdiv (ty : Ty) (d a : SReg) (b : SSrc) (s : State) : Out := scalar3 ty d a b (fun _ x y => saluDiv ty.signed x y) s
/-- SREM (R252). -/
def execSrem (ty : Ty) (d a : SReg) (b : SSrc) (s : State) : Out := scalar3 ty d a b (fun _ x y => saluRem ty.signed x y) s
/-- SAND (R252). -/
def execSand (ty : Ty) (d a : SReg) (b : SSrc) (s : State) : Out := scalar3 ty d a b (fun _ x y => ⟨x &&& y, false, false⟩) s
/-- SOR (R252). -/
def execSor (ty : Ty) (d a : SReg) (b : SSrc) (s : State) : Out := scalar3 ty d a b (fun _ x y => ⟨x ||| y, false, false⟩) s
/-- SXOR (R252). -/
def execSxor (ty : Ty) (d a : SReg) (b : SSrc) (s : State) : Out := scalar3 ty d a b (fun _ x y => ⟨x ^^^ y, false, false⟩) s
/-- SANDN (R252). -/
def execSandn (ty : Ty) (d a : SReg) (b : SSrc) (s : State) : Out := scalar3 ty d a b (fun _ x y => ⟨x &&& ~~~y, false, false⟩) s
/-- SSHL (R252). -/
def execSshl (ty : Ty) (d a : SReg) (b : SSrc) (s : State) : Out := scalar3 ty d a b (fun _ x y => saluShl x y) s
/-- SSHR (R252). -/
def execSshr (ty : Ty) (d a : SReg) (b : SSrc) (s : State) : Out := scalar3 ty d a b (fun _ x y => saluShr x y) s
/-- SSRA (R252). -/
def execSsra (ty : Ty) (d a : SReg) (b : SSrc) (s : State) : Out := scalar3 ty d a b (fun _ x y => saluSra x y) s
/-- SROT (R252). -/
def execSrot (ty : Ty) (d a : SReg) (b : SSrc) (s : State) : Out :=
  scalar3 ty d a b (fun n x y => ⟨x.rotateLeft (y.toNat % n), false, false⟩) s
/-- SMIN (R252). -/
def execSmin (ty : Ty) (d a : SReg) (b : SSrc) (s : State) : Out := scalar3 ty d a b (fun _ x y => ⟨minV ty.signed x y, false, false⟩) s
/-- SMAX (R252). -/
def execSmax (ty : Ty) (d a : SReg) (b : SSrc) (s : State) : Out := scalar3 ty d a b (fun _ x y => ⟨maxV ty.signed x y, false, false⟩) s
/-- SCLZ (R252). -/
def execSclz (ty : Ty) (d a : SReg) (s : State) : Out := scalar2 ty d a (fun _ x => clzV x) s
/-- SPOP (R252). -/
def execSpop (ty : Ty) (d a : SReg) (s : State) : Out := scalar2 ty d a (fun _ x => popV x) s
/-- SCTZ (R252). -/
def execSctz (ty : Ty) (d a : SReg) (s : State) : Out := scalar2 ty d a (fun _ x => ctzV x) s
/-- SBREV (R252). -/
def execSbrev (ty : Ty) (d a : SReg) (s : State) : Out := scalar2 ty d a (fun _ x => x.reverse) s
/-- SMOV (R252): the register, or the immediate zero-extended; flags are kept. -/
def execSmov (d : SReg) (b : SSrc) (s : State) : Out := warpOp (fun w => w.setS d (w.ssrc b false)) s
/-- SMOVH (R252). -/
def execSmovh (d : SReg) (v : Word32) (s : State) : Out := warpOp (fun w => w.setS d (v ++ (w.s d).truncate 32)) s
/-- A result at 64 bits with its flags, C and V 0. -/
def Warp.set64 (w : Warp) (d : SReg) (v : Word) : Warp := (w.flagsOf (⟨v, false, false⟩ : SRes 64)).setS d v
/-- SEXT (R252): flags at 64 bits. -/
def execSext (ty : Ty) (d a : SReg) (s : State) : Out :=
  warpOp (fun w =>
    let v := (w.s a).truncate ty.bits
    w.set64 d (if ty.signed then v.signExtend 64 else v.zeroExtend 64)) s
/-- SBFX (R253). -/
def execSbfx (ty : Ty) (d a : SReg) (pos lenm1 : BitVec 6) (s : State) : Out :=
  warpOp (fun w =>
    let v := (w.s a).extractLsb' pos.toNat (lenm1.toNat + 1)
    w.set64 d (if ty.signed then v.signExtend 64 else v.zeroExtend 64)) s
/-- SBFI (R253). -/
def execSbfi (d a : SReg) (pos lenm1 : BitVec 6) (s : State) : Out :=
  warpOp (fun w =>
    let m : Word := BitVec.ofNat 64 (2 ^ (lenm1.toNat + 1) - 1) <<< pos.toNat
    w.set64 d (((w.s a <<< pos.toNat) &&& m) ||| (w.s d &&& ~~~m))) s
/-- SLEA (R252). -/
def execSlea (d a b : SReg) (sh : BitVec 3) (s : State) : Out := warpOp (fun w => w.setS d (w.s a + (w.s b <<< sh.toNat))) s
/-- SCMP (R252): SSUB without a result. -/
def execScmp (ty : Ty) (a : SReg) (b : SSrc) (s : State) : Out := scalar3 ty 0 a b (fun _ x y => saluSub x y) s
/-- SSEL (R252). -/
def execSsel (d a b : SReg) (k : BitVec 4) (s : State) : Out :=
  warpOp (fun w => w.setS d (if w.cond k then w.s a else w.s b)) s
/-- SRD (R255): every older REDS has completed, since the warp executes in program order (R162). -/
def execSrd (d : SReg) (q : QReg) (b : SReg) (s : State) : Out :=
  warpOp (fun w =>
    let (v, sq) := w.qr[q.toNat]'q.isLt
    { (w.setS d v) with z := v == 0#64, n := v.msb, c := false, v := sq != (w.s b).truncate 16 }) s
/-- SFLG.get (R254). -/
def execSflgGet (d : SReg) (s : State) : Out := warpOp (fun w => w.setS d (w.flags.zeroExtend 64)) s
/-- SFLG.set (R254). -/
def execSflgSet (a : SReg) (s : State) : Out := warpOp (fun w => w.setFlags ((w.s a).truncate 4)) s

end Sys2Proof.Machine
end

