-- ==== Sys2Proof/Machine/Sync.lean ====
section
/-!
DEFINITION. Exchange and multicast stores, sharing groups and barriers: OPC 0xAB-0xAE, 0xB2 (R327-R334).
-/

namespace Sys2Proof.Machine

/-! ## Exchange stores (R327, R328) -/

/-- A group-window offset lies outside a slot's course (R122). -/
def Exch.outside (x : Exch) (g n : Nat) : Bool := decide (g / x.e ≥ 64) || decide (g % x.e + n > x.e / 2)

/-- Packets of an instruction: one for each destination, the lanes in ascending order. -/
def packets (src : Nat) (ph : Bool) (ds : List (Nat × List (Nat × Byte))) : List XPkt :=
  ((ds.map (fun d => d.1)).eraseDups).map (fun c =>
    { src := src, dst := c, ph := ph, bytes := (ds.filter (fun d => d.1 == c)).flatMap (fun d => d.2) })

/-- Bytes at rising offsets. -/
def placed (o : Nat) (bs : List Byte) : List (Nat × Byte) := bs.zipIdx.map (fun (e : Byte × Nat) => (o + e.2, e.1))

/-- XST (R327). -/
def execXst (p : Pred) (ty : Ty) (addr : Addr) (c : VReg) (s : State) : Out :=
  withWarp s fun w => runM w (do
    let w ← needRegs w (w.vSrc ty c :: w.adSpan addr)
    let xs : List LA := (lanesOf (w.active p)).map (fun l => { lane := l, va := w.laneAddr addr ty.bytes l, n := ty.bytes })
    let x := (s.core w.core).xch
    failIf true xs (fun a => a.va.toNat % a.n != 0) 0x05 0
    failIf true xs (fun a => x.outside a.va.toNat a.n) 0x0D 0
    failIf true xs (fun a => x.mem.isNone || (x.slotCore (a.va.toNat / x.e)).isNone) 0x0C 0
    let ds := xs.map (fun a =>
      ((x.slotCore (a.va.toNat / x.e)).getD 0, placed (a.va.toNat % x.e) (toBytes (w.lane ty c a.lane).toNat a.n)))
    modify fun s => { s with pkts := s.pkts ++ packets w.core x.ph ds }
    pure (w.retireRegion (nextSlot w.pc))) s

/-- The coordinates that a target mask names from an origin (R128). -/
def maskTargets (x0 y0 : Nat) (m : Word) : List (Nat × Nat) :=
  ((List.range 64).filter (fun i => m.getLsbD i)).map (fun i => (x0 + i % 8, y0 + i / 8))

/-- A named core lies outside a partition (R128). -/
def State.outsidePart (s : State) (p : Nat) (t : Nat × Nat) : Bool :=
  decide (t.1 > 35) || decide (t.2 > 35) || !s.inPart p (coreAt t.1 t.2)

/-- MCST (R328): D receives OK (1) or EMPTY (3). -/
def execMcst (p : Pred) (ty : Ty) (d a b : SReg) (c : VReg) (s : State) : Out :=
  withWarp s fun w => runM w (do
    let w ← needRegs w [w.vSrc ty c]
    let ls := lanesOf (w.active p)
    let o := ((w.s a).extractLsb' 0 20).toNat
    let n := ty.bytes
    let x := (s.core w.core).xch
    let ts := maskTargets ((w.s a).extractLsb' 32 6).toNat ((w.s a).extractLsb' 40 6).toNat (w.s b)
    let size := n * (ls.foldl max 0 + 1)
    let done (v : Word) : Warp := (w.setS d v).retireRegion (nextSlot w.pc)
    failIf true (ls.map (fun l => { lane := l, va := w.s a, n := n })) (fun _ => o % n != 0) 0x05 0
    if ls = [] ∨ w.s b = 0 then pure (done 3)
    else if ts.any (s.outsidePart w.part) then throw (trapOf 0x0A)
    else if x.mem.isNone || ts.any (fun t => !x.copy.any (fun m => m.2 == coreAt t.1 t.2)) then throw (trapOf 0x0C)
    else if o + size > x.e / 2 then throw (trapOf 0x0D)
    else do
      let bs := ls.flatMap (fun l => placed (o + n * l) (toBytes (w.lane ty c l).toNat n))
      modify fun s => { s with pkts := s.pkts ++ packets w.core x.ph (ts.map (fun t => (coreAt t.1 t.2, bs))) }
      pure (done 1)) s

/-! ## Sharing groups (R329, R330) -/

/-- GJOIN (R329, R121). -/
def execGjoin (d a : SReg) (s : State) : Out :=
  withWarp s fun w =>
    let gid := ((w.s a).extractLsb' 0 10).toNat
    let x := (s.core w.core).xch
    let done (s : State) (r : Int) : Out := .next (s.setWarp ((w.setS d (BitVec.ofInt 64 r)).retireRegion (nextSlot w.pc)))
    if w.mid = joinWait then .next (s.setWarp (w.waiting joinWait))
    else if w.mid = joinGone then done s (-3)
    else if joinWait < w.mid ∧ w.mid < joinGone then done s (w.mid - joinedAt 0 : Nat)
    else
      match s.joinNow w.part w.asid w.core gid with
      | some r => done s r
      | none =>
        if x.join = some gid then .next (s.setWarp (w.waiting joinWait))
        else
          match s.join w.part w.asid w.core (if w.posted then x.wgid else w.wgid) gid with
          | (s, some k) => done s k
          | (s, none) => .next ((s.checkGroup w.part gid).setWarp (w.waiting joinWait))

/-- GLEAVE (R329, R126). -/
def execGleave (s : State) : Out :=
  withWarp s fun w =>
    let x := (s.core w.core).xch
    let done (s : State) : Out := .next (s.setWarp (w.retireRegion (nextSlot w.pc)))
    if w.mid = leaveWait then .next (s.setWarp (w.waiting leaveWait))
    else if w.mid = leaveDone then done s
    else
      match x.mem, x.join with
      | none, some gid => done (s.withdraw w.core gid)
      | none, none => done s
      | some _, _ =>
        let s := (s.startLeave w.core).finishLeaves
        if (s.core w.core).xch.mem.isNone then done s else .next (s.setWarp (w.waiting leaveWait))

/-- GBAR retires with its flags (R330). -/
def Warp.gbarFlags (w : Warp) (ph abn member : Bool) : Warp :=
  { w with z := member && !abn, n := !member, c := ph, v := abn }.retireRegion (nextSlot w.pc)

/-- GBAR (R330). -/
def execGbar (s : State) : Out :=
  withWarp s fun w =>
    let x := (s.core w.core).xch
    if w.mid = gbarWait then .next (s.setWarp (w.waiting gbarWait))
    else if gbarWait < w.mid then
      let r := w.mid - gbarDone false false
      .next (s.setWarp (w.gbarFlags (r % 2 == 1) (decide (2 ≤ r)) true))
    else
      match x.mem, x.join with
      | none, none => .next (s.setWarp (w.gbarFlags x.ph x.lost false))
      | none, some _ => .next (s.setWarp (w.waiting 0))
      | some _, _ => .next (s.setWarp (w.waiting gbarWait))

/-! ## Barriers (R331-R333) -/

/-- BAR.sync (R332). -/
def execBarSync (d : SReg) (scope : Scope) (id : BitVec 6) (s : State) : Out :=
  withWarp s fun w => runM w (barForm w scope id.toNat d true true) s
/-- BAR.arrive (R332). -/
def execBarArrive (d : SReg) (scope : Scope) (id : BitVec 6) (s : State) : Out :=
  withWarp s fun w => runM w (barForm w scope id.toNat d true false) s
/-- BAR.wait (R332). -/
def execBarWait (d : SReg) (scope : Scope) (id : BitVec 6) (s : State) : Out :=
  withWarp s fun w => runM w (barForm w scope id.toNat d false true) s
/-- BAR.excuse (R332): the warp counts as arrived at this and every later instance. -/
def execBarExcuse (d : SReg) (scope : Scope) (id : BitVec 6) (s : State) : Out :=
  withWarp s fun w => runM w (do
    if !w.barLegal scope then throw (trapOf 0x01)
    if w.barAlone (lvlKey scope) id.toNat then barLone w scope d true false
    else do
      release w scope
      let (w, ph) ← (barSend w (lvlKey scope) id.toNat true : SM (Warp × Nat))
      pure (w.barStatus d (barWord scope ph false true false false false))) s

end Sys2Proof.Machine
end

