-- ==== Sys2Proof/Machine/System.lean ====
section
/-!
DEFINITION. System registers and shoot-down: OPC 0x32, 0x33, 0x35 (R273-R277, R279, R280, R35).
-/

namespace Sys2Proof.Machine

/-- SYSRD (R273). -/
def execSysrd (d a : SReg) (num : BitVec 16) (s : State) : Out :=
  withWarp s fun w =>
    let i := (w.s a).toNat
    match readCheck s w num.toNat i with
    | .error c => trapOut w (trapOf c) s
    | .ok _ => .next (s.setWarp (w.setS d (s.regValue (some w) w.part num.toNat i)).retire)

/-- SYSWR (R273, R277): the write takes effect when the warp has retired, so that it sees its own effect on the warp. -/
def execSyswr (a b : SReg) (num : BitVec 16) (s : State) : Out :=
  withWarp s fun w =>
    let i := (w.s b).toNat
    match writeCheck s w num.toNat i with
    | .error c => trapOut w (trapOf c) s
    | .ok _ => .next (s.finish w ((regPut (some w.wid) w.part num.toNat i (w.s a)).run (s.setWarp w.retire)).2)

/-! ## Shoot-down (R35, R279) -/

/-- First byte of the range of a shoot-down. -/
def purgeLo (b : Word) : Nat := b.toNat / 65536 * 65536
/-- End of the range of a shoot-down. -/
def purgeHi (b c : Word) : Nat := (min (b.toNat + c.toNat) (2 ^ 56) + 65535) / 65536 * 65536

/-- Pages of a size from a number on overlap a range. -/
def pageMeets (vpn shift lo hi : Nat) : Bool := decide (vpn * 2 ^ shift < hi) && decide (lo < (vpn + 1) * 2 ^ shift)

/-- Step 1: translation and walk cache entries that overlap the range go. -/
def purgeGates (p : Nat) (asid : BitVec 12) (lo hi : Nat) : SM Unit :=
  modify fun s => { s with gates := { s.gates with
    gtc := s.gates.gtc.filter (fun e => !(e.part == p && e.asid == asid && pageMeets e.vpn (lvlShift e.lvl) lo hi)),
    wc := s.gates.wc.filter (fun e => !(e.part == p && e.asid == asid && pageMeets e.pfx (lvlShift e.lvl) lo hi)) } }

/-- An operation that holds a lock on the range: it runs, or its record is still to be posted. -/
def EngOp.inPurge (o : EngOp) (p : Nat) (asid : BitVec 12) (lo hi : Nat) : Bool :=
  o.part == p && o.asid == asid && !o.posted &&
    o.locks.any (fun l => !l.pad && decide (l.lo < hi / 128) && decide (lo / 128 ≤ l.hi))

/-- Step 3: every line of the range leaves the L1s, the wafer-wide cache and the instruction caches, with unchecked write-backs
(R35, R231), and the home hints that the range covers go (R74). -/
def purgeLines (p : Nat) (asid : BitVec 12) (lo hi : Nat) : SM Unit := do
  let c (k : LineKey) : Bool := k.asid == asid && decide (lo / 128 ≤ k.ln) && decide (k.ln < hi / 128)
  flushL1s p c
  removeLines p c false
  dropHints (fun k => k.part == p && c k)
  dropCode (fun l => l.part == p && l.asid == asid && decide (lo / 64 ≤ l.ln) && decide (l.ln < hi / 64))

/-- PGPURGE (R279): it waits until every operation that it stops has posted its record. -/
def execPgpurge (a b c : SReg) (s : State) : Out :=
  withWarp s fun w => runM w (do
    let asid := (w.s a).extractLsb' 0 12
    let lo := purgeLo (w.s b)
    let hi := purgeHi (w.s b) (w.s c)
    if !w.sup then throw (trapOf 0x10)
    else if w.s c = 0 then pure w.retire
    else if (w.s b).extractLsb' 56 8 ≠ 0#8 then throw { cause := 0x06, wst := 5, va := w.s b }
    else do
      if w.mid = 0 then do
        (purgeGates w.part asid lo hi : SM Unit)
        modify fun s => { s with ops := s.ops.map (fun o => if o.inPurge w.part asid lo hi then { o with stop := true } else o) }
      let s ← get
      if s.ops.any (fun o => o.inPurge w.part asid lo hi && o.stop) then throw (waitAt purgeWait)
      (purgeLines w.part asid lo hi : SM Unit)
      if !(← (mcFlush w.part asid : SM Bool)) then throw (waitAt purgeWait)
      pure w.retire) s

end Sys2Proof.Machine
end

