-- ==== Sys2Proof/Machine/Retire.lean ====
section
/-!
DEFINITION. The meaning of an encoded instruction by its constructor, and the steps that retire one: INSTRUCTION_RETIRE with checked
execution (R201, R397, R398) and BRANCH_MISPREDICT (R201).
-/

namespace Sys2Proof.Machine

/-- What the warp that executes does with an instruction; a step of another agent is no instruction of a warp. -/
def execWarp (i : Instr) (s : State) : Out :=
  match i with
  | .nop => execNop s
  | .sadd ty d a b => execSadd ty d a b s
  | .ssub ty d a b => execSsub ty d a b s
  | .smul ty d a b => execSmul ty d a b s
  | .smulh ty d a b => execSmulh ty d a b s
  | .sdiv ty d a b => execSdiv ty d a b s
  | .srem ty d a b => execSrem ty d a b s
  | .sand ty d a b => execSand ty d a b s
  | .sor ty d a b => execSor ty d a b s
  | .sxor ty d a b => execSxor ty d a b s
  | .sandn ty d a b => execSandn ty d a b s
  | .sshl ty d a b => execSshl ty d a b s
  | .sshr ty d a b => execSshr ty d a b s
  | .ssra ty d a b => execSsra ty d a b s
  | .srot ty d a b => execSrot ty d a b s
  | .smin ty d a b => execSmin ty d a b s
  | .smax ty d a b => execSmax ty d a b s
  | .sclz ty d a => execSclz ty d a s
  | .spop ty d a => execSpop ty d a s
  | .sctz ty d a => execSctz ty d a s
  | .sbrev ty d a => execSbrev ty d a s
  | .smov d b => execSmov d b s
  | .smovh d imm => execSmovh d imm s
  | .sext ty d a => execSext ty d a s
  | .sbfx ty d a pos lenm1 => execSbfx ty d a pos lenm1 s
  | .sbfi d a pos lenm1 => execSbfi d a pos lenm1 s
  | .slea d a b sh => execSlea d a b sh s
  | .scmp ty a b => execScmp ty a b s
  | .ssel d a b cond => execSsel d a b cond s
  | .srd d q b => execSrd d q b s
  | .sflgGet d => execSflgGet d s
  | .sflgSet a => execSflgSet a s
  | .br disp => execBr disp s
  | .bcc cond disp => execBcc cond disp s
  | .bmz m disp => execBmz m disp s
  | .bmnz m disp => execBmnz m disp s
  | .call slide disp => execCall slide disp s
  | .calli a slide => execCalli a slide s
  | .ret => execRet s
  | .exit => execExit s
  | .post a => execPost a s
  | .join d a => execJoin d a s
  | .yield => execYield s
  | .region => execRegion s
  | .quota a b => execQuota a b s
  | .trap code => execTrap code s
  | .rte => execRte s
  | .sysrd d a num => execSysrd d a num s
  | .syswr a b num => execSyswr a b num s
  | .rmack a => execRmack a s
  | .pgpurge a b c => execPgpurge a b c s
  | .pause n => execPause n s
  | .park => execPark s
  | .vadd p ty d a b => execVadd p ty d a b s
  | .vsub p ty d a b => execVsub p ty d a b s
  | .vmul p ty d a b => execVmul p ty d a b s
  | .vmulh p ty d a b => execVmulh p ty d a b s
  | .vmad p ty d a b c => execVmad p ty d a b c s
  | .vand p ty d a b => execVand p ty d a b s
  | .vor p ty d a b => execVor p ty d a b s
  | .vxor p ty d a b => execVxor p ty d a b s
  | .vandn p ty d a b => execVandn p ty d a b s
  | .vshl p ty d a b => execVshl p ty d a b s
  | .vshr p ty d a b => execVshr p ty d a b s
  | .vsra p ty d a b => execVsra p ty d a b s
  | .vrot p ty d a b => execVrot p ty d a b s
  | .vmin p ty d a b => execVmin p ty d a b s
  | .vmax p ty d a b => execVmax p ty d a b s
  | .vabs p ty d a => execVabs p ty d a s
  | .vneg p ty d a => execVneg p ty d a s
  | .vclz p ty d a => execVclz p ty d a s
  | .vpop p ty d a => execVpop p ty d a s
  | .vsel p ty d a b c => execVsel p ty d a b c s
  | .vcmp p rel ty d a b => execVcmp p rel ty d a b s
  | .vmov p ty d a => execVmov p ty d a s
  | .vbcast p ty d a => execVbcast p ty d a s
  | .vmovi p ty d imm => execVmovi p ty d imm s
  | .vlane p d => execVlane p d s
  | .vadds p ty d a b => execVadds p ty d a b s
  | .vsubs p ty d a b => execVsubs p ty d a b s
  | .fadd p ty d a b => execFadd p ty d a b s
  | .fsub p ty d a b => execFsub p ty d a b s
  | .fmul p ty d a b => execFmul p ty d a b s
  | .fma p ty d a b c => execFma p ty d a b c s
  | .fms p ty d a b c => execFms p ty d a b c s
  | .fnma p ty d a b c => execFnma p ty d a b c s
  | .fnms p ty d a b c => execFnms p ty d a b c s
  | .fmin p ty d a b => execFmin p ty d a b s
  | .fmax p ty d a b => execFmax p ty d a b s
  | .fminnum p ty d a b => execFminnum p ty d a b s
  | .fmaxnum p ty d a b => execFmaxnum p ty d a b s
  | .fabs p ty d a => execFabs p ty d a s
  | .fneg p ty d a => execFneg p ty d a s
  | .fcopysign p ty d a b => execFcopysign p ty d a b s
  | .fcmp p rel ty d a b => execFcmp p rel ty d a b s
  | .fclass p ty d a => execFclass p ty d a s
  | .frnd p ty d a mode => execFrnd p ty d a mode s
  | .frcp p ty d a => execFrcp p ty d a s
  | .frsq p ty d a => execFrsq p ty d a s
  | .fsqrt p ty d a => execFsqrt p ty d a s
  | .fexp2 p ty d a => execFexp2 p ty d a s
  | .flog2 p ty d a => execFlog2 p ty d a s
  | .fsin p ty d a => execFsin p ty d a s
  | .fcos p ty d a => execFcos p ty d a s
  | .ftanh p ty d a => execFtanh p ty d a s
  | .fdiv p ty d a b => execFdiv p ty d a b s
  | .fscale p ty d a b => execFscale p ty d a b s
  | .cvt p ty src d a => execCvt p ty src d a s
  | .cvtb p ty code d a => execCvtb p ty code d a s
  | .pack p ty src d a b => execPack p ty src d a b s
  | .unpack p ty dst part d a => execUnpack p ty dst part d a s
  | .shflIdx p ty d a b => execShflIdx p ty d a b s
  | .shflUp p ty d a b => execShflUp p ty d a b s
  | .shflDn p ty d a b => execShflDn p ty d a b s
  | .shflXor p ty d a b => execShflXor p ty d a b s
  | .voteAll p d a => execVoteAll p d a s
  | .voteAny p d a => execVoteAny p d a s
  | .voteEq p ty d a => execVoteEq p ty d a s
  | .voteBallot p d a => execVoteBallot p d a s
  | .reds p op ty d a => execReds p op ty d a s
  | .scan p op ty excl d a => execScan p op ty excl d a s
  | .mand p d a b => execMand p d a b s
  | .mor p d a b => execMor p d a b s
  | .mxor p d a b => execMxor p d a b s
  | .mnot p d a => execMnot p d a s
  | .mmovMask p d a => execMmovMask p d a s
  | .mmovFromScalar p d a => execMmovFromScalar p d a s
  | .mmovToScalar p d a => execMmovToScalar p d a s
  | .mcnt p d a => execMcnt p d a s
  | .mfirst p d a => execMfirst p d a s
  | .ld p ty d addr hint scope => execLd p ty d addr hint scope s
  | .st p ty addr c hint scope => execSt p ty addr c hint scope s
  | .lds ty d a b disp hint scope => execLds ty d a b disp hint scope s
  | .sts ty a b c disp hint scope => execSts ty a b c disp hint scope s
  | .ldl p ty d a disp => execLdl p ty d a disp s
  | .stl p ty a disp c => execStl p ty a disp c s
  | .mld p ty d a b disp hint scope => execMld p ty d a b disp hint scope s
  | .mst p ty a b disp c hint scope => execMst p ty a b disp c hint scope s
  | .pld p addr hint scope => execPld p addr hint scope s
  | .ldpd p ty d addr => execLdpd p ty d addr s
  | .stpd p ty addr c => execStpd p ty addr c s
  | .xst p ty addr c => execXst p ty addr c s
  | .mcst p ty d a b c => execMcst p ty d a b c s
  | .gjoin d a => execGjoin d a s
  | .gleave => execGleave s
  | .gbar => execGbar s
  | .atom p op ty pad d addr c ord scope => execAtom p op ty pad d addr c ord scope s
  | .red p op ty pad addr c ord scope => execRed p op ty pad addr c ord scope s
  | .fence ord scope => execFence ord scope s
  | .barSync d scope id => execBarSync d scope id s
  | .barArrive d scope id => execBarArrive d scope id s
  | .barWait d scope id => execBarWait d scope id s
  | .barExcuse d scope id => execBarExcuse d scope id s
  | .clean a b scope => execClean a b scope s
  | .inval a b scope => execInval a b scope s
  | .flush a b scope => execFlush a b scope s
  | .ldacq p ty d addr hint scope => execLdacq p ty d addr hint scope s
  | .strel p ty addr c hint scope => execStrel p ty addr c hint scope s
  | .mma p xaf d a b c => execMma p xaf d a b c s
  | .mmb p xaf d a b c => execMmb p xaf d a b c s
  | .mms p xaf mta d a b c => execMms p xaf mta d a b c s
  | .spcmp p d a b c => execSpcmp p d a b c s
  | .mtrn p d a => execMtrn p d a s
  | .mzero p d => execMzero p d s
  | .mcvt p d a c => execMcvt p d a c s
  | .mscale p d a b => execMscale p d a b s
  | .xcp dim a => execXcp dim a s
  | .xcpTmpl a => execXcpTmpl a s
  | .xbatch d => execXbatch d s
  | .xwait a => execXwait a s
  | .rinit a b => execRinit a b s
  | .rawait d a => execRawait d a s
  | .rrel a b => execRrel a b s
  | .rfill a b => execRfill a b s
  | .mvs a => execMvs a s
  | .cred d a => execCred d a s
  | .cmc d a => execCmc d a s
  | .cag d a => execCag d a s
  | .rlq d a => execRlq d a s
  | _ => .fault .noWarp

/-- A warp retires its next instruction: the instruction is fetched and executed, or the trap of the fetch is taken. -/
def retireWarp (w : Warp) (s : State) : Out :=
  let s := { s.setWarp w with cur := some w.wid }
  let (r, s') := (fetchInstr w).run s
  match r, s.stalled s' with
  | _, some _ => .next (s.finish w s')
  | .ok i, none => execWarp i s'
  | .error t, none => .next (s.finish w ((takeTrap w t).run s').2)

/-- A mismatch of the two issues of checked execution: the warp restarts at its region entry, or is killed at the fourth (R398). -/
def mismatch (w : Warp) : SM Unit :=
  if w.rcnt = 3 then modify fun s => s.kill w { cause := 0x12 } false true
  else modify fun s => s.setWarp { w.goTo w.regpc with rcnt := w.rcnt + 1, rob := [] }

/-- INSTRUCTION_RETIRE (R201, R397, R398): the oldest instruction of a running warp retires; in a checked warp its issues may differ. -/
def execInstructionRetire (wid : Nat) (mismatch : Bool) (s : State) : Out :=
  match s.plat.on, s.warp? wid with
  | false, _ => .fault .powerOff
  | true, none => .fault .notEnabled
  | true, some w =>
    if !s.ready? w || (mismatch && (!w.chk || w.mid != 0)) then .fault .notEnabled
    else if mismatch then .next { (Sys2Proof.Machine.mismatch w s).2 with cur := none }
    else retireWarp { w with since := s.plat.cc } s

/-- Where a branch goes: its result in a state in which its warp executes, or none when it is no branch or traps. -/
def branchDest (i : Instr) (w : Warp) (s : State) : Option Word :=
  let run (o : Out) : Option Word :=
    match o with
    | .next t => (t.warp? w.wid).bind (fun v => if v.st == .running && v.tl == w.tl then some v.pc else none)
    | _ => none
  match i with
  | .br d => run (execBr d s)
  | .bcc c d => run (execBcc c d s)
  | .bmz m d => run (execBmz m d s)
  | .bmnz m d => run (execBmnz m d s)
  | .call f d => run (execCall f d s)
  | .calli a f => run (execCalli a f s)
  | .ret => run (execRet s)
  | _ => none

/-- BRANCH_MISPREDICT (R201): the oldest instruction in the reorder buffer is a branch that does not go where the next entry stands;
every younger instruction is squashed and fetch goes on at the target. -/
def execBranchMispredict (wid : Nat) (s : State) : Out :=
  event s ((s.warp? wid).bind (fun w =>
    match w.liveRob with
    | [] => none
    | e :: r =>
      let (i, s') := (fetchInstr w).run { s with cur := some w.wid }
      match i with
      | .error _ => none
      | .ok i =>
        match (if (s.stalled s').isSome then none else branchDest i w s') with
        | none => none
        | some t =>
          if t = ((r.head?).map (fun x => x.pc)).getD w.fpc then none
          else some (modify fun s => s.setWarp { w with rob := [e], fpc := t })))

end Sys2Proof.Machine
end

