-- ==== Sys2Proof/Machine/StackStep.lean ====
section
/-!
DEFINITION. The memory controllers: command issue and share windows (R136, R137), patrol scrub (R144, R145), data rates (R149-R151), and the
register writes that have rows of their own.
-/

namespace Sys2Proof.Machine

/-! ## Command issue (R136, R137) -/

/-- MC_COMMAND_ISSUE (R137): the command that SELECT chooses issues. -/
def execMcCommandIssue (stack : Nat) (s : State) : Out := event s ((s.mcSelect stack).map mcIssue)

/-- A window starts (R135-R137, R151): usage is 0, the rate of the window is fixed, accepted shares whose window has come are in force, and bit
errors may have come up in the lines of the stacks (log 59). -/
def startWindow : SM Unit :=
  modify fun s =>
    let s := s.dropReads
    let due (q : Part) := q.shWait.filter (fun e => decide (e.2.1 ≤ s.plat.cc))
    { s with hbm := s.hbm.map (fun e => (e.1, { e.2 with used := [], eused := [], wcur := e.2.cur, scrubbed := false })),
             ecc := Config.eccFaults s.free ++ s.ecc, free := s.free + 1,
             parts := s.parts.map (fun q =>
               { q with shInf := (due q).foldl (fun t e => t.setIfInBounds e.1 e.2.2) q.shInf,
                        shWait := q.shWait.filter (fun e => !decide (e.2.1 ≤ s.plat.cc)) }) }

/-- SHARE_WINDOW_START (R136): windows begin at multiples of 1,400 cc. -/
def execShareWindowStart (s : State) : Out := eventIf s (decide (s.plat.cc % 1400 = 0)) startWindow

/-! ## Patrol scrub (R144, R145) -/

/-- A pass begins with its first line: writes to the stack take the next version from then on (R144). -/
def beginPass (k : Nat) : SM Unit := modify fun s => s.updStack k (fun x => { x with act := true, begun := true, scrubbed := true })

/-- One line of a stack is read, checked and written back under the next version (R144): corrected if its bit errors can be, poisoned if it fails.
A line that nothing has written and that is sound stays unwritten. -/
def scrubOne (k loc : Nat) : SM Unit := do
  beginPass k
  let s ← get
  let p := s.partOfStack k
  let tag := s.tags.find? (fun t => t.line == lineNo k loc)
  let kd := (tag.map (fun t => t.kd)).getD 0
  let bad ← checkLine p kd k loc false
  if tag.isSome || bad ≠ 0 || (s.eccOf k loc).isSome then setTag k loc ((s.part p).key kd) kd (bad ≠ 0)

/-- The pass goes on to its next line; at its end PASS and the version of every slot of the owner rise and a new pass begins. -/
def scrubNext (k : Nat) : SM Unit := do
  let s ← get
  if (s.stack k).pos + 1 < 2 ^ 29 then modify fun s => s.updStack k (fun x => { x with pos := x.pos + 1 })
  else modify fun s =>
    let s : State := s.updStack k (fun x => { x with pos := 0, pass := (x.pass + 1) % 65536 })
    s.updPart (s.partOfStack k) (fun q => { q with kver := q.kver.map (fun v => v + 1) })

/-- The scrub of a stack may take a line: its passes are enabled, no rate changes, and it took none in this window (R137, R145). -/
def State.scrubs (s : State) (k : Nat) : Bool :=
  let x := s.stack k
  decide (k < 48) && x.en && x.cur != 3 && x.phase != .drain && x.phase != .training && !x.scrubbed

/-- SCRUB_LINE (R144). -/
def execScrubLine (stack : Nat) (s : State) : Out :=
  eventIf s (s.scrubs stack) (do
    scrubOne stack (128 * (s.stack stack).pos)
    scrubNext stack)

/-! ## Data rates (R149-R151) -/

/-- RATE_CHANGE_REQUEST (R149): a write of REQ. -/
def execRateChangeRequest (stack : Nat) (code : BitVec 2) (s : State) : Out :=
  eventIf s (decide (stack < 48)) (set (s.updStack stack (fun k => k.request code.toNat)))

/-- More than 64 corrections on one channel within 1 s bring a controller with AUTO to lower its rate (R149). -/
def State.mustLower (s : State) (stack : Nat) : Bool :=
  let k := s.stack stack
  decide (stack < 48) && k.auto && !k.busy && k.cur != 3 &&
    (List.range 32).any (fun c => decide (((recentCorr s.timeNs k.corr).filter (fun e => e.1 == c)).length > 64))

/-- RATE_AUTO_LOWER (R149): the controller asks for the next lower rate, or retrains at code 2. -/
def execRateAutoLower (stack : Nat) (s : State) : Out :=
  eventIf s (s.mustLower stack)
    (set (s.updStack stack (fun k => { k with busy := true, phase := .pending, target := min 2 (k.cur + 1), corr := [] })))

/-- A slice boundary of a partition falls within the next 40 us. -/
def State.sliceSoon (s : State) (p : Nat) : Bool :=
  (s.nextBoundary p).any (fun t => decide (t ≤ s.timeNs + 40000))

/-- A change of rate that waits may start its drain: no command of a save is queued and no slice boundary is near (R150). -/
def State.mayDrain (s : State) (k : Nat) : Bool :=
  (s.stack k).phase == .pending && !s.mcq.any (fun c => c.stack == k && c.save) && !s.sliceSoon (s.partOfStack k)

/-- Drains start: new commands are held on the request plane from then on. -/
def startDrains : SM Unit :=
  modify fun s => { s with hbm := s.hbm.map (fun e => (e.1, { e.2 with phase := if s.mayDrain e.1 then .drain else e.2.phase })) }

/-- RATE_DRAIN_END (R150): the queued commands are complete and training starts. -/
def execRateDrainEnd (stack : Nat) (s : State) : Out :=
  eventIf s ((s.stack stack).phase == .drain && s.mcQueue stack == [])
    (modify fun s => s.updStack stack (fun k => { k with phase := .training }))

/-- RATE_TRAINING_END (R151): the new code is in force, or the stack is dead; the commands held meanwhile are let in, and the map's version rises. -/
def execRateTrainingEnd (stack : Nat) (ok : Bool) (s : State) : Out :=
  let k := s.stack stack
  let p := s.partOfStack stack
  eventIf s (k.phase == .training) (do
    modify fun s => s.updStack stack (fun k => { k with cur := if ok then k.target else 3, busy := false, phase := .idle })
    modify fun s => { s with mcq := s.mcq.map (fun c => if c.stack == stack then { c with held := false } else c) }
    if (s.part p).formed then riseMap p (if ok then 4 else 5) stack)

/-! ## Register writes with rows of their own -/

/-- CRYPTO_ERASE (R143). -/
def execCryptoErase (part kd : Nat) (s : State) : Out := eventIf s ((s.part part).formed && decide (part < 4 ∧ kd < 16)) (eraseKey part kd)
/-- SCRUB_CTL_WRITE (R145). -/
def execScrubCtlWrite (part stack : Nat) (v : Word32) (s : State) : Out :=
  eventIf s ((s.part part).formed && decide (part < 4) && s.ownsStack part stack) (scrubWrite stack v)
/-- MC_SHARE_WRITE (R135). -/
def execMcShareWrite (part n : Nat) (v : Word32) (s : State) : Out :=
  eventIf s ((s.part part).formed && decide (part < 4 ∧ n < 64)) (shareWrite part n v)
/-- MC_SHCTL_WRITE (R135). -/
def execMcShctlWrite (part : Nat) (v : Word32) (s : State) : Out := eventIf s ((s.part part).formed && decide (part < 4)) (shctlWrite part v)
/-- WCC_RCT_WRITE (R89). -/
def execWccRctWrite (part n : Nat) (v : Word32) (s : State) : Out :=
  eventIf s ((s.part part).formed && decide (part < 4 ∧ n < 16)) (rctWrite part n v)
/-- INTERLEAVE_COMMIT (R28). -/
def execInterleaveCommit (part : Nat) (v : Word32) (s : State) : Out :=
  eventIf s ((s.part part).formed && decide (part < 4)) (ivlCommit part v)

end Sys2Proof.Machine
end

