-- ==== Sys2Proof/Machine/Dispatch.lean ====
section
/-!
DEFINITION. The dispatch of instructions to their meanings: one arm per constructor of Instr.
-/

namespace Sys2Proof.Machine

/-- The meaning of an instruction or a step of another agent. -/
def exec (i : Instr) (s : State) : Host.Outcome State Fault Refusal :=
  match i with
  | .nop => Sys2Proof.Machine.execNop s
  | .sadd ty d a b => Sys2Proof.Machine.execSadd ty d a b s
  | .ssub ty d a b => Sys2Proof.Machine.execSsub ty d a b s
  | .smul ty d a b => Sys2Proof.Machine.execSmul ty d a b s
  | .smulh ty d a b => Sys2Proof.Machine.execSmulh ty d a b s
  | .sdiv ty d a b => Sys2Proof.Machine.execSdiv ty d a b s
  | .srem ty d a b => Sys2Proof.Machine.execSrem ty d a b s
  | .sand ty d a b => Sys2Proof.Machine.execSand ty d a b s
  | .sor ty d a b => Sys2Proof.Machine.execSor ty d a b s
  | .sxor ty d a b => Sys2Proof.Machine.execSxor ty d a b s
  | .sandn ty d a b => Sys2Proof.Machine.execSandn ty d a b s
  | .sshl ty d a b => Sys2Proof.Machine.execSshl ty d a b s
  | .sshr ty d a b => Sys2Proof.Machine.execSshr ty d a b s
  | .ssra ty d a b => Sys2Proof.Machine.execSsra ty d a b s
  | .srot ty d a b => Sys2Proof.Machine.execSrot ty d a b s
  | .smin ty d a b => Sys2Proof.Machine.execSmin ty d a b s
  | .smax ty d a b => Sys2Proof.Machine.execSmax ty d a b s
  | .sclz ty d a => Sys2Proof.Machine.execSclz ty d a s
  | .spop ty d a => Sys2Proof.Machine.execSpop ty d a s
  | .sctz ty d a => Sys2Proof.Machine.execSctz ty d a s
  | .sbrev ty d a => Sys2Proof.Machine.execSbrev ty d a s
  | .smov d b => Sys2Proof.Machine.execSmov d b s
  | .smovh d imm => Sys2Proof.Machine.execSmovh d imm s
  | .sext ty d a => Sys2Proof.Machine.execSext ty d a s
  | .sbfx ty d a pos lenm1 => Sys2Proof.Machine.execSbfx ty d a pos lenm1 s
  | .sbfi d a pos lenm1 => Sys2Proof.Machine.execSbfi d a pos lenm1 s
  | .slea d a b sh => Sys2Proof.Machine.execSlea d a b sh s
  | .scmp ty a b => Sys2Proof.Machine.execScmp ty a b s
  | .ssel d a b cond => Sys2Proof.Machine.execSsel d a b cond s
  | .srd d q b => Sys2Proof.Machine.execSrd d q b s
  | .sflgGet d => Sys2Proof.Machine.execSflgGet d s
  | .sflgSet a => Sys2Proof.Machine.execSflgSet a s
  | .br disp => Sys2Proof.Machine.execBr disp s
  | .bcc cond disp => Sys2Proof.Machine.execBcc cond disp s
  | .bmz m disp => Sys2Proof.Machine.execBmz m disp s
  | .bmnz m disp => Sys2Proof.Machine.execBmnz m disp s
  | .call slide disp => Sys2Proof.Machine.execCall slide disp s
  | .calli a slide => Sys2Proof.Machine.execCalli a slide s
  | .ret => Sys2Proof.Machine.execRet s
  | .exit => Sys2Proof.Machine.execExit s
  | .post a => Sys2Proof.Machine.execPost a s
  | .join d a => Sys2Proof.Machine.execJoin d a s
  | .yield => Sys2Proof.Machine.execYield s
  | .region => Sys2Proof.Machine.execRegion s
  | .quota a b => Sys2Proof.Machine.execQuota a b s
  | .trap code => Sys2Proof.Machine.execTrap code s
  | .rte => Sys2Proof.Machine.execRte s
  | .sysrd d a num => Sys2Proof.Machine.execSysrd d a num s
  | .syswr a b num => Sys2Proof.Machine.execSyswr a b num s
  | .rmack a => Sys2Proof.Machine.execRmack a s
  | .pgpurge a b c => Sys2Proof.Machine.execPgpurge a b c s
  | .pause n => Sys2Proof.Machine.execPause n s
  | .park => Sys2Proof.Machine.execPark s
  | .vadd p ty d a b => Sys2Proof.Machine.execVadd p ty d a b s
  | .vsub p ty d a b => Sys2Proof.Machine.execVsub p ty d a b s
  | .vmul p ty d a b => Sys2Proof.Machine.execVmul p ty d a b s
  | .vmulh p ty d a b => Sys2Proof.Machine.execVmulh p ty d a b s
  | .vmad p ty d a b c => Sys2Proof.Machine.execVmad p ty d a b c s
  | .vand p ty d a b => Sys2Proof.Machine.execVand p ty d a b s
  | .vor p ty d a b => Sys2Proof.Machine.execVor p ty d a b s
  | .vxor p ty d a b => Sys2Proof.Machine.execVxor p ty d a b s
  | .vandn p ty d a b => Sys2Proof.Machine.execVandn p ty d a b s
  | .vshl p ty d a b => Sys2Proof.Machine.execVshl p ty d a b s
  | .vshr p ty d a b => Sys2Proof.Machine.execVshr p ty d a b s
  | .vsra p ty d a b => Sys2Proof.Machine.execVsra p ty d a b s
  | .vrot p ty d a b => Sys2Proof.Machine.execVrot p ty d a b s
  | .vmin p ty d a b => Sys2Proof.Machine.execVmin p ty d a b s
  | .vmax p ty d a b => Sys2Proof.Machine.execVmax p ty d a b s
  | .vabs p ty d a => Sys2Proof.Machine.execVabs p ty d a s
  | .vneg p ty d a => Sys2Proof.Machine.execVneg p ty d a s
  | .vclz p ty d a => Sys2Proof.Machine.execVclz p ty d a s
  | .vpop p ty d a => Sys2Proof.Machine.execVpop p ty d a s
  | .vsel p ty d a b c => Sys2Proof.Machine.execVsel p ty d a b c s
  | .vcmp p rel ty d a b => Sys2Proof.Machine.execVcmp p rel ty d a b s
  | .vmov p ty d a => Sys2Proof.Machine.execVmov p ty d a s
  | .vbcast p ty d a => Sys2Proof.Machine.execVbcast p ty d a s
  | .vmovi p ty d imm => Sys2Proof.Machine.execVmovi p ty d imm s
  | .vlane p d => Sys2Proof.Machine.execVlane p d s
  | .vadds p ty d a b => Sys2Proof.Machine.execVadds p ty d a b s
  | .vsubs p ty d a b => Sys2Proof.Machine.execVsubs p ty d a b s
  | .fadd p ty d a b => Sys2Proof.Machine.execFadd p ty d a b s
  | .fsub p ty d a b => Sys2Proof.Machine.execFsub p ty d a b s
  | .fmul p ty d a b => Sys2Proof.Machine.execFmul p ty d a b s
  | .fma p ty d a b c => Sys2Proof.Machine.execFma p ty d a b c s
  | .fms p ty d a b c => Sys2Proof.Machine.execFms p ty d a b c s
  | .fnma p ty d a b c => Sys2Proof.Machine.execFnma p ty d a b c s
  | .fnms p ty d a b c => Sys2Proof.Machine.execFnms p ty d a b c s
  | .fmin p ty d a b => Sys2Proof.Machine.execFmin p ty d a b s
  | .fmax p ty d a b => Sys2Proof.Machine.execFmax p ty d a b s
  | .fminnum p ty d a b => Sys2Proof.Machine.execFminnum p ty d a b s
  | .fmaxnum p ty d a b => Sys2Proof.Machine.execFmaxnum p ty d a b s
  | .fabs p ty d a => Sys2Proof.Machine.execFabs p ty d a s
  | .fneg p ty d a => Sys2Proof.Machine.execFneg p ty d a s
  | .fcopysign p ty d a b => Sys2Proof.Machine.execFcopysign p ty d a b s
  | .fcmp p rel ty d a b => Sys2Proof.Machine.execFcmp p rel ty d a b s
  | .fclass p ty d a => Sys2Proof.Machine.execFclass p ty d a s
  | .frnd p ty d a mode => Sys2Proof.Machine.execFrnd p ty d a mode s
  | .frcp p ty d a => Sys2Proof.Machine.execFrcp p ty d a s
  | .frsq p ty d a => Sys2Proof.Machine.execFrsq p ty d a s
  | .fsqrt p ty d a => Sys2Proof.Machine.execFsqrt p ty d a s
  | .fexp2 p ty d a => Sys2Proof.Machine.execFexp2 p ty d a s
  | .flog2 p ty d a => Sys2Proof.Machine.execFlog2 p ty d a s
  | .fsin p ty d a => Sys2Proof.Machine.execFsin p ty d a s
  | .fcos p ty d a => Sys2Proof.Machine.execFcos p ty d a s
  | .ftanh p ty d a => Sys2Proof.Machine.execFtanh p ty d a s
  | .fdiv p ty d a b => Sys2Proof.Machine.execFdiv p ty d a b s
  | .fscale p ty d a b => Sys2Proof.Machine.execFscale p ty d a b s
  | .cvt p ty src d a => Sys2Proof.Machine.execCvt p ty src d a s
  | .cvtb p ty code d a => Sys2Proof.Machine.execCvtb p ty code d a s
  | .pack p ty src d a b => Sys2Proof.Machine.execPack p ty src d a b s
  | .unpack p ty dst part d a => Sys2Proof.Machine.execUnpack p ty dst part d a s
  | .shflIdx p ty d a b => Sys2Proof.Machine.execShflIdx p ty d a b s
  | .shflUp p ty d a b => Sys2Proof.Machine.execShflUp p ty d a b s
  | .shflDn p ty d a b => Sys2Proof.Machine.execShflDn p ty d a b s
  | .shflXor p ty d a b => Sys2Proof.Machine.execShflXor p ty d a b s
  | .voteAll p d a => Sys2Proof.Machine.execVoteAll p d a s
  | .voteAny p d a => Sys2Proof.Machine.execVoteAny p d a s
  | .voteEq p ty d a => Sys2Proof.Machine.execVoteEq p ty d a s
  | .voteBallot p d a => Sys2Proof.Machine.execVoteBallot p d a s
  | .reds p op ty d a => Sys2Proof.Machine.execReds p op ty d a s
  | .scan p op ty excl d a => Sys2Proof.Machine.execScan p op ty excl d a s
  | .mand p d a b => Sys2Proof.Machine.execMand p d a b s
  | .mor p d a b => Sys2Proof.Machine.execMor p d a b s
  | .mxor p d a b => Sys2Proof.Machine.execMxor p d a b s
  | .mnot p d a => Sys2Proof.Machine.execMnot p d a s
  | .mmovMask p d a => Sys2Proof.Machine.execMmovMask p d a s
  | .mmovFromScalar p d a => Sys2Proof.Machine.execMmovFromScalar p d a s
  | .mmovToScalar p d a => Sys2Proof.Machine.execMmovToScalar p d a s
  | .mcnt p d a => Sys2Proof.Machine.execMcnt p d a s
  | .mfirst p d a => Sys2Proof.Machine.execMfirst p d a s
  | .ld p ty d addr hint scope => Sys2Proof.Machine.execLd p ty d addr hint scope s
  | .st p ty addr c hint scope => Sys2Proof.Machine.execSt p ty addr c hint scope s
  | .lds ty d a b disp hint scope => Sys2Proof.Machine.execLds ty d a b disp hint scope s
  | .sts ty a b c disp hint scope => Sys2Proof.Machine.execSts ty a b c disp hint scope s
  | .ldl p ty d a disp => Sys2Proof.Machine.execLdl p ty d a disp s
  | .stl p ty a disp c => Sys2Proof.Machine.execStl p ty a disp c s
  | .mld p ty d a b disp hint scope => Sys2Proof.Machine.execMld p ty d a b disp hint scope s
  | .mst p ty a b disp c hint scope => Sys2Proof.Machine.execMst p ty a b disp c hint scope s
  | .pld p addr hint scope => Sys2Proof.Machine.execPld p addr hint scope s
  | .ldpd p ty d addr => Sys2Proof.Machine.execLdpd p ty d addr s
  | .stpd p ty addr c => Sys2Proof.Machine.execStpd p ty addr c s
  | .xst p ty addr c => Sys2Proof.Machine.execXst p ty addr c s
  | .mcst p ty d a b c => Sys2Proof.Machine.execMcst p ty d a b c s
  | .gjoin d a => Sys2Proof.Machine.execGjoin d a s
  | .gleave => Sys2Proof.Machine.execGleave s
  | .gbar => Sys2Proof.Machine.execGbar s
  | .atom p op ty pad d addr c ord scope => Sys2Proof.Machine.execAtom p op ty pad d addr c ord scope s
  | .red p op ty pad addr c ord scope => Sys2Proof.Machine.execRed p op ty pad addr c ord scope s
  | .fence ord scope => Sys2Proof.Machine.execFence ord scope s
  | .barSync d scope id => Sys2Proof.Machine.execBarSync d scope id s
  | .barArrive d scope id => Sys2Proof.Machine.execBarArrive d scope id s
  | .barWait d scope id => Sys2Proof.Machine.execBarWait d scope id s
  | .barExcuse d scope id => Sys2Proof.Machine.execBarExcuse d scope id s
  | .clean a b scope => Sys2Proof.Machine.execClean a b scope s
  | .inval a b scope => Sys2Proof.Machine.execInval a b scope s
  | .flush a b scope => Sys2Proof.Machine.execFlush a b scope s
  | .ldacq p ty d addr hint scope => Sys2Proof.Machine.execLdacq p ty d addr hint scope s
  | .strel p ty addr c hint scope => Sys2Proof.Machine.execStrel p ty addr c hint scope s
  | .mma p xaf d a b c => Sys2Proof.Machine.execMma p xaf d a b c s
  | .mmb p xaf d a b c => Sys2Proof.Machine.execMmb p xaf d a b c s
  | .mms p xaf mta d a b c => Sys2Proof.Machine.execMms p xaf mta d a b c s
  | .spcmp p d a b c => Sys2Proof.Machine.execSpcmp p d a b c s
  | .mtrn p d a => Sys2Proof.Machine.execMtrn p d a s
  | .mzero p d => Sys2Proof.Machine.execMzero p d s
  | .mcvt p d a c => Sys2Proof.Machine.execMcvt p d a c s
  | .mscale p d a b => Sys2Proof.Machine.execMscale p d a b s
  | .xcp dim a => Sys2Proof.Machine.execXcp dim a s
  | .xcpTmpl a => Sys2Proof.Machine.execXcpTmpl a s
  | .xbatch d => Sys2Proof.Machine.execXbatch d s
  | .xwait a => Sys2Proof.Machine.execXwait a s
  | .rinit a b => Sys2Proof.Machine.execRinit a b s
  | .rawait d a => Sys2Proof.Machine.execRawait d a s
  | .rrel a b => Sys2Proof.Machine.execRrel a b s
  | .rfill a b => Sys2Proof.Machine.execRfill a b s
  | .mvs a => Sys2Proof.Machine.execMvs a s
  | .cred d a => Sys2Proof.Machine.execCred d a s
  | .cmc d a => Sys2Proof.Machine.execCmc d a s
  | .cag d a => Sys2Proof.Machine.execCag d a s
  | .rlq d a => Sys2Proof.Machine.execRlq d a s
  | .issueCycle core sub => Sys2Proof.Machine.execIssueCycle core sub s
  | .starvationPromotion wid => Sys2Proof.Machine.execStarvationPromotion wid s
  | .instructionRetire wid mismatch => Sys2Proof.Machine.execInstructionRetire wid mismatch s
  | .loadReply wid => Sys2Proof.Machine.execLoadReply wid s
  | .branchMispredict wid => Sys2Proof.Machine.execBranchMispredict wid s
  | .fetchParityRefetch core key => Sys2Proof.Machine.execFetchParityRefetch core key s
  | .windowLineEvict wid => Sys2Proof.Machine.execWindowLineEvict wid s
  | .windowLineFill wid idx => Sys2Proof.Machine.execWindowLineFill wid idx s
  | .gateRequest gate wid key => Sys2Proof.Machine.execGateRequest gate wid key s
  | .walkStart gate => Sys2Proof.Machine.execWalkStart gate s
  | .walkComplete gate => Sys2Proof.Machine.execWalkComplete gate s
  | .permissionUpgrade core key => Sys2Proof.Machine.execPermissionUpgrade core key s
  | .permissionProbe core key => Sys2Proof.Machine.execPermissionProbe core key s
  | .anchorRead core key repl => Sys2Proof.Machine.execAnchorRead core key repl s
  | .anchorWrite core key mask data => Sys2Proof.Machine.execAnchorWrite core key mask data s
  | .countNotice => Sys2Proof.Machine.execCountNotice s
  | .migrationEnd key => Sys2Proof.Machine.execMigrationEnd key s
  | .l1Eviction core key => Sys2Proof.Machine.execL1Eviction core key s
  | .bankLineEvict bank key => Sys2Proof.Machine.execBankLineEvict bank key s
  | .pinRequest core key => Sys2Proof.Machine.execPinRequest core key s
  | .invalidation => Sys2Proof.Machine.execInvalidation s
  | .collapseAck => Sys2Proof.Machine.execCollapseAck s
  | .epochSweep bank => Sys2Proof.Machine.execEpochSweep bank s
  | .windowReset => Sys2Proof.Machine.execWindowReset s
  | .bankRetire bank => Sys2Proof.Machine.execBankRetire bank s
  | .linkRetire north x y => Sys2Proof.Machine.execLinkRetire north x y s
  | .coreRetire core => Sys2Proof.Machine.execCoreRetire core s
  | .mapAckDeadline part ctx => Sys2Proof.Machine.execMapAckDeadline part ctx s
  | .exchangeStoreArrive => Sys2Proof.Machine.execExchangeStoreArrive s
  | .groupArrival core => Sys2Proof.Machine.execGroupArrival core s
  | .groupRelease core => Sys2Proof.Machine.execGroupRelease core s
  | .slotRevocation => Sys2Proof.Machine.execSlotRevocation s
  | .barrierArrival => Sys2Proof.Machine.execBarrierArrival s
  | .mcCommandIssue stack => Sys2Proof.Machine.execMcCommandIssue stack s
  | .shareWindowStart => Sys2Proof.Machine.execShareWindowStart s
  | .scrubLine stack => Sys2Proof.Machine.execScrubLine stack s
  | .rateChangeRequest stack code => Sys2Proof.Machine.execRateChangeRequest stack code s
  | .rateAutoLower stack => Sys2Proof.Machine.execRateAutoLower stack s
  | .rateDrainEnd stack => Sys2Proof.Machine.execRateDrainEnd stack s
  | .rateTrainingEnd stack ok => Sys2Proof.Machine.execRateTrainingEnd stack ok s
  | .cryptoErase part kd => Sys2Proof.Machine.execCryptoErase part kd s
  | .scrubCtlWrite part stack v => Sys2Proof.Machine.execScrubCtlWrite part stack v s
  | .mcShareWrite part n v => Sys2Proof.Machine.execMcShareWrite part n v s
  | .mcShctlWrite part v => Sys2Proof.Machine.execMcShctlWrite part v s
  | .wccRctWrite part n v => Sys2Proof.Machine.execWccRctWrite part n v s
  | .interleaveCommit part v => Sys2Proof.Machine.execInterleaveCommit part v s
  | .stackEngineOp stack => Sys2Proof.Machine.execStackEngineOp stack s
  | .engineCompletion op => Sys2Proof.Machine.execEngineCompletion op s
  | .copyEngineOp core => Sys2Proof.Machine.execCopyEngineOp core s
  | .collectiveComplete inst => Sys2Proof.Machine.execCollectiveComplete inst s
  | .engineStop op => Sys2Proof.Machine.execEngineStop op s
  | .slotTakesRecord core sub => Sys2Proof.Machine.execSlotTakesRecord core sub s
  | .warpStart wid => Sys2Proof.Machine.execWarpStart wid s
  | .harvestRevocation core => Sys2Proof.Machine.execHarvestRevocation core s
  | .kennelParkDone wid => Sys2Proof.Machine.execKennelParkDone wid s
  | .harvestPagesReturned core => Sys2Proof.Machine.execHarvestPagesReturned core s
  | .harvestGrant core sub => Sys2Proof.Machine.execHarvestGrant core sub s
  | .kennelLineReturn wid idx => Sys2Proof.Machine.execKennelLineReturn wid idx s
  | .contextSave part ctx => Sys2Proof.Machine.execContextSave part ctx s
  | .contextResume part ctx => Sys2Proof.Machine.execContextResume part ctx s
  | .warpKill wid cause => Sys2Proof.Machine.execWarpKill wid cause s
  | .killedWarpDrained wid => Sys2Proof.Machine.execKilledWarpDrained wid s
  | .faultRecordPost part ctx => Sys2Proof.Machine.execFaultRecordPost part ctx s
  | .ctxResume part ctx seq => Sys2Proof.Machine.execCtxResume part ctx seq s
  | .ctxSkip part ctx seq => Sys2Proof.Machine.execCtxSkip part ctx seq s
  | .ctxKill part ctx seq => Sys2Proof.Machine.execCtxKill part ctx seq s
  | .ctxEnable part ctx en asid => Sys2Proof.Machine.execCtxEnable part ctx en asid s
  | .ctxSuspend part ctx => Sys2Proof.Machine.execCtxSuspend part ctx s
  | .ctxResumeAll part ctx => Sys2Proof.Machine.execCtxResumeAll part ctx s
  | .ctxRelease part ctx => Sys2Proof.Machine.execCtxRelease part ctx s
  | .wqTailWrite q v => Sys2Proof.Machine.execWqTailWrite q v s
  | .wqCtlWrite q v => Sys2Proof.Machine.execWqCtlWrite q v s
  | .launchPacket port src q rec1 => Sys2Proof.Machine.execLaunchPacket port src q rec1 s
  | .launchAccept part => Sys2Proof.Machine.execLaunchAccept part s
  | .pendingLaunchStart part => Sys2Proof.Machine.execPendingLaunchStart part s
  | .gridCompletion launch => Sys2Proof.Machine.execGridCompletion launch s
  | .sliceBoundary part => Sys2Proof.Machine.execSliceBoundary part s
  | .slcWrite part n v => Sys2Proof.Machine.execSlcWrite part n v s
  | .partitionCommit part v => Sys2Proof.Machine.execPartitionCommit part v s
  | .commitComplete => Sys2Proof.Machine.execCommitComplete s
  | .quiesceRequest part q => Sys2Proof.Machine.execQuiesceRequest part q s
  | .quiesceCancel part q => Sys2Proof.Machine.execQuiesceCancel part q s
  | .partitionQuiesced part => Sys2Proof.Machine.execPartitionQuiesced part s
  | .partNbndWrite part v => Sys2Proof.Machine.execPartNbndWrite part v s
  | .seamRoutesReady => Sys2Proof.Machine.execSeamRoutesReady s
  | .qownWrite part q v => Sys2Proof.Machine.execQownWrite part q v s
  | .doorbell ch tmpl => Sys2Proof.Machine.execDoorbell ch tmpl s
  | .hostMemRead pa => Sys2Proof.Machine.execHostMemRead pa s
  | .hostMemWrite pa mask data => Sys2Proof.Machine.execHostMemWrite pa mask data s
  | .registerWrite part num inst v => Sys2Proof.Machine.execRegisterWrite part num inst v s
  | .powerOn => Sys2Proof.Machine.execPowerOn s
  | .bootGo => Sys2Proof.Machine.execBootGo s
  | .bringupStageDone ok rpt => Sys2Proof.Machine.execBringupStageDone ok rpt s
  | .attestRequest => Sys2Proof.Machine.execAttestRequest s
  | .attestReport => Sys2Proof.Machine.execAttestReport s
  | .shutdown => Sys2Proof.Machine.execShutdown s
  | .clkWrite v => Sys2Proof.Machine.execClkWrite v s
  | .throttle draw => Sys2Proof.Machine.execThrottle draw s
  | .overtempPowerOff => Sys2Proof.Machine.execOvertempPowerOff s
  | .powerLoss => Sys2Proof.Machine.execPowerLoss s
  | .portLinkFail port => Sys2Proof.Machine.execPortLinkFail port s
  | .portTrained port ok oneLane => Sys2Proof.Machine.execPortTrained port ok oneLane s
  | .portFence part port fen => Sys2Proof.Machine.execPortFence part port fen s
  | .ptpSync off => Sys2Proof.Machine.execPtpSync off s
  | .ptpSlaveSelect port => Sys2Proof.Machine.execPtpSlaveSelect port s
  | .throttleRelease draw => Sys2Proof.Machine.execThrottleRelease draw s

end Sys2Proof.Machine
end

