-- ==== Sys2Proof/Machine/Tick.lean ====
section
/-!
DEFINITION. What time alone brings: windows, sweeps, the scrub; and the steps of other agents that are due, in turn (log 10).
-/

namespace Sys2Proof.Machine

/-! ## One cc -/

/-- The last step made progress: no warp executed, or the warp that did is not left waiting. -/
def State.progress (s : State) : Bool :=
  match s.cur with
  | none => true
  | some wid => (s.warp? wid).all (fun w => !w.wait)

/-- Warps that wait try again once some step made progress, and now and then for what time alone brings (R95). -/
def State.wake (s : State) : State := if s.progress || s.plat.cc % 64 == 63 then { s with warps := s.warps.map (fun w => { w with wait := false }) } else s

/-- The stacks whose scrub has a line due at a cc: the lines of a pass are spaced evenly over its hours (R145). -/
def State.scrubDue (s : State) : List Nat :=
  (List.range 48).filter (fun k => s.scrubs k && s.plat.cc % (9388 * max 1 (s.stack k).hours) == 0)

/-- What waited for room in a ready queue is tried again: records of launches, and POSTs of CTX_MAPREC (R192). -/
def retryQueues : SM Unit := do
  modify fun s => s.launches.foldl (fun (s : State) h => s.feed h.uid) s
  retryMapRecs

/-- What falls due at the cc just begun: share windows (R136), failures of arrays (R402), the second-touch and migration windows (R80, R91), the epoch sweep (R95), the
scrub (R144), the start of the drain of a change of rate (R150), and records that wait for a ready queue (R192). -/
def timed : SM Unit := do
  let s ← get
  if s.plat.cc % 1400 = 0 then do
    startWindow
    arrayFaults
  if s.plat.cc % 65536 = 0 then resetWindow
  if s.plat.cc % 16384 = 0 then ((s.cache.lines.map (fun l => l.bank)).eraseDups).forM sweepBank
  if s.plat.cc % 9388 = 0 then s.scrubDue.forM (fun k => do
    scrubOne k (128 * (s.stack k).pos)
    scrubNext k)
  if s.hbm.any (fun e => e.2.phase == .pending) then startDrains
  retryQueues

/-- One cc passes. -/
def State.tick (s : State) : State :=
  let s : State := { s.wake with stall := none }
  let s : State := { s with plat := { s.plat with cc := s.plat.cc + 1 } }
  (timed.run s).2

/-! ## Steps of other agents that are due -/

/-- A step that is due, as a function of the state. -/
abbrev Due := Option (State → Out)

/-- A list from the place whose turn it is: what has to wait does not hold up what comes after it for ever. -/
def State.turn {α : Type} (s : State) (l : List α) : List α :=
  let k := s.plat.cc / 32 % l.length
  l.drop k ++ l.take k

/-- Messages of the wafer-wide cache and the gates. -/
def State.dueCache (s : State) : Due :=
  if s.cache.invs ≠ [] then some execInvalidation
  else if s.cache.acks ≠ [] then some execCollapseAck
  else if s.cache.notices ≠ [] then some execCountNotice
  else match s.cache.dir.find? (fun e => e.st == .migrating) with
    | some e => some (execMigrationEnd e.key)
    | none => none

/-- Walks. -/
def State.dueWalk (s : State) : Due :=
  let open' (w : Walk) : Bool := (s.part w.key.part).qst != .reshaping
  match s.gates.slots.filter open', s.gates.queue.filter open' with
  | w :: _, _ => some (execWalkComplete w.gate)
  | [], w :: _ => some (execWalkStart w.gate)
  | [], [] => none

/-- Exchange stores, groups and barriers. -/
def State.dueGroup (s : State) : Due :=
  if s.pkts.head?.any (fun k => !s.pktWaits k) then some execExchangeStoreArrive
  else if s.barq ≠ [] ∨ s.doneBar.isSome then some execBarrierArrival
  else if s.revoking.isSome then some execSlotRevocation
  else match s.groups.findSome? (fun g => if s.away g then none else g.rels.head?) with
    | some r => some (execGroupRelease r.1)
    | none => (s.cores.find? (fun e => s.canArrive e.1)).map (fun e => execGroupArrival e.1)

/-- Operations that have ended or must stop. -/
def State.dueOpEnd (s : State) : Due :=
  match (s.turn s.ops).find? (fun o => o.status != 0 && !o.held && !(o.posted && o.jrec == 0) && (s.part o.part).qst != .reshaping) with
  | some o => some (execEngineCompletion o.oid)
  | none => (s.ops.find? (fun o => o.stop && o.status == 0)).map (fun o => execEngineStop o.oid)

/-- A copy that its engine works on. -/
def State.dueCopy (s : State) : Due := ((s.turn s.copyq).find? (fun e => (s.copyHead e.1).isSome)).map (fun e => execCopyEngineOp e.1)

/-- An operation that a stack engine works on. -/
def State.dueStackOp (s : State) : Due := ((s.turn s.hbm).find? (fun e => (s.stackHead e.1).isSome)).map (fun e => execStackEngineOp e.1)

/-- Collectives. -/
def State.dueColl (s : State) : Due :=
  match s.colls.find? s.collReady with
  | some x => some (execCollectiveComplete x.cid)
  | none => (s.ops.find? (fun o => o.active && (match o.desc with | .cmc c => s.cmcReady c | _ => false))).map
      (fun o => execCollectiveComplete o.oid)

/-- A line of a warp that is to be evicted now. -/
def State.dueEvict (s : State) (w : Warp) : Due :=
  if s.mustEvict w && s.evictsFirst w && (s.part w.part).qst != .reshaping then some (execWindowLineEvict w.wid) else none

/-- Warps that drain, start or move into the Kennel, and lines beyond a quota. -/
def State.dueWarp (s : State) : Due :=
  (s.turn s.warps).findSome? (fun w =>
    match w.st with
    | .killed => some (execKilledWarpDrained w.wid)
    | .ready => some (execWarpStart w.wid)
    | .parkedHarvest => if s.kennelRoom w then some (execKennelParkDone w.wid) else s.dueEvict w
    | .running =>
      if s.mustEvict w then s.dueEvict w
      else if !w.promo && s.ready? w && decide (s.waited w ≥ 256) then some (execStarvationPromotion w.wid)
      else none
    | _ => s.dueEvict w)

/-- A slot that takes a record. -/
def State.dueSlot (s : State) : Due :=
  ((s.ready.map (fun r => r.core)).eraseDups).findSome? (fun c =>
    ((List.range 12).find? (fun b => (s.nextRecord c b).isSome)).map (fun b => execSlotTakesRecord c b))

/-- Pages that are returned, and grants to harvest contexts. -/
def State.dueHarvest (s : State) : Due :=
  s.cores.findSome? (fun e =>
    if e.2.ret ≠ [] then some (execHarvestPagesReturned e.1)
    else ((List.range 12).find? (fun b => (s.nextGrant e.1 b).isSome)).map (fun b => execHarvestGrant e.1 b))

/-- Launches that complete. -/
def State.dueGrid (s : State) : Due := ((s.turn s.launches).find? s.gridDone).map (fun l => execGridCompletion l.uid)

/-- A step that acts on warps before they go on: its place in the order of R207, the warps it acts on, and the step. -/
structure Urgent where
  rank : Nat
  on   : Warp → Bool
  act  : State → Out

/-- What acts on warps before they go on (R207): a context save at a slice boundary, then a suspension, then a harvest revocation; a kill acts
where it arises. -/
def State.urgent (s : State) : Option Urgent :=
  match (List.range 4).find? (fun p => (s.part p).formed && (s.part p).qst != .reshaping && s.boundaryDue p) with
  | some p => some { rank := 2, on := fun w => w.part == p && (s.part p).gangW.toList.any (fun m => m.getLsbD w.ctx), act := execSliceBoundary p }
  | none =>
    match (List.range 4).findSome? (fun p => if (s.part p).formed then ((List.range 64).find? (fun c => s.ackLate p c)).map (fun c => (p, c)) else none) with
    | some (p, c) => some { rank := 3, on := fun w => w.ofCtx p c, act := execMapAckDeadline p c }
    | none => (s.cores.find? (fun e => s.revocable e.1 && s.ownerWaits e.1)).map (fun e =>
        { rank := 4, on := fun w => w.core == e.1 && w.harvest, act := execHarvestRevocation e.1 })

/-- The place of an input in the order of R207; what the rule does not order comes first. -/
def rank207 : Instr → Nat
  | .warpKill _ _ => 1
  | .contextSave _ _ | .sliceBoundary _ => 2
  | .ctxSuspend _ _ | .mapAckDeadline _ _ => 3
  | .harvestRevocation _ => 4
  | .instructionRetire _ _ => 5
  | _ => 0

/-- Launches to decide and records to accept. -/
def State.dueLaunches (s : State) : Due :=
  (List.range 4).findSome? (fun p =>
    let q := s.part p
    if !q.formed ∨ q.qst = .reshaping then none
    else if s.launches.any (fun l => l.part == p && l.st != .running && s.dueLaunch l) then some (execPendingLaunchStart p)
    else (s.nextQueue p).map (fun _ => execLaunchAccept p))

/-- Fault records, and contexts that resume. -/
def State.dueCtx (s : State) : Due :=
  (List.range 4).findSome? (fun p => (List.range 64).findSome? (fun c =>
    if (s.ctx p c).canPost.isSome then some (execFaultRecordPost p c)
    else if s.resumable p c && s.oldestSaved p c then some (execContextResume p c)
    else none))

/-- Commands that issue, drains that end, and rates that must fall. -/
def State.dueStack (s : State) : Due :=
  match s.mcq.find? (fun c => !c.done && (s.mcSelect c.stack).isSome) with
  | some c => some (execMcCommandIssue c.stack)
  | none =>
    match s.hbm.find? (fun e => e.2.phase == .drain && s.mcQueue e.1 == []) with
    | some e => some (execRateDrainEnd e.1)
    | none => (s.hbm.find? (fun e => s.mustLower e.1)).map (fun e => execRateAutoLower e.1)

/-- Partitions that are drained, a commit, seams, a report, the end of a shutdown. -/
def State.duePart (s : State) : Due :=
  match (List.range 4).find? s.drained with
  | some p => some (execPartitionQuiesced p)
  | none =>
    if s.wafer.newShape.isSome then some execCommitComplete
    else if s.wafer.nbnd ≠ s.wafer.seams then some execSeamRoutesReady
    else if s.plat.code = 1#32 then some execAttestReport
    else if s.plat.shut ∧ s.allQuiesced then some execShutdown
    else none

/-- A doorbell that waits at its channel is taken as one that arrives. -/
def takeWaiting (c : Nat) (s : State) : Out := eventIf s ((s.chan c).bells != []) (takeBell c)

/-- Doorbells. -/
def State.dueBell (s : State) : Due := (s.chans.find? (fun e => e.2.bells != [])).map (fun e => takeWaiting e.1)

/-- The agents, which take turns. -/
def agents : List (State → Due) :=
  [State.dueCache, State.dueWalk, State.dueGroup, State.dueOpEnd, State.dueCopy, State.dueStackOp, State.dueColl, State.dueWarp, State.dueSlot,
   State.dueHarvest, State.dueGrid, State.dueLaunches, State.dueCtx, State.dueStack, State.duePart, State.dueBell]

/-- The step of another agent that is due next: the turn goes round with the time, so that none waits for ever behind another. -/
def State.nextEvent (s : State) : Due :=
  let k := s.plat.cc / 2 % agents.length
  (agents.drop k ++ agents.take k).findSome? (fun a => a s)

end Sys2Proof.Machine
end

