-- ==== Sys2Proof/Machine/Step.lean ====
section
/-!
DEFINITION. One step of the machine: an input from outside, else what acts on warps first (R207), else the instruction of the warp that issues next, else a step of another
agent, else time passes (log 10).
-/

namespace Sys2Proof.Machine

/-- The warp issues: its instruction is fetched and executed, or the trap of the fetch is taken. -/
def runWarp (w : Warp) (s : State) : Host.Outcome State Fault Refusal :=
  let v : Warp := { w with since := s.plat.cc, promo := false }
  let s := { s.setWarp v with cur := some w.wid }
  let (r, s') := (fetchInstr v).run s
  match r, s.stalled s' with
  | _, some _ => .next (s.finish v s')
  | .ok i, none => exec i s'
  | .error t, none => .next (s.finish v ((takeTrap v t).run s').2)

/-- The machine after a step of another agent: one that has to wait for a read is tried again. -/
def again : Host.Outcome State Fault Refusal → Host.Outcome State Fault Refusal
  | .next t => .next { t with stall := none }
  | o => o

/-- A step with no input waiting: in every other cc a warp comes first, in the others another agent (log 10). -/
def runFree (s : State) : Host.Outcome State Fault Refusal :=
  match (if s.plat.cc % 2 = 1 then s.pick else none) with
  | some w => runWarp w s
  | none =>
    match s.nextEvent with
    | some f => again (f { s with cur := none })
    | none =>
      match s.pick with
      | some w => runWarp w s
      | none => .next s

/-- What acts on warps first has its turn (R207), and inputs may come after it; while it has to wait for a read, the warps that it acts on wait with
it and the others go on.  The first input is dropped when it has become pointless. -/
def runUrgent (u : Urgent) (i : List Instr) (s : State) : Host.Outcome State Fault Refusal :=
  match u.act { s with cur := none } with
  | .next t =>
    if t.stall.isSome then
      runFree { t with stall := none, agenda := i ++ t.agenda, warps := t.warps.map (fun w => if u.on w then { w with wait := true } else w) }
    else
      match i with
      | [] => .next t
      | j :: r =>
        match exec j t with
        | .next _ => .next { t with agenda := j :: r ++ t.agenda }
        | _ => .next { t with agenda := r ++ t.agenda }
  | o => o

/-- A step with no input waiting. -/
def runOwn (s : State) : Host.Outcome State Fault Refusal :=
  match s.urgent with
  | some u => runUrgent u [] s
  | none => runFree s

/-- A step with an input: what acts on warps before it (R207) comes first; while the input has to wait for a read, the others go on. -/
def runInput (i : Instr) (s : State) : Host.Outcome State Fault Refusal :=
  match s.urgent.filter (fun u => decide (u.rank < rank207 i)) with
  | some u => runUrgent u [i] s
  | none =>
    match exec i { s with cur := none } with
    | .next t => if t.stall.isSome then runOwn { t with stall := none, agenda := i :: t.agenda } else .next t
    | o => o

/-- One step. -/
def step (s : State) : Host.Outcome State Fault Refusal :=
  match s.plat.on, s.agenda with
  | false, .powerOn :: r => exec .powerOn { s with agenda := r }
  | false, _ => .fault .powerOff
  | true, i :: r => runInput i { s.tick with agenda := r }
  | true, [] => runOwn s.tick

/-- A code line with a word in slot 0 and its parity bits (R228, R229). -/
def codeLineOf (w : BitVec 96) : BitVec 512 :=
  let spar : Bool := oddOnes w
  let lw : Word32 := (if spar then 0x200 else 0) ||| (if spar then 0x4000 else 0)
  lw ++ (0#384 ++ w)

/-- The state in which a warp of supervisor level stands at an instruction placed in slot 0 of its line, so that the next step runs it: the
line is in the instruction cache of its core, the other warps wait, and the cc is one in which a warp comes first (log 11). -/
def State.withFetchWord (s : State) (_nbits w : Nat) : State :=
  let l : ILine := { part := 0, asid := 0, ln := 0, data := codeLineOf (BitVec.ofNat 96 w), poi := false }
  let wp : Warp := { Warp.init with wid := s.fresh, st := .running }
  let s : State := s.updCore 0 (fun c =>
    { c with icache := l :: c.icache.filter (fun x => !(x.part == 0 && x.asid == 0#12 && x.ln == 0)) })
  { s with plat := { s.plat with on := true, cc := s.plat.cc + s.plat.cc % 2 }, agenda := [],
           cur := (s.warps.head?).map (fun x => x.wid),
           warps := wp :: s.warps.map (fun (x : Warp) => { x with wait := true }), fresh := s.fresh + 1 }

end Sys2Proof.Machine
end

