-- ==== Sys2Proof/Safety.lean ====
section
/-!
DEFINITION. The terms that statements use: which warp executes, which window lines it holds, when it goes on after its accesses, the canonical
form of every memory, and what a core reads of a byte that its L1 holds.
-/

namespace Sys2Proof.Machine

/-- The warp executes: it is the warp whose instruction `exec` runs. -/
def State.Executes (s : State) (w : Warp) : Prop := s.curWarp = some w

/-- The register operands lie in the window, the lines whose bytes are needed stand in the register cache, the Kennel holds none of the lines,
and no instruction of the warp waits at rename (R51, R52, R55, R63). -/
def State.Holds (s : State) (w : Warp) (rs : List Span) : Prop :=
  w.spansOK rs = true ∧ (rs = [] ∨ s.renameWaits w = false) ∧ (w.spanLines rs).all (fun i => w.hasLine i) = true ∧
    (w.wholeLines rs ++ w.spanLines rs).all (fun i => !w.inKennel i) = true

/-- In a state that an instruction's accesses left, the warp that made them goes on: they did not kill it (R184), and none waits for a read of
memory (R137). -/
def State.GoesOn (s t : State) (w : Warp) : Prop :=
  s.stalled t = none ∧ (t.warp? w.wid).any (fun x => x.st == .killed && w.st != .killed) = false

/-- Every memory of the machine is in its canonical form. -/
def State.memoriesOK (s : State) : Bool := s.dram.wf && s.host.wf && s.pads.wf && s.plat.boot.wf

/-- An action that may trap answers a value and leaves a state. -/
def Answers {α : Type} (m : M α) (s : State) (a : α) (t : State) : Prop := m.run.run s = (.ok a, t)

/-- An action answers a value and leaves a state. -/
def Gives {α : Type} (m : SM α) (s : State) (a : α) (t : State) : Prop := m.run s = (a, t)

/-- The state that an action leaves. -/
def leaves (m : SM Unit) (s : State) : State := (m.run s).2

/-- The next state in which a warp has taken a trap (R266) in a state that its accesses left; while a read of TVEC must wait it is to try again. -/
def trapIn (s u : State) (w : Warp) (t : Trap) : Out := .next (s.finish w ((takeTrap w t).run u).2)

/-- The next state in which a warp has taken a trap (R266). -/
def trapTo (s : State) (w : Warp) (t : Trap) : Out := trapIn s s w t

/-- A release with what it asks of the stacks at `.sys`: whether they have taken it (R94). -/
def released (w : Warp) (sc : Scope) : SM Bool := do
  relAt w sc
  if sysScope sc then mcFlush w.part w.asid else pure true

/-! ## Results of the scalar group (R250, R251) -/

/-- The width of a scalar instruction of a type: 64 for the 64-bit types, else 32. -/
def aluWidth (ty : Ty) : Nat := if ty.wide then 64 else 32

/-- A value as an integer of a type: signed for the i types. -/
def aluInt (ty : Ty) {n : Nat} (x : BitVec n) : Int := if ty.signed then x.toInt else (x.toNat : Int)

/-- A result of a type as its scalar register holds it. -/
def aluExt (ty : Ty) {n : Nat} (v : BitVec n) : Word := if ty.signed then v.signExtend 64 else v.zeroExtend 64

/-- The next state of a scalar instruction with flags: D holds the result, Z and N follow from it, C and V are as given, and the warp goes on at
the next slot; nothing else changes. -/
def scalarTo (s : State) (w : Warp) (ty : Ty) (d : SReg) {n : Nat} (v : BitVec n) (c o : Bool) : Out :=
  .next (s.setWarp (({ w with z := v == 0#n, n := v.msb, c := c, v := o } : Warp).setS d (aluExt ty v)).retire)

/-- The next state of an instruction that changes its own warp alone. -/
def warpTo (s : State) (w : Warp) : Out := .next (s.setWarp w.retire)

/-- The next state of an instruction that changes its own warp alone and moves the region entry to where the warp goes on (R399). -/
def regionTo (s : State) (w : Warp) : Out := .next (s.setWarp (w.retireRegion (nextSlot w.pc)))

/-- The next state of a warp that waits: it stands at its instruction, with how far that has come. -/
def waitTo (s : State) (w : Warp) (mid : Nat) : Out := .next (s.setWarp { w with rob := [], wait := true, mid := mid, hold := s.holdOf w })

/-- A BAR retires with a status word of R333 in D, and the flags that follow from it. -/
def barTo (s : State) (w : Warp) (d : SReg) (sc : Scope) (phase : Nat) (npart arrv xcore xwarp rel : Bool) : Out :=
  let abn := xcore || xwarp
  let x : Word := BitVec.ofNat 64 (lvlCode sc * 2 ^ 32 + phase % 2 ^ 16 * 2 ^ 16 + npart.toNat * 32 + arrv.toNat * 16 + xcore.toNat * 8 +
    xwarp.toNat * 4 + abn.toNat * 2 + rel.toNat)
  regionTo s { w.setS d x with z := rel && !abn, n := npart, c := false, v := abn }

/-! ## Results of the vector groups (R282, R283) -/

/-- The next state of a vector instruction that counts nothing: the active lanes of D hold the results, and the warp goes on at the next slot. -/
def vecTo (s : State) (w : Warp) (p : Pred) (ty : Ty) (d : VReg) (f : Nat → Word) : Out :=
  .next (s.setWarp (w.putLanes ty d (w.active p) f).retire)

/-- The next state of a floating-point instruction: the active lanes of D hold the results, which are counted under tensor id 0. -/
def floatTo (s : State) (w : Warp) (p : Pred) (ty : Ty) (d : VReg) (g : Nat → FRes) : Out :=
  let n (f : FRes → Bool) : Nat := ((lanesOf (w.active p)).filter (fun l => f (g l))).length
  .next ((s.addCnt w { tid := 0, sat := n (fun r => r.sat), fl := n (fun r => r.fl), nan := n (fun r => r.nan) }).setWarp
    (w.putLanes ty d (w.active p) (fun l => BitVec.ofNat 64 (g l).bits)).retire)

/-- A lane's value at the width of a type. -/
def Warp.laneN (w : Warp) (ty : Ty) (r : VReg) (l : Nat) : BitVec (aluWidth ty) := (w.lane ty r l).setWidth (aluWidth ty)
/-- A lane of the B operand at the width of a type. -/
def Warp.blaneN (w : Warp) (ty : Ty) (b : VSrc) (l : Nat) : BitVec (aluWidth ty) := (w.blane ty b l).setWidth (aluWidth ty)

/-- What REDS and SCAN give over some lane values for an integer or bit type: the operation's fold from its identity (R305). -/
def foldOp (op : RedOp) (ty : Ty) {n : Nat} (xs : List (BitVec n)) : BitVec n :=
  match op with
  | .add => xs.foldl (fun a x => a + x) 0
  | .and => xs.foldl (fun a x => a &&& x) (BitVec.allOnes n)
  | .or => xs.foldl (fun a x => a ||| x) 0
  | .xor => xs.foldl (fun a x => a ^^^ x) 0
  | .min => xs.foldl (fun a x => if aluInt ty x < aluInt ty a then x else a) (BitVec.ofInt n (if ty.signed then 2 ^ (n - 1) - 1 else -1))
  | .max => xs.foldl (fun a x => if aluInt ty a < aluInt ty x then x else a) (BitVec.ofInt n (if ty.signed then -2 ^ (n - 1) else 0))

/-- The type is one of the integer or bit types that a reduction takes with an operation (R305). -/
def exactRed (op : RedOp) (ty : Ty) : Bool := op.tyOK ty && !ty.isFloat

/-- The formats of R208. -/
def formats : List Fmt := [fmt64, fmt32, fmt16, fmtB16, fmtE4, fmtE5]

/-! ## What a core reads of its L1 -/

/-- Byte `o` of a line as the core's L1 holds it, when it holds it valid. -/
def State.l1Byte (s : State) (core : Nat) (k : LineKey) (o : Nat) : Option Byte :=
  match s.l1Line core k with
  | some l => if l.valid.getLsbD o then some (LineData.byte l.data o) else none
  | none => none

/-- The accesses are aligned, canonical, outside every lock of another agent, and their partition is not reshaping (R314, R433). -/
def State.accessible (s : State) (w : Warp) (write : Bool) (xs : List LA) : Prop :=
  (s.part w.part).qst ≠ .reshaping ∧
    ∀ x ∈ xs, x.va.toNat % x.n = 0 ∧ x.va.toNat < 2 ^ 56 ∧ s.locked w.agent false (x.va.toNat / 128) write = false

/-- Loads that the core's L1 serves: every line is held with permission, the bytes valid and not poisoned (R25, R92). -/
def State.loadsHeld (s : State) (w : Warp) (xs : List LA) : Prop :=
  s.accessible w false xs ∧
    ∀ x ∈ xs, ∃ l, s.l1Line w.core (w.laKey x) = some l ∧ l.perm.check .load (!w.sup) = 0 ∧ aperOf l.pa = none ∧
      spanMask (x.va.toNat % 128) x.n &&& ~~~l.valid = 0 ∧ l.poi = false

/-- Stores that the core's L1 takes: every line is held with permission to write (R25, R92, R315). -/
def State.storesHeld (s : State) (w : Warp) (xs : List LA) : Prop :=
  s.accessible w true xs ∧ ∀ x ∈ xs, ∃ l, s.l1Line w.core (w.laKey x) = some l ∧ l.perm.check .store (!w.sup) = 0 ∧ aperOf l.pa = none

/-- What an access reads of the L1, little-endian. -/
def State.loaded (s : State) (w : Warp) (x : LA) : Word :=
  leWord ((List.range x.n).map (fun i => (s.l1Byte w.core (w.laKey x) (x.va.toNat % 128 + i)).getD 0))

/-- The byte that stores put at an offset of a line: the last store that covers it, a higher lane over a lower (R163). -/
def storedByte (w : Warp) (xs : List (LA × List Byte)) (k : LineKey) (o : Nat) : Option Byte :=
  ((xs.filter (fun x => w.laKey x.1 == k && decide (x.1.va.toNat % 128 ≤ o) && decide (o < x.1.va.toNat % 128 + x.1.n))).getLast?).bind
    (fun x => x.2[o - x.1.va.toNat % 128]?)

/-- The byte that stores put at a scratchpad offset. -/
def storedPad (xs : List (LA × List Byte)) (o : Nat) : Option Byte :=
  ((xs.filter (fun x => decide (x.1.va.toNat ≤ o) && decide (o < x.1.va.toNat + x.1.n))).getLast?).bind (fun x => x.2[o - x.1.va.toNat]?)

/-- Stores of the warp leave the machine as it was but for the bytes stored in its core's L1. -/
def State.StoredInL1 (s : State) (w : Warp) (xs : List (LA × List Byte)) (t : State) : Prop :=
  t = { s with cores := t.cores } ∧
    ∀ core k o, o < 128 → t.l1Byte core k o = match (if core = w.core then storedByte w xs k o else none) with
      | some b => some b
      | none => s.l1Byte core k o

/-- Scratchpad accesses that go on at once: aligned, on granted pages, unlocked, no page still being returned (R114, R115, R314). -/
def State.padsHeld (s : State) (w : Warp) (write : Bool) (xs : List LA) : Prop :=
  ∀ x ∈ xs, x.va.toNat % x.n = 0 ∧ s.padOK w.core w.part w.ctx x.va.toNat x.n = true ∧
    s.locked w.agent true (x.va.toNat / 128) write = false ∧ s.padWait w.core x.va.toNat x.n = false

/-- What an access reads of the scratchpad of the warp's core, little-endian. -/
def State.padLoaded (s : State) (w : Warp) (x : LA) : Word :=
  leWord ((List.range x.n).map (fun i => s.pads.get (s.padPhys w.core (x.va.toNat + i))))

/-- The value at an access after the lanes of an atomic below it: each lane that names the same address in turn (R323). -/
def atomSeq (f : AtomStep) (old : Word) (xs : List LA) (va : Word) : Word :=
  (xs.filter (fun x => x.va == va)).foldl (fun v x => match f x v with
    | some u => BitVec.ofNat 64 (u.toNat % 2 ^ (8 * x.n))
    | none => v) old

/-- The trap of lanes that fail a check: the mask of the failing lanes and the address of the lowest (R314). -/
def laneTrap (cause wst : Nat) (bad : List LA) : Trap :=
  { cause := cause, wst := wst, va := (bad.head?.map (fun x => x.va)).getD 0, lanes := laneSet bad }

/-- A line of a core's L1 becomes the one used last. -/
def State.touchL1 (s : State) (core : Nat) (l : L1Line) : State :=
  s.updCore core (fun c => { c with l1 := l :: c.l1.filter (fun x => !(x.key == l.key)) })

/-- The L1 of a core holds bytes of a line that an access may read: they are valid and not poisoned, and the stored permissions grant it
(R23, R25, R92). -/
def State.l1Grants (s : State) (core : Nat) (k : LineKey) (need : LineMask) (a : Acc) (user : Bool) (l : L1Line) : Prop :=
  s.l1Line core k = some l ∧ l.perm.check a user = 0 ∧ aperOf l.pa = none ∧ need &&& ~~~l.valid = 0 ∧ l.poi = false

/-- No launch, engine operation or reshape stands in the way of an access of the warp to a global address: it is aligned and canonical,
its line is not locked, and its partition is not reshaping (R314, R433). -/
def State.reachable (s : State) (w : Warp) (va : Word) (n : Nat) (write : Bool) : Prop :=
  va.toNat % n = 0 ∧ va.extractLsb' 56 8 = 0#8 ∧ s.locked w.agent false (va.toNat / 128) write = false ∧
    (s.part w.part).qst ≠ .reshaping

/-- The module has power. -/
def State.powered (s : State) : Prop := s.plat.on = true

/-- Every byte of every memory reads after as before: device memory, host memory, the scratchpads, every L1 and the wafer-wide cache. -/
def State.SameBytes (s t : State) : Prop :=
  (∀ a, t.dram.get a = s.dram.get a) ∧ (∀ a, t.host.get a = s.host.get a) ∧ (∀ a, t.pads.get a = s.pads.get a) ∧
    (∀ core k o, t.l1Byte core k o = s.l1Byte core k o) ∧ t.cache = s.cache

/-- The code line of a PC as the warp's core holds it in its instruction cache, when it passes its parity check and is not poisoned
(R229, R230). -/
def State.codeLine (s : State) (w : Warp) (pc : Word) : Option (BitVec 512) :=
  match (s.core w.core).icache.find? (fun l => l.part == w.part && l.asid == w.asid && l.ln == (pcLine pc).toNat) with
  | some l => if parityOK l.data && !l.poi then some l.data else none
  | none => none

/-- A target that its core holds: well formed, and its slot carries the TGT bit (R234). -/
def State.isTarget (s : State) (w : Warp) (pc : Word) : Prop :=
  pcOK pc = true ∧ ∃ d, s.codeLine w pc = some d ∧ (lineWord d).getLsbD (pcSlot pc) = true

/-- A target that R234 refuses, decided without a fetch: ill formed, or held without a TGT bit. -/
def State.notTarget (s : State) (w : Warp) (pc : Word) : Prop :=
  pcOK pc = false ∨ ∃ d, s.codeLine w pc = some d ∧ (lineWord d).getLsbD (pcSlot pc) = false

/-! ## The matrix group (R219-R221, R336, R337) -/

/-- Element `e` of `b` bytes of a register operand, packed from a line of the window on (R336). -/
def Warp.elem (w : Warp) (first b e : Nat) : Nat := leNat (w.bytes (w.wbo + first) (b * e) b)

/-- The 16 by 16 elements from a line of the window on hold new values where the lane that owns them is active; nothing else of the warp changes
(R337). -/
def Warp.WroteElems (w v : Warp) (act : Word32) (first b : Nat) (f : Nat → Nat → Nat) : Prop :=
  v = { w with lines := v.lines } ∧
    (∀ r < 16, ∀ c < 16, v.elem first b (16 * r + c) = if act.getLsbD (2 * r + c / 8) then f r c else w.elem first b (16 * r + c)) ∧
    ∀ j, (j < w.wbo + first ∨ w.wbo + first + 2 * b ≤ j) → v.line j = w.line j

/-- Element `i` of row `r` of an operand with `n` elements to a row, in a floating-point or N format of R219 (R208, R216, R336). -/
def Warp.matF (w : Warp) (first code n r i : Nat) : FVal :=
  if 2 ≤ code ∧ code ≤ 4 then
    let b := nBytes code
    nElem code (leNat (w.bytes (w.wbo + first) (b * (n / 16 * r + i / 16)) b)) (i % 16)
  else (codeFmt code).decode (w.elem first (if code ≤ 1 then 2 else 1) (n * r + i))

/-- Element `i` of row `r` of an i8 operand. -/
def Warp.matI (w : Warp) (first n r i : Nat) : Int := (BitVec.ofNat 8 (w.elem first 1 (n * r + i))).toInt

/-- The exact sum of the products of `n` places, at least one (R221). -/
def exactDot (rm : RM) (n : Nat) (f g : Nat → FVal) : FVal :=
  (List.range (n - 1)).foldl (fun t i => FVal.add rm t ((f (i + 1)).mul (g (i + 1)))) ((f 0).mul (g 0))

/-- An FP32 accumulator element after the groups of `n` products, with one rounding a group (R221). -/
def accF (rm : RM) (sat : Bool) (adj : Int) (groups n : Nat) (f g : Nat → FVal) (acc : Nat) : FRes :=
  (List.range groups).foldl (fun a q =>
    let sum := exactDot rm n (fun i => f (n * q + i)) (fun i => g (n * q + i))
    let y := fmt32.round rm sat (FVal.add rm (fmt32.decode a.bits) (sum.scale adj))
    { y with sat := a.sat || y.sat }) { bits := acc }

/-- An i32 accumulator element after the groups of `n` products: sums wrap, or clamp under SAT (R220). -/
def accI (sat : Bool) (groups n : Nat) (f g : Nat → Int) (acc : Nat) : FRes :=
  (List.range groups).foldl (fun a q =>
    let v := (BitVec.ofNat 32 a.bits).toInt + ((List.range n).map (fun i => f (n * q + i) * g (n * q + i))).sum
    let u := if sat then max (-2 ^ 31) (min (2 ^ 31 - 1) v) else v
    { bits := (u % 2 ^ 32).toNat, sat := a.sat || decide (u ≠ v) && sat }) { bits := acc }

/-- The results of the elements whose lane is active. -/
def activeElems {α : Type} (act : Word32) (f : Nat → Nat → α) : List α :=
  ((List.range 256).filter (fun e => act.getLsbD (e / 8))).map (fun e => f (e / 16) (e % 16))

/-- What results add to the counters of a tensor id (R226). -/
def cntOf (tid : Nat) (rs : List FRes) : Cnt :=
  { tid := tid, sat := (rs.filter (fun r => r.sat)).length, fl := (rs.filter (fun r => r.fl)).length,
    nan := (rs.filter (fun r => r.nan)).length }

/-- The next state of an instruction that writes its warp and counts. -/
def countTo (s : State) (w v : Warp) (c : Cnt) : Out := .next ((s.addCnt w c).setWarp v.retire)

/-- The 2:4 form expanded: position `i` of a row from the row's stored elements and its metadata word (R341). -/
def expandAt {α : Type} (zero : α) (stored : Nat → α) (word i : Nat) : α :=
  let nib := word / 2 ^ (4 * (i / 4)) % 16
  if i % 4 = nib / 4 then stored (2 * (i / 4) + 1) else if i % 4 = nib % 4 then stored (2 * (i / 4)) else zero

/-- An element has the larger magnitude (R342): NaN above every number. -/
def largerMag (x y : FVal) : Bool :=
  let mag (v : FVal) : FVal := match v with
    | .fin _ m e => .fin false m e
    | .inf _ => .inf false
    | .nan => .nan
  y != .nan && (x == .nan || (mag y).lt (mag x))

/-! ## Engine operations -/

/-- The machine with a new operation, under the next identity. -/
def State.withOp (s : State) (o : EngOp) : State := { s with ops := s.ops ++ [{ o with oid := s.fresh }], fresh := s.fresh + 1 }

/-- The warp with the operation that the machine starts next in its pending set (R355). -/
def Warp.issued (w : Warp) (s : State) : Warp := { w with pend := w.pend ++ [s.fresh] }

/-- An engine instruction has not been checked before (R352): its warp keeps no operation of it. -/
def Warp.unissued (w : Warp) : Prop := w.hold.bind (fun h => h.op) = none

/-- The machine in which a warp's engine instruction keeps its operation as it was checked (R351). -/
def State.holding (s : State) (w : Warp) (o : EngOp) : State :=
  s.updWarps (fun x => x.wid == w.wid) (fun x => { x with hold := some { op := some o, turn := 0, head := 0 } })

/-- The next state in which a copy of a warp is started: it is queued behind those of its core, the newest of the warp's pending set (R352, R355). -/
def copyTo (t : State) (w : Warp) (o : EngOp) : Out :=
  .next ({ t.withOp o with copyq := t.copyq ++ [(w.core, t.fresh)] }.setWarp ((w.issued t).retireRegion (nextSlot w.pc)))

/-- A descriptor that the core's L1 holds: its address is aligned and canonical, and its bytes are valid and granted (R352). -/
def State.descHeld (s : State) (w : Warp) (a : Word) (n : Nat) (bs : List Byte) : Prop :=
  a.toNat % 64 = 0 ∧ a.toNat + n ≤ 2 ^ 56 ∧ (s.part w.part).qst ≠ .reshaping ∧ bs.length = n ∧
    ∀ i < n, ∃ l, s.l1Grants w.core (w.key (a.toNat + i)) (BitVec.allOnes 128) .load (!w.sup) l ∧
      bs[i]? = some (LineData.byte l.data ((a.toNat + i) % 128))

/-- A release of the warp's core has nothing to write back and nothing to wait for (R94). -/
def State.quiet (s : State) (w : Warp) : Prop :=
  (∀ l ∈ (s.core w.core).l1, l.key.part = w.part → l.key.asid = w.asid → l.dirty = 0) ∧
    (∀ h ∈ s.cache.held, ¬(h.core = w.core ∧ h.key.part = w.part ∧ h.key.asid = w.asid)) ∧
    (∀ i ∈ s.cache.invs, ¬(i.key.part = w.part ∧ i.key.asid = w.asid)) ∧ ∀ k ∈ s.cache.acks, ¬(k.part = w.part ∧ k.asid = w.asid)

/-- The gate of a page holds a leaf that grants an access (R21, R23). -/
def State.gateGrants (s : State) (w : Warp) (va : Nat) (a : Acc) (f : Leaf) : Prop :=
  onMapPage va = false ∧ va < 2 ^ 56 ∧ f.perm.check a (!w.sup) = 0 ∧
    ∃ e, s.gates.gtc.find? (fun e => e.holds (bankRet (s.anchor (w.agent.key va))) w.part w.asid va) = some e ∧
      leafPa (s.part w.part) e.pte e.lvl va = .ok f

/-- A range passes its probe in a state (R352): the gates grant its pages, or its scratchpad offsets are granted and none is being returned. -/
def State.rngFree (s : State) (w : Warp) (r : Rng) : Prop :=
  if r.pad then s.padOK w.core w.part w.ctx r.a.toNat r.n = true ∧ s.padWait w.core r.a.toNat r.n = false
  else ∀ q ∈ rngPages [r], ∃ f, s.gateGrants w q.1 q.2 f

/-- The line that the home of a key holds. -/
def State.homeLine (s : State) (k : LineKey) : Option BLine := (s.dirEnt k).bind (fun e => s.bankLine e.home k)

/-- The warp's core and the anchor of a line reach one another (R103, R105). -/
def State.reachesAnchor (s : State) (w : Warp) (k : LineKey) : Prop :=
  s.linked (coreQuarter w.core) (retQuarter (bankRet (s.anchor k))) = true

/-- A read at the home of a line is served there: anchor and home are reached, the home stands, of the ASID's current epoch, with permission, and
asks for no replica (R77). -/
def State.homeServes (s : State) (w : Warp) (k : LineKey) : Prop :=
  s.reachesAnchor w k ∧ ∃ e l, s.linked (coreQuarter w.core) (retQuarter (bankRet e.home)) = true ∧ s.dirEnt k = some e ∧ e.st ≠ .migrating ∧ s.bankLine e.home k = some l ∧ l.epoch = s.epochOf k ∧ l.perm.check .load (!w.sup) = 0 ∧
    s.clsRepl k.part e.cls = false

/-- A release and an acquire of the warp's core that find nothing of its ASID in the wafer-wide cache and no command at a stack (R94). -/
def State.idle (s : State) (w : Warp) : Prop :=
  s.quiet w ∧ s.mcq = [] ∧ (∀ e ∈ s.cache.dir, ¬(e.key.part = w.part ∧ e.key.asid = w.asid)) ∧
    ∀ l ∈ s.cache.lines, ¬(l.key.part = w.part ∧ l.key.asid = w.asid)

/-- An atomic at the home of a line is performed there: its anchor is reached, the home stands, of the ASID's current epoch, with permission and
not poisoned, and its class writes nothing through (R77, R93). -/
def State.homeTakes (s : State) (w : Warp) (k : LineKey) (l : BLine) : Prop :=
  s.reachesAnchor w k ∧ ∃ e, s.dirEnt k = some e ∧ e.st ≠ .migrating ∧ s.bankLine e.home k = some l ∧ l.epoch = s.epochOf k ∧ l.perm.check .atomic (!w.sup) = 0 ∧
    l.poi = false ∧ s.clsPol k.part e.cls ≠ 1 ∧ s.clsPol k.part e.cls ≠ 2

/-- A ring header in the scratchpad of the warp's core that its instructions reach at once (R357). -/
def State.padHeader (s : State) (w : Warp) (h : Word) : Prop :=
  h.msb = true ∧ h.toNat % 64 = 0 ∧ h.toNat % 2 ^ 63 < 2 ^ 20 ∧ (s.part w.part).qst ≠ .reshaping ∧
    s.padOK w.core w.part w.ctx (h.toNat % 2 ^ 20) 64 = true ∧ s.padWait w.core (h.toNat % 2 ^ 20) 64 = false

/-- The fields of a ring header in a scratchpad (R357). -/
def State.padRing (s : State) (core : Nat) (a : Word) : Ring := ringOf (s.padRead core (a.toNat % 2 ^ 20) 64)

/-! ## Steps of other agents -/

/-- The next state of a step of another agent that leaves a state: no warp executes. -/
def nowTo (t : State) : Out := .next { t with cur := none }

/-- The next state of a step of another agent that does something: while a read of it must wait, nothing but that the read stands in its queue
(R137). -/
def after (m : SM Unit) (s : State) : Out := nowTo (s.tried (leaves m s))

/-- An action that may trap stops with a trap and leaves a state. -/
def Stops {α : Type} (m : M α) (s : State) (e : Trap) (t : State) : Prop := m.run.run s = (.error e, t)

end Sys2Proof.Machine
end

