-- ==== Sys2Proof/Certificates/Slice0/Obligations.lean ====
section
/-!
DEFINITION. The statements for the provers.  Each docstring names the rules of spec/ that it formalises; what a statement rests on beyond
the spec's words names its log entry.
-/

open Sys2Proof Sys2Proof.Machine

/-! ## Encoding, fetch and the step -/

/-- R236-R244: decoding the word of a well-formed encoded instruction gives the instruction back, and every well-formed instruction of the
encoded groups has a word. -/
def Obligations.EncodedDecodesBack : Prop :=
  (∀ (i : Instr) (w : BitVec 96), i.wf = true → encode i = some w → decode w = .ok i) ∧
    ∀ i : Instr, i.encoded = true → (encode i).isSome = true

/-- A few words written out from the tables of R236-R244 (the TRAP and the MMA are the spec's own, R270 and R346) decode to the instructions they stand
for. -/
def Obligations.EncodingWords : Prop :=
  ∀ q ∈ ([(0x000000000000000000400001#96, .nop), (0x000000000000200403403002#96, .sadd .i32 3 1 (.reg 2)),
          (0xFFFFFFFF000000FC00604002#96, .sadd .i64 0 63 (.imm 0xFFFFFFFF)), (0xFFFFFFFB0000000000C00B21#96, .bcc 11 0xFFFFFFFB),
          (0x000000420000000000E00030#96, .trap 0x42), (0x000004000000001805E0F032#96, .sysrd 5 6 0x0400),
          (0x00000000421064110203C063#96, .fma ⟨3, false⟩ .f64 2 4 6 8),
          (0x025FFFFC00003409019000A0#96, .ld ⟨0, true⟩ .b32 1 ⟨.v 2, 3, 0xFFFFC⟩ .pin .sys),
          (0x0040003F00000000018002B2#96, .barWait 1 .wafer 63), (0x000000004260380B01A400C0#96, .mma ⟨4, false⟩ 0 1 2 3 9),
          (0x0000000000000024008002D0#96, .xcp .d3 9)] : List (BitVec 96 × Instr)), decode q.1 = .ok q.2

/-- R228, R230, R243: when no input waits, nothing acts on warps first (R207), and the warp that comes next stands at a slot of a line that its core
holds and that passes its checks, and the slot's word decodes, the step is the instruction's meaning in the state in which time has passed and the
warp executes.
Which warp comes next, and that each step is one cc, is the model's choice (logs 10, 49). -/
def Obligations.StepRunsDecoded : Prop :=
  ∀ (s : State) (w : Warp) (d : BitVec 512) (i : Instr),
    let u := s.tick
    let v : Warp := { w with since := u.plat.cc, promo := false }
    s.plat.on = true → s.agenda = [] → u.urgent = none → (u.plat.cc % 2 = 1 ∨ u.nextEvent = none) → u.pick = some w →
    (u.setWarp v).codeLine w w.pc = some d → (lineWord d).extractLsb' 15 17 = 0#17 →
    decode (slotWord d (pcSlot w.pc)) = .ok i → (w.g16 && isMatrix i) = false →
    step s = exec i { u.setWarp v with cur := some w.wid }

/-- Every encoded instruction completes, traps or waits: where a warp executes it answers a next state, and where none does it is no step. -/
def Obligations.EncodedNeverStops : Prop :=
  ∀ (i : Instr) (s : State), i.encoded = true →
    (∀ w, s.Executes w → ∃ t, exec i s = .next t) ∧ (s.curWarp = none → exec i s = .fault .noWarp)

/-- What reset leaves in the registers to which the spec gives a value: the power-on values of R451, R107 and R450 for the stage, the cycle count
and the time, and the reset columns of R80, R88, R134, R145, R387, R407, R408 and R409; no warp runs. -/
def Obligations.ResetValues : Prop :=
  let s := State.reset
  s.plat.stage = 0x01 ∧ s.plat.cc = 0 ∧ s.timeNs = 0 ∧ s.warps = [] ∧ s.wafer.shape = 0xE4 ∧ s.wafer.nbnd = 0 ∧
    (s.wafer.qown.toList = [0xFFFF, 0xFFFF0000, 0xFFFF00000000, 0xFFFF000000000000]) ∧
    ∀ p < 4, (s.part p).mig = 0x80000020 ∧ (∀ k : Fin 16, (s.part p).rct[k.val] = 0x0001FFFF) ∧ (s.part p).mincap = 230 ∧
      (∀ k : Fin 64, (s.part p).share[k.val] = 0) ∧ (s.part p).slc = 100 ∧ (s.part p).epoch = 0 ∧ (s.part p).qst = .running ∧
      (s.part p).req = false

/-- The reset memories list nothing, so they are in canonical form.
What an unlisted byte reads as is the model's choice (log 1). -/
def Obligations.ResetMemoriesCanonical : Prop :=
State.reset.memoriesOK = true

/-- Every step keeps every memory in its canonical form (rising addresses, no entry equal to the zero that an unlisted byte reads as).
What an unlisted byte reads as is the model's choice (log 1). -/
def Obligations.StepKeepsMemoriesCanonical : Prop :=
  ∀ s t : State, s.memoriesOK = true → step s = .next t → t.memoriesOK = true

/-! ## Scalar instructions -/

/-- R250-R252: SADD, SSUB, SCMP, SMUL, SMULH, SDIV, SREM, SMIN and SMAX complete with the result, C and V of the table at the width of their
type; nothing else changes.
R250-R252: the logical, shift, rotate and counting instructions complete with the result and C of the table at the width of their type, V 0;
nothing else changes. -/
def Obligations.ScalarResults : Prop :=
  (∀ (s : State) (w : Warp) (ty : Ty) (d a : SReg) (b : SSrc), s.Executes w →
     let n := aluWidth ty
     let x : BitVec n := (w.s a).setWidth n
     let y : BitVec n := (w.ssrc b ty.signed).setWidth n
     let add : Int := x.toInt + y.toInt
     let sub : Int := x.toInt - y.toInt
     let mul : Int := aluInt ty x * aluInt ty y
     let ovf : Bool := ty.signed && decide (x.toInt = -2 ^ (n - 1)) && decide (y.toInt = -1)
     let quo : BitVec n := if y.toNat = 0 then BitVec.allOnes n else BitVec.ofInt n ((aluInt ty x).tdiv (aluInt ty y))
     exec (.sadd ty d a b) s =
       scalarTo s w ty d (BitVec.ofNat n (x.toNat + y.toNat)) (decide (2 ^ n ≤ x.toNat + y.toNat))
         (decide (add < -2 ^ (n - 1)) || decide (2 ^ (n - 1) ≤ add)) ∧
     exec (.ssub ty d a b) s =
       scalarTo s w ty d (BitVec.ofInt n sub) (decide (y.toNat ≤ x.toNat)) (decide (sub < -2 ^ (n - 1)) || decide (2 ^ (n - 1) ≤ sub)) ∧
     exec (.scmp ty a b) s =
       scalarTo s w ty 0 (BitVec.ofInt n sub) (decide (y.toNat ≤ x.toNat)) (decide (sub < -2 ^ (n - 1)) || decide (2 ^ (n - 1) ≤ sub)) ∧
     exec (.smul ty d a b) s =
       scalarTo s w ty d (BitVec.ofInt n mul) false
         (if ty.signed then decide (mul < -2 ^ (n - 1)) || decide (2 ^ (n - 1) ≤ mul) else decide ((2 : Int) ^ n ≤ mul)) ∧
     exec (.smulh ty d a b) s = scalarTo s w ty d (BitVec.ofInt n (mul / 2 ^ n)) false false ∧
     exec (.sdiv ty d a b) s = scalarTo s w ty d quo (decide (y.toNat = 0)) ovf ∧
     exec (.srem ty d a b) s =
       scalarTo s w ty d (if y.toNat = 0 then x else BitVec.ofInt n ((aluInt ty x).tmod (aluInt ty y))) (decide (y.toNat = 0)) ovf ∧
     exec (.smin ty d a b) s = scalarTo s w ty d (if aluInt ty x ≤ aluInt ty y then x else y) false false ∧
     exec (.smax ty d a b) s = scalarTo s w ty d (if aluInt ty x ≤ aluInt ty y then y else x) false false) ∧
  (∀ (s : State) (w : Warp) (ty : Ty) (d a : SReg) (b : SSrc), s.Executes w →
     let n := aluWidth ty
     let x : BitVec n := (w.s a).setWidth n
     let y : BitVec n := (w.ssrc b ty.signed).setWidth n
     let k := y.toNat % n
     let zeros (bit : Nat → Bool) : Nat := ((List.range n).takeWhile (fun j => !bit j)).length
     exec (.sand ty d a b) s = scalarTo s w ty d (x &&& y) false false ∧
     exec (.sor ty d a b) s = scalarTo s w ty d (x ||| y) false false ∧
     exec (.sxor ty d a b) s = scalarTo s w ty d (x ^^^ y) false false ∧
     exec (.sandn ty d a b) s = scalarTo s w ty d (x &&& ~~~y) false false ∧
     exec (.sshl ty d a b) s = scalarTo s w ty d (BitVec.ofNat n (x.toNat * 2 ^ k)) (decide (k ≠ 0) && x.getLsbD (n - k)) false ∧
     exec (.sshr ty d a b) s = scalarTo s w ty d (BitVec.ofNat n (x.toNat / 2 ^ k)) (decide (k ≠ 0) && x.getLsbD (k - 1)) false ∧
     exec (.ssra ty d a b) s = scalarTo s w ty d (BitVec.ofInt n (x.toInt / 2 ^ k)) (decide (k ≠ 0) && x.getLsbD (k - 1)) false ∧
     exec (.srot ty d a b) s =
       scalarTo s w ty d (BitVec.ofNat n (x.toNat * 2 ^ k + x.toNat / 2 ^ (n - k))) false false ∧
     exec (.sclz ty d a) s = scalarTo s w ty d (BitVec.ofNat n (zeros (fun j => x.getLsbD (n - 1 - j)))) false false ∧
     exec (.sctz ty d a) s = scalarTo s w ty d (BitVec.ofNat n (zeros (fun j => x.getLsbD j))) false false ∧
     exec (.spop ty d a) s = scalarTo s w ty d (BitVec.ofNat n ((List.range n).filter (fun j => x.getLsbD j)).length) false false ∧
     exec (.sbrev ty d a) s = scalarTo s w ty d x.reverse false false)

/-- R252, R253, R255: NOP, the moves, SLEA and SSEL complete and keep the flags; SEXT, SBFX, SBFI and SRD complete with flags at 64 bits, SRD
with V set when the sequence number differs.  The values of SBFI are given bit by bit. -/
def Obligations.ScalarMovesAndFields : Prop :=
  ∀ (s : State) (w : Warp) (ty : Ty) (d a b : SReg) (src : SSrc) (imm : Word32) (pos lenm1 : BitVec 6) (sh : BitVec 3) (k : BitVec 4)
    (q : QReg), s.Executes w →
    let ext (bits : Nat) (x : Nat) : Word := if ty.signed then (BitVec.ofNat bits x).signExtend 64 else (BitVec.ofNat bits x).setWidth 64
    let f := (w.s a).toNat / 2 ^ pos.toNat
    exec .nop s = warpTo s w ∧
    exec (.smov d src) s = warpTo s (w.setS d (w.ssrc src false)) ∧
    exec (.smovh d imm) s = warpTo s (w.setS d (BitVec.ofNat 64 (imm.toNat * 2 ^ 32 + (w.s d).toNat % 2 ^ 32))) ∧
    exec (.slea d a b sh) s = warpTo s (w.setS d (BitVec.ofNat 64 ((w.s a).toNat + (w.s b).toNat * 2 ^ sh.toNat))) ∧
    exec (.ssel d a b k) s = warpTo s (w.setS d (if w.cond k then w.s a else w.s b)) ∧
    exec (.sext ty d a) s = scalarTo s w .n64 d (ext ty.bits (w.s a).toNat) false false ∧
    exec (.sbfx ty d a pos lenm1) s = scalarTo s w .n64 d (ext (lenm1.toNat + 1) f) false false ∧
    (∀ r : Word,
      (∀ j < 64, r.getLsbD j =
        if pos.toNat ≤ j ∧ j ≤ pos.toNat + lenm1.toNat then (w.s a).getLsbD (j - pos.toNat) else (w.s d).getLsbD j) →
      exec (.sbfi d a pos lenm1) s = scalarTo s w .n64 d r false false) ∧
    exec (.srd d q b) s =
      scalarTo s w .n64 d (w.qr[q.toNat]'q.isLt).1 false (decide ((w.qr[q.toNat]'q.isLt).2.toNat ≠ (w.s b).toNat % 2 ^ 16))

/-- R254: SFLG.get writes Z * 8 + N * 4 + C * 2 + V and keeps the flags; SFLG.set sets the flags from the low four bits and ignores the rest. -/
def Obligations.FlagsReadAndSet : Prop :=
  ∀ (s : State) (w : Warp) (d a : SReg), s.Executes w →
    exec (.sflgGet d) s =
      warpTo s (w.setS d (BitVec.ofNat 64 (w.z.toNat * 8 + w.n.toNat * 4 + w.c.toNat * 2 + w.v.toNat))) ∧
    exec (.sflgSet a) s =
      warpTo s { w with z := (w.s a).getLsbD 3, n := (w.s a).getLsbD 2, c := (w.s a).getLsbD 1, v := (w.s a).getLsbD 0 }

/-! ## Control and traps -/

/-- R256, R244: BR, BCC, BMZ and BMNZ.  A branch not taken goes on at the next slot; a taken one goes to PC + d under the check of R234 or traps
with TARGET; no branch changes a flag, a register or a mask. -/
def Obligations.Branches : Prop :=
  ∀ (s : State) (w : Warp) (disp : Word32) (k : BitVec 4) (m : MReg) (i : Instr) (taken : Bool), s.Executes w →
    (i, taken) ∈ [(Instr.br disp, true), (Instr.bcc k disp, w.cond k), (Instr.bmz m disp, w.m m == 0#32),
                  (Instr.bmnz m disp, w.m m != 0#32)] →
    (taken = false → exec i s = warpTo s w) ∧
    (taken = true → s.isTarget w (branchTarget w.pc disp) → exec i s = .next (s.setWarp (w.goTo (branchTarget w.pc disp)))) ∧
    (taken = true → s.notTarget w (branchTarget w.pc disp) → exec i s = trapTo s w (trapOf 0x04))

/-- R232, R233: the next slot of slot 4 is slot 0 of the next line, and a displacement counts in slots, five to a line, modulo the lines of the
address space. -/
def Obligations.ProgramCounter : Prop :=
  ∀ (ln : BitVec 50) (j : Nat) (disp : Word32), j < 5 →
    let pc := mkPc ln j
    pcLine pc = ln ∧ pcSlot pc = j ∧ pcOK pc = true ∧
      nextSlot pc = (if j = 4 then mkPc (ln + 1) 0 else mkPc ln (j + 1)) ∧
      (let t : Int := 5 * ln.toNat + j + disp.toInt
       branchTarget pc disp = mkPc (BitVec.ofInt 50 (t / 5)) (t % 5).toNat)

/-- R257: CALL and CALLI check depth and window, then the target, then store the link record (return slot, then F) and slide the window by F lines;
a trap leaves the warp as it was.  RET checks the depth, then its target, and undoes both; where the core's L1 holds the record it completes with what
the record holds. -/
def Obligations.CallAndReturn : Prop :=
  ∀ (s : State) (w : Warp) (a : SReg) (slide : Byte) (disp : Word32), s.Executes w →
    (∀ i tgt, (i, tgt) ∈ [(Instr.call slide disp, branchTarget w.pc disp), (Instr.calli a slide, w.s a)] →
      (w.depth ≥ 256 ∨ w.wbo < slide.toNat → exec i s = trapTo s w (trapOf 0x0E)) ∧
      (w.depth < 256 → slide.toNat ≤ w.wbo → s.notTarget w tgt → exec i s = trapTo s w (trapOf 0x04)) ∧
      (w.depth < 256 → slide.toNat ≤ w.wbo → s.isTarget w tgt →
        ∀ l, s.l1Grants w.core (w.key (w.img + 0x0400 + 16 * w.depth)) 0 .store false l →
          (s.part w.part).qst ≠ .reshaping → w.img % 128 = 0 →
          let o := (w.img + 0x0400 + 16 * w.depth) % 128
          let rec' := toBytes ((nextSlot w.pc).toNat + 2 ^ 64 * slide.toNat) 16
          ∃ u : State, exec i s = .next (u.setWarp { w.retireRegion tgt with depth := w.depth + 1, wbo := w.wbo - slide.toNat }) ∧
            u = { s with cores := u.cores } ∧
            ∀ core k b, u.l1Byte core k b =
              (if core = w.core ∧ k = l.key ∧ o ≤ b ∧ b < o + 16 then rec'[b - o]? else s.l1Byte core k b))) ∧
    (w.depth = 0 → exec .ret s = trapTo s w (trapOf 0x0E)) ∧
    (∀ u t f, 0 < w.depth → Answers (loadLink w) s (t, f) u → s.GoesOn u w →
      (u.isTarget w t → exec .ret s = .next (u.setWarp { w.retireRegion t with depth := w.depth - 1, wbo := w.wbo + f })) ∧
      (u.notTarget w t → exec .ret s = trapIn s u w (trapOf 0x04))) ∧
    (∀ l, 0 < w.depth → (s.part w.part).qst ≠ .reshaping →
      let va := w.img + 0x0400 + 16 * (w.depth - 1)
      let t := l.data.extractLsb' (8 * (va % 128)) 64
      let f := (l.data.extractLsb' (8 * (va % 128) + 64) 16).toNat
      s.l1Grants w.core (w.key va) (BitVec.allOnes 128) .load false l → s.isTarget w t →
      ∃ u : State, exec .ret s = .next (u.setWarp { w.retireRegion t with depth := w.depth - 1, wbo := w.wbo + f }) ∧ u = { s with cores := u.cores })

/-- R259, R206: EXIT ends the warp: it is gone with its slot, quota and window lines, its launch counts one warp less and, unless the warp was
posted, counts it as gone; no byte of memory changes, and of the other warps only how far an instruction that waits for the sharing group has come. -/
def Obligations.ExitEndsTheWarp : Prop :=
  ∀ (s : State) (w : Warp), s.Executes w →
    ∃ t, exec .exit s = .next t ∧ t.warp? w.wid = none ∧
      (∀ v, v ≠ w.wid → (t.warp? v).map (fun x => { x with mid := 0 }) = (s.warp? v).map (fun x => { x with mid := 0 })) ∧ s.SameBytes t ∧
      ∀ l, s.launch? w.launch = some l → ∃ l', t.launch? w.launch = some l' ∧ l'.left = l.left - 1 ∧
        l'.imgs = l.imgs.erase w.imgIx ∧ l'.gone = if w.posted then l.gone else w.who :: l.gone

/-- R262, R263, R272: YIELD sets the record age to the partition cycle count and changes nothing else; REGION sets REGPC to its own PC and clears
the restart count; PAUSE n ends n cc after it begins, PAUSE 0 at once.
R264, R60: QUOTA moves B lines of quota to the warp of the workgroup with index A on the same sub-core, when 32 remain and the target does not
exceed 1,280, and an issuer that now holds more lines than its quota is marked for them to go first; B = 0 and the issuer's own index have no effect;
anything else traps with QUOTA.
That an issuer is marked by its register-cache and Kennel lines together is the model's reading (log 51). -/
def Obligations.YieldPauseAndQuota : Prop :=
  (∀ (s : State) (w : Warp) (n : BitVec 16), s.Executes w →
     exec .yield s = warpTo s { w with age := s.plat.cc } ∧
     exec .region s = warpTo s { w with regpc := w.pc, rcnt := 0 } ∧
     (w.pause = none → n ≠ 0 → exec (.pause n) s = .next (s.setWarp { w with pause := some (s.plat.cc + n.toNat) })) ∧
     (w.pause = none → n = 0 → exec (.pause n) s = warpTo s w) ∧
     (∀ e, w.pause = some e → e ≤ s.plat.cc → exec (.pause n) s = warpTo s w)) ∧
  (∀ (s : State) (w : Warp) (a b : SReg), s.Executes w →
     (w.s b = 0 ∨ (w.s a).toNat = w.index →
       exec (.quota a b) s = .next (s.setWarp (w.retireRegion (nextSlot w.pc)))) ∧
     (w.s b ≠ 0 → (w.s a).toNat ≠ w.index → s.quotaTarget w (w.s a) (w.s b) = none →
       exec (.quota a b) s = trapTo s w (trapOf 0x0F)) ∧
     (∀ x, w.s b ≠ 0 → (w.s a).toNat ≠ w.index → s.quotaTarget w (w.s a) (w.s b) = some x →
       (x.launch = w.launch ∧ x.wgid = w.wgid ∧ x.widx = (w.s a).toNat ∧ x.sub = w.sub ∧ x.core = w.core ∧
         32 + (w.s b).toNat ≤ w.ql ∧ x.ql + (w.s b).toNat ≤ 1280) ∧
       exec (.quota a b) s = .next ((s.setWarp { x with ql := x.ql + (w.s b).toNat }).setWarp
         { w.retireRegion (nextSlot w.pc) with
           ql := w.ql - (w.s b).toNat, shed := decide (w.ql - (w.s b).toNat < w.lines.length + w.kennel.length) })) ∧
     (w.warps ≤ (w.s a).toNat ∨ w.posted = true ∨ w.ql < 32 + (w.s b).toNat →
       s.quotaTarget w (w.s a) (w.s b) = none))

/-- R266: how a trap is delivered, in the first row that applies: SDC_LIMIT and UNCORRECTABLE kill, MAP_SUSPEND suspends, TL = 1 or a clear TEN bit
parks, else the handler is entered; a TVEC that R234 refuses parks with TARGET and leaves TL 0. -/
def Obligations.TrapDelivery : Prop :=
  ∀ (s : State) (w : Warp) (t : Trap), t.cause ≠ 0 →
    let v : Warp := { w with rob := [] }
    ((t.cause = 0x12 ∨ t.cause = 0x13) → trapTo s w t = .next (s.kill v t false true)) ∧
    (t.cause = 0x14 → trapTo s w t = .next (s.setWarp { v with st := .suspended, sback := .running })) ∧
    (t.cause ≠ 0x12 → t.cause ≠ 0x13 → t.cause ≠ 0x14 →
      (w.tl = true ∨ w.ten.getLsbD t.cause = false → trapTo s w t = .next (s.park v t)) ∧
      (w.tl = false → w.ten.getLsbD t.cause = true →
        (s.isTarget w w.tvec → trapTo s w t = .next (s.setWarp (v.enter t))) ∧
        (s.notTarget w w.tvec → trapTo s w t = .next (s.park v (trapOf 0x04)))))

/-- R267, R268, R399: handler entry sets TRP_PC, TRP_CAUSE (cause, walk status, code, flags, NEXT at their bits), TRP_ADDR and TRP_LANES, sets TL,
and goes to TVEC, which becomes the region entry; every other field of the warp is as it was, but that nothing of the instruction is left
pending. -/
def Obligations.HandlerEntry : Prop :=
  ∀ (w : Warp) (t : Trap), t.cause < 256 → t.wst < 16 → t.code < 65536 →
    let fl : Nat := w.z.toNat * 8 + w.n.toNat * 4 + w.c.toNat * 2 + w.v.toNat
    w.enter t =
      { w with
        trpPc := w.pc
        trpCause := BitVec.ofNat 64 (t.nxt.toNat * 2 ^ 63 + fl * 2 ^ 32 + t.code * 2 ^ 16 + t.wst * 2 ^ 8 + t.cause)
        trpAddr := t.va, trpLanes := t.lanes, tl := true, pc := w.tvec, regpc := w.tvec, rcnt := 0
        wait := false, mid := 0, hold := none, pause := none, promo := false }

/-- R270, R271: TRAP raises TRAP_INSN with its code and NEXT = 1; PARK parks with TRAP_INSN, code 0xFFFF and NEXT = 1, whatever TEN and TL hold. -/
def Obligations.TrapAndPark : Prop :=
  ∀ (s : State) (w : Warp) (code : BitVec 16), s.Executes w →
    exec (.trap code) s = trapTo s w { cause := 0x11, code := code.toNat, nxt := true } ∧
    exec .park s = .next (s.park w { cause := 0x11, code := 0xFFFF, nxt := true })

/-- R269: RTE traps with PRIV at TL 0, with TARGET when TRP_PC is ill formed; else it goes to TRP_PC, or the slot after it when NEXT is set, takes the
flags from TRP_CAUSE and clears TL; the slot becomes the region entry (R399). -/
def Obligations.ReturnFromTrap : Prop :=
  ∀ (s : State) (w : Warp), s.Executes w →
    (w.tl = false → exec .rte s = trapTo s w (trapOf 0x10)) ∧
    (w.tl = true → pcOK w.trpPc = false → exec .rte s = trapTo s w (trapOf 0x04)) ∧
    (w.tl = true → pcOK w.trpPc = true →
      let p := if w.trpCause.getLsbD 63 then nextSlot w.trpPc else w.trpPc
      exec .rte s = .next (s.setWarp
        { w with pc := p, regpc := p, rcnt := 0, wait := false, mid := 0, hold := none, pause := none, promo := false, tl := false,
                 z := w.trpCause.getLsbD 35, n := w.trpCause.getLsbD 34, c := w.trpCause.getLsbD 33, v := w.trpCause.getLsbD 32 }))

/-! ## System registers, shoot-down, records -/

/-- R273, R274: SYSRD and SYSWR of a number that no table lists trap with ILLEGAL; of a supervisor register at user level with PRIV; SYSRD of a register
that every level may read completes with its value, and at supervisor level every register without an instance does. -/
def Obligations.SystemRegisterAccess : Prop :=
  ∀ (s : State) (w : Warp) (d a b : SReg) (num : BitVec 16), s.Executes w →
    let n := num.toNat
    let any : Bool := decide (n ≤ 4) || (decide (8 ≤ n) && decide (n ≤ 0xB)) || (decide (0x10 ≤ n) && decide (n ≤ 0x13)) || decide (n = 0x20) ||
      (decide (0x100 ≤ n) && decide (n ≤ 0x102)) || decide (n = 0x400) || decide (n = 0x410)
    let inst : Bool := (decide (0x300 ≤ n) && decide (n ≤ 0x340)) || (decide (0x380 ≤ n) && decide (n ≤ 0x382)) ||
      (decide (0x390 ≤ n) && decide (n ≤ 0x3CF)) || decide (n = 0x600)
    let sup : Bool := inst || (decide (0x200 ≤ n) && decide (n ≤ 0x207)) || decide (n = 0x210) || (decide (0x220 ≤ n) && decide (n ≤ 0x22F)) ||
      decide (n = 0x240) || (decide (0x280 ≤ n) && decide (n ≤ 0x2CF)) || decide (n = 0x401) || decide (n = 0x402) ||
      (decide (0x404 ≤ n) && decide (n ≤ 0x40B)) || (decide (0x440 ≤ n) && decide (n ≤ 0x5FF)) || decide (n = 0x800) || decide (n = 0x801) ||
      (decide (0x808 ≤ n) && decide (n ≤ 0x80F))
    let val := s.regValue (some w) w.part n (w.s a).toNat
    (any = false → sup = false → exec (.sysrd d a num) s = trapTo s w (trapOf 0x01) ∧
      exec (.syswr a b num) s = trapTo s w (trapOf 0x01)) ∧
    (sup = true → w.sup = false → exec (.sysrd d a num) s = trapTo s w (trapOf 0x10) ∧
      exec (.syswr a b num) s = trapTo s w (trapOf 0x10)) ∧
    (any = true ∨ (sup = true ∧ w.sup = true ∧ inst = false) → exec (.sysrd d a num) s = warpTo s (w.setS d val)) ∧
    (inst = true → w.sup = true → n ≠ 0x600 → s.ownsStack w.part (w.s a).toNat = true → exec (.sysrd d a num) s = warpTo s (w.setS d val)) ∧
    (inst = true → w.sup = true → n ≠ 0x600 → s.ownsStack w.part (w.s a).toNat = false →
      exec (.sysrd d a num) s = trapTo s w (trapOf 0x0A))

/-- R273, R48, R211, R268: SYSWR of FMODE keeps its three low bits; of a trap register it traps with PRIV at user level and TL 0, is ignored at
supervisor level and TL 0, and at TL 1 writes TRP_PC, or the NEXT and FLG fields of TRP_CAUSE alone, at either level; of a register that R48
covers it traps with PRIV at user level and is ignored at supervisor level.
R274, R277, R27, R80, R88, R134, R142, R145, R149, R391, R395, R405, R407-R409: SYSWR at supervisor level writes each register of its partition
or of an owned stack, with the fields that the table gives it, refused or ignored where its rule says so, and goes on; what the controller does on a
commit is done before it goes on, unless a read of it must wait. -/
def Obligations.RegisterWrites : Prop :=
  (∀ (s : State) (w : Warp) (a b : SReg) (num : BitVec 16), s.Executes w →
     (num = 0 → exec (.syswr a b num) s = warpTo s { w with fmode := BitVec.ofNat 32 ((w.s a).toNat % 8) }) ∧
     (8 ≤ num.toNat → num.toNat ≤ 0xB →
       (w.tl = false → w.sup = false → exec (.syswr a b num) s = trapTo s w (trapOf 0x10)) ∧
       (w.tl = false → w.sup = true → exec (.syswr a b num) s = warpTo s w) ∧
       (w.tl = true → num = 8 → exec (.syswr a b num) s = warpTo s { w with trpPc := w.s a }) ∧
       (w.tl = true → num = 9 → ∀ r : Word,
         (∀ j < 64, r.getLsbD j = if j = 63 ∨ (32 ≤ j ∧ j < 36) then (w.s a).getLsbD j else w.trpCause.getLsbD j) →
         exec (.syswr a b num) s = warpTo s { w with trpCause := r }) ∧
       (w.tl = true → 10 ≤ num.toNat → exec (.syswr a b num) s = warpTo s w)) ∧
     ((num.toNat ∈ [1, 2, 3, 4, 0x10, 0x11, 0x12, 0x13, 0x20, 0x100, 0x101, 0x102, 0x400, 0x410]) →
       (w.sup = false → exec (.syswr a b num) s = trapTo s w (trapOf 0x10)) ∧
       (w.sup = true → exec (.syswr a b num) s = warpTo s w))) ∧
  (∀ (s : State) (w : Warp) (a b : SReg) (num : BitVec 16), s.Executes w → w.sup = true →
     let p := w.part
     let n := num.toNat
     let i := (w.s b).toNat
     let x := w.s a
     let v : Word32 := x.setWidth 32
     let u := s.setWarp w.retire
     let q := s.part p
     let put (f : Part → Part) : Out := .next (u.updPart p f)
     let runs (m : SM Unit) : Out := .next (s.finish w (leaves m u))
     let out := exec (.syswr a b num) s
     (n = 0x200 → ∀ r : Word, (∀ j < 64, r.getLsbD j = (if j = 0 ∨ (15 ≤ j ∧ j < 52) then x.getLsbD j else false)) →
       out = put (fun q => { q with astb := r })) ∧
     (n = 0x201 → (s.ivlRefused p v = true → out = put (fun q => { q with ivlBad := true })) ∧
       (s.ivlRefused p v = false → out = runs (do
         emptyCaches p
         modify fun s => s.updPart p (fun q =>
           { q with ivlBad := false, count := v.toNat % 64, split := v.toNat / 2 ^ 8 % 128, ivl := (List.range 48).map (fun i => q.staged.getD i 0) })))) ∧
     (∀ m < 6, n = 0x202 + m → out = put (fun q => { q with staged := (List.range 48).map (fun i =>
       if i / 8 = m then x.toNat / 2 ^ (8 * (i % 8)) % 64 else q.staged.getD i 0) })) ∧
     (n = 0x210 → out = put (fun q => { q with mig := v &&& 0x800000FF })) ∧
     (∀ m < 16, n = 0x220 + m → out =
       if v.toNat / 2 ^ 22 % 4 = 3 then .next u else put (fun q => { q with rct := q.rct.setIfInBounds m (v &&& 0x07C3FFFF) })) ∧
     (n = 0x240 → out = put (fun q =>
       if 240 < v.toNat % 512 ∨ v.toNat % 512 < minSum q.share then { q with shBad := true }
       else { q with shBad := false, mincap := v.toNat % 512 })) ∧
     (∀ m < 64, n = 0x280 + m → let y := v &&& 0x8FFBFFFF
       out = put (fun q => if q.shareRefused m y then { q with shBad := true } else
         { q with shBad := false, share := q.share.setIfInBounds m y, shWait := q.shWait ++ [(m, (s.plat.cc / 1400 + 2) * 1400, y)] })) ∧
     (∀ m < 16, n = 0x2C0 + m →
       (v.msb = false → out = .next u) ∧
       (v.msb = true → q.qst = .quiesced → (∀ k < 48, s.ownsStack p k = true → (s.stack k).act = false) →
         out = .next (State.updPart { u with fresh := s.fresh + 1 } p (fun q =>
           { q with keys := q.keys.setIfInBounds m s.fresh, kver := q.kver.setIfInBounds m ((q.kver[m]?).getD 0 + 1),
                    ebad := q.ebad.filter (fun y => y != m) }))) ∧
       (v.msb = true → (q.qst ≠ .quiesced ∨ ∃ k < 48, s.ownsStack p k = true ∧ (s.stack k).act = true) →
         out = put (fun q => { q with ebad := m :: q.ebad.filter (fun y => y != m) }))) ∧
     (s.ownsStack p i = true →
       ((0x300 ≤ n ∧ n ≤ 0x340) ∨ (0x390 ≤ n ∧ n ≤ 0x3CF) → out = .next u) ∧
       (n = 0x380 → out = .next (u.updStack i (fun k =>
         { k with en := v.msb, act := v.msb && (k.act || (!k.en && k.begun)), hours := v.toNat / 2 ^ 16 % 256 }))) ∧
       (n = 0x381 → out = .next (u.updStack i (fun k =>
         { k with lost := (BitVec.ofNat 16 k.lost &&& ~~~(v.extractLsb' 16 16)).toNat, rd := v.toNat / 2 ^ 8 % 256 }))) ∧
       (n = 0x382 → out = .next (u.updStack i (fun k => { k.request (v.toNat % 4) with auto := v.getLsbD 30 })))) ∧
     (n = 0x600 → i < 128 → s.partOfPort i = p → out = runs (portWrite i x) ∧
       let k := (leaves (portWrite i x) u).port i
       k.len = x.getLsbD 60 ∧ k.fen = x.getLsbD 58 ∧ k.peer = x.toNat / 2 ^ 52 % 64 ∧ k.pany = x.getLsbD 51 ∧ k.qbase = x.toNat / 2 ^ 32 % 2 ^ 14 ∧
         k.qcnt = x.toNat % 2 ^ 15) ∧
     (n = 0x401 → s.shapeWhy (s.auth p) (v.setWidth 8) ≠ 0 →
       out = .next { u with wafer := { u.wafer with shBad := true, why := s.shapeWhy (s.auth p) (v.setWidth 8) } }) ∧
     (n = 0x402 → out = .next { u with wafer := (
       if s.auth p = false ∨ s.nbndRefused (v.setWidth 4) = true then { u.wafer with nbndBad := true }
       else { u.wafer with nbndBad := false, seams := v.setWidth 4, nbnd := u.wafer.nbnd &&& v.setWidth 4 }) }) ∧
     (∀ m < 4, n = 0x404 + m → out = .next (u.updPart (s.partOfQ m) (fun k =>
       if s.partOfQ m = p ∨ s.auth p = true then k.quiesce v.msb else { k with qbad := true }))) ∧
     (∀ m < 4, n = 0x408 + m → out = .next { u with wafer := (
       if s.auth p = false then { u.wafer with shBad := true, why := 2 }
       else if s.qownRefused m x then { u.wafer with shBad := true, why := 4 }
       else { u.wafer with qown := u.wafer.qown.setIfInBounds m x }) }) ∧
     (∀ c < 64,
       let bad : Out := .next (u.updCtx p c (fun k => { k with bad := true }))
       let ok (f : Ctx → Ctx) : Out := .next (u.updCtx p c (fun k => { f k with bad := false }))
       let on := (s.ctx p c).en = true
       (n = 0x440 + c → out = runs (ctlWrite p c x)) ∧ (n = 0x500 + c → out = runs (resumeWrite p c x)) ∧
       (n = 0x480 + c → (on ∨ 12 < x.toNat % 16 → out = bad) ∧
         (¬on → x.toNat % 16 ≤ 12 → out = ok (fun k => { k with fqb := x &&& 0x0003FFFFFFFFFFCF }))) ∧
       (n = 0x4C0 + c → out = ok (fun k =>
         { k with lost := (BitVec.ofNat 16 k.lost &&& ~~~(x.extractLsb' 48 16)).toNat, head := x.toNat / 2 ^ 16 % 65536 })) ∧
       (n = 0x540 + c → (on → out = bad) ∧ (¬on → out = ok (fun k => { k with save := x &&& 0x00FFFFFFFFF00000 }))) ∧
       (n = 0x580 + c → (x.toNat % 32 ≠ 0 → out = bad) ∧ (x.toNat % 32 = 0 → out = ok (fun k => { k with maprec := x })))) ∧
     (n = 0x800 → out = if x.toNat % 65536 < 100 then put (fun q => { q with slcBad := true })
       else put (fun q => { q with slcBad := false, slcW := v &&& 0x8007FFFF,
                                   slice := if q.slc.msb then q.slice else firstBoundary (v &&& 0x8007FFFF) q.epochW s.timeNs })) ∧
     (n = 0x801 → out = put (fun q =>
       { q with slcBad := false, epochW := x, slice := if q.slc.msb then q.slice else firstBoundary q.slcW x s.timeNs })) ∧
     (∀ m < 8, n = 0x808 + m → out = if s.gangRefused p m x then put (fun q => { q with slcBad := true })
       else put (fun q => { q with slcBad := false, gangW := q.gangW.setIfInBounds m x })))

/-- R278: RMACK of the partition's current version records the acknowledgement of the issuing context and sets Z; any other version records nothing
and clears Z; N, C and V are kept. -/
def Obligations.MapAcknowledge : Prop :=
  ∀ (s : State) (w : Warp) (a : SReg), s.Executes w → w.part < 4 → w.ctx < 64 →
    ((w.s a).toNat = (s.part w.part).version → ∃ u : State, exec (.rmack a) s = warpTo u { w with z := true } ∧
      (u.ctx w.part w.ctx).ackv = (s.part w.part).version ∧ (u.ctx w.part w.ctx).owes = none ∧
      u = { s with parts := u.parts } ∧ ∀ p c, p < 4 → c < 64 → (p ≠ w.part ∨ c ≠ w.ctx) → u.ctx p c = s.ctx p c) ∧
    ((w.s a).toNat ≠ (s.part w.part).version → exec (.rmack a) s = warpTo s { w with z := false })

/-- R279, R35: PGPURGE traps with PRIV at user level, has no effect for C = 0, traps with XLATE and NONCANON for a base that is not canonical.  While
an operation of the ASID that has not posted holds a lock on lines of the range it marks every such operation to stop, and no other, and waits.
With none, once the stacks take the bytes written back, it completes: no line of the range is left in the directory, in a bank that held it for
the directory, in an L1 or in an instruction cache, and, unless a line of the range was migrating, no translation and no walk cache entry that
overlaps the range in a gate.  With nothing of the range to write back and nothing queued at the stacks it always completes.
That C = 0 comes before the base is the model's reading (log 35). -/
def Obligations.ShootDown : Prop :=
  ∀ (s : State) (w : Warp) (a b c : SReg), s.Executes w →
    let asid := (w.s a).extractLsb' 0 12
    let lo := (w.s b).toNat / 65536 * 65536
    let hi := (min ((w.s b).toNat + (w.s c).toNat) (2 ^ 56) + 65535) / 65536 * 65536
    (w.sup = false → exec (.pgpurge a b c) s = trapTo s w (trapOf 0x10)) ∧
    (w.sup = true → w.s c = 0 → exec (.pgpurge a b c) s = warpTo s w) ∧
    (w.sup = true → w.s c ≠ 0 → (w.s b).toNat ≥ 2 ^ 56 →
      exec (.pgpurge a b c) s = trapTo s w { cause := 0x06, wst := 5, va := w.s b }) ∧
    (w.sup = true → w.s c ≠ 0 → (w.s b).toNat < 2 ^ 56 → w.mid = 0 →
      let hits (o : EngOp) : Bool := o.part == w.part && o.asid == asid && !o.posted &&
        o.locks.any (fun l => !l.pad && decide (l.lo < hi / 128) && decide (lo / 128 ≤ l.hi))
      (∃ o ∈ s.ops, hits o = true) →
        ∃ t, exec (.pgpurge a b c) s = waitTo t w purgeWait ∧
          ∀ n, t.op? n = (s.op? n).map (fun o => if hits o then { o with stop := true } else o)) ∧
    (w.sup = true → w.s c ≠ 0 → (w.s b).toNat < 2 ^ 56 → w.mid = 0 →
      (∀ o ∈ s.ops, o.part = w.part → o.asid = asid → o.posted = false →
        ∀ l ∈ o.locks, l.pad = true ∨ hi / 128 ≤ l.lo ∨ l.hi < lo / 128) →
      let within (k : LineKey) : Prop := k.part = w.part ∧ k.asid = asid ∧ lo / 128 ≤ k.ln ∧ k.ln < hi / 128
      (s.mcq = [] → (∀ e, e ∈ s.cache.dir → ¬within e.key) → (∀ e, e ∈ s.cores → ∀ l, l ∈ e.2.l1 → within l.key → l.dirty = 0) →
        ∃ u, exec (.pgpurge a b c) s = warpTo u w) ∧
      ∀ v u, Gives (do purgeGates w.part asid lo hi; purgeLines w.part asid lo hi) s () v → Gives (mcFlush w.part asid) v true u → s.GoesOn u w →
        exec (.pgpurge a b c) s = warpTo u w ∧
        ((∀ e ∈ s.cache.dir, within e.key → e.st ≠ .migrating) →
          (∀ e, e ∈ u.gates.gtc → e.part = w.part → e.asid = asid →
            ¬(e.vpn * 2 ^ lvlShift e.lvl < hi ∧ lo < (e.vpn + 1) * 2 ^ lvlShift e.lvl)) ∧
          ∀ e, e ∈ u.gates.wc → e.part = w.part → e.asid = asid →
            ¬(e.pfx * 2 ^ lvlShift e.lvl < hi ∧ lo < (e.pfx + 1) * 2 ^ lvlShift e.lvl)) ∧
        (∀ l ∈ u.cache.lines, within l.key → ∀ e ∈ s.cache.dir, e.key ≠ l.key) ∧
        (∀ e, e ∈ u.cache.dir → ¬within e.key) ∧
        (∀ k l, l ∈ (u.core k).l1 → ¬within l.key) ∧
        (∀ k l, l ∈ (u.core k).icache → ¬(l.part = w.part ∧ l.asid = asid ∧ lo / 64 ≤ l.ln ∧ l.ln < hi / 64)))

/-- R260, R261: POST and JOIN trap with ALIGN on an address that is no multiple of 32; after their release at `.wafer`, what the atomic on the record
answers decides: a walk status traps, poison kills, a full queue waits, JOIN writes the new count or all-ones for a count of 0, POST traps with
its refusal or retires.  At a home that stands, with nothing to release, both complete on the fields of the record alone: JOIN leaves JCNT one
lower, or 0 as it was, and POST sets P and LREF; every other byte of the line is as it was.
What is checked at POST is the model's reading in part (log 19). -/
def Obligations.PostAndJoin : Prop :=
  ∀ (s : State) (w : Warp) (d a : SReg), s.Executes w →
    let addr := w.s a
    let k := w.key addr.toNat
    (addr.toNat % 32 ≠ 0 → exec (.post a) s = trapTo s w { cause := 0x05, va := addr } ∧
      exec (.join d a) s = trapTo s w { cause := 0x05, va := addr }) ∧
    (addr.toNat % 32 = 0 → addr.toNat ≥ 2 ^ 56 → exec (.post a) s = trapTo s w { cause := 0x06, wst := 5, va := addr } ∧
      exec (.join d a) s = trapTo s w { cause := 0x06, wst := 5, va := addr }) ∧
    (addr.toNat % 32 = 0 → addr.toNat < 2 ^ 56 →
      (s.part w.part).qst ≠ .reshaping → ∀ u v r, Gives (relAt w .wafer) s () u → s.GoesOn v w →
        (Gives (recDecrement w.core k addr.toNat (!w.sup)) u r v →
          exec (.join d a) s =
            (match r with
             | .found 0 => regionTo v (w.setS d (BitVec.allOnes 64))
             | .found (j + 1) => regionTo v (w.setS d (BitVec.ofNat 64 j))
             | .fail e => trapIn s v w { cause := wstCause e, wst := e, va := addr }
             | .poison => trapIn s v w { cause := 0x13, va := addr }
             | .full => waitTo v w 0
             | .refused c => trapIn s v w (trapOf c)
             | .done => regionTo v (w.setS d (BitVec.allOnes 64)))) ∧
        (Gives (recPost w.core w.part w.ctx k addr.toNat w.launch (!w.sup)) u r v →
          (r = .done → exec (.post a) s = regionTo v w) ∧
          (∀ c, r = .refused c → exec (.post a) s = trapIn s v w (trapOf c)) ∧
          (∀ e, r = .fail e → exec (.post a) s = trapIn s v w { cause := wstCause e, wst := e, va := addr }) ∧
          (r = .poison → exec (.post a) s = trapIn s v w { cause := 0x13, va := addr }) ∧
          (r = .full → exec (.post a) s = waitTo v w 0))) ∧
    (∀ l, addr.toNat % 32 = 0 → addr.toNat < 2 ^ 56 → (s.part w.part).qst ≠ .reshaping → s.quiet w → s.homeTakes w k l → l.role = .home →
      let o := addr.toNat % 128
      let keeps (t : State) (g : Nat → Bool) (l' : BLine) : Prop :=
        t.homeLine k = some l' ∧ ∀ b < 128, g (b - o) = false ∨ b < o → LineData.byte l'.data b = LineData.byte l.data b
      let f (o n : Nat) : Nat := lineNat l.data (addr.toNat % 128 + o) n
      let core := if f 22 2 = 0xFFFF then w.core else f 22 2
      (f 16 4 ≠ 1 ∨ s.holder w.part w.asid addr.toNat = none →
        ∃ t l', exec (.join d a) s = regionTo t (w.setS d (if f 16 4 = 0 then BitVec.allOnes 64 else BitVec.ofNat 64 (f 16 4 - 1))) ∧
          keeps t (fun b => decide (16 ≤ b) && decide (b < 20)) l' ∧ lineNat l'.data (o + 16) 4 = f 16 4 - 1) ∧
      (∀ n, f 21 1 = 0 → f 28 4 = 0 → f 20 1 = w.ctx → s.coreLive core = true → s.partOfCore core = w.part → s.launch? w.launch = some n →
        (f 16 4 ≠ 0 ∨ s.queueFull core n.cls = false) →
        ∃ t l', exec (.post a) s = regionTo t w ∧ keeps t (fun b => decide (b = 21) || (decide (28 ≤ b) && decide (b < 32))) l' ∧
          lineNat l'.data (o + 21) 1 = 1 ∧ lineNat l'.data (o + 28) 4 = (Config.launchRef w.launch).toNat))

/-! ## Vector instructions -/

/-- R287: VADD, VSUB, VMUL, VMULH, the logical, shift and rotate instructions, VMIN and VMAX complete with the result of each active lane at the width
of the type; nothing else changes.
R287-R290: the other lanewise integer instructions complete: VMAD, VABS, VNEG, VCLZ, VPOP, VSEL, VMOV, VBCAST, VMOVI, VLANE; VADDS and VSUBS clamp
to the range of i32 or n32; VCMP writes the active lanes' bits of a mask and keeps the others. -/
def Obligations.VectorResults : Prop :=
  (∀ (s : State) (w : Warp) (p : Pred) (ty : Ty) (d a : VReg) (b : VSrc), s.Executes w →
     s.Holds w (w.vDst ty d p :: w.vSrc ty a :: w.bSrc ty b) →
     let n := aluWidth ty
     let x := w.laneN ty a
     let y := w.blaneN ty b
     let k := fun l => (y l).toNat % n
     let out (v : Nat → BitVec n) : Out := vecTo s (w.used (w.vDst ty d p :: w.vSrc ty a :: w.bSrc ty b)) p ty d (fun l => (v l).setWidth 64)
     exec (.vadd p ty d a b) s = out (fun l => BitVec.ofNat n ((x l).toNat + (y l).toNat)) ∧
     exec (.vsub p ty d a b) s = out (fun l => BitVec.ofInt n ((x l).toInt - (y l).toInt)) ∧
     exec (.vmul p ty d a b) s = out (fun l => BitVec.ofNat n ((x l).toNat * (y l).toNat)) ∧
     exec (.vmulh p ty d a b) s = out (fun l => BitVec.ofInt n (aluInt ty (x l) * aluInt ty (y l) / 2 ^ n)) ∧
     exec (.vand p ty d a b) s = out (fun l => x l &&& y l) ∧
     exec (.vor p ty d a b) s = out (fun l => x l ||| y l) ∧
     exec (.vxor p ty d a b) s = out (fun l => x l ^^^ y l) ∧
     exec (.vandn p ty d a b) s = out (fun l => x l &&& ~~~(y l)) ∧
     exec (.vshl p ty d a b) s = out (fun l => BitVec.ofNat n ((x l).toNat * 2 ^ k l)) ∧
     exec (.vshr p ty d a b) s = out (fun l => BitVec.ofNat n ((x l).toNat / 2 ^ k l)) ∧
     exec (.vsra p ty d a b) s = out (fun l => BitVec.ofInt n ((x l).toInt / 2 ^ k l)) ∧
     exec (.vrot p ty d a b) s = out (fun l => BitVec.ofNat n ((x l).toNat * 2 ^ k l + (x l).toNat / 2 ^ (n - k l))) ∧
     exec (.vmin p ty d a b) s = out (fun l => if aluInt ty (x l) ≤ aluInt ty (y l) then x l else y l) ∧
     exec (.vmax p ty d a b) s = out (fun l => if aluInt ty (x l) ≤ aluInt ty (y l) then y l else x l)) ∧
  (∀ (s : State) (w : Warp) (p : Pred) (ty : Ty) (d a b c : VReg) (e : VSrc) (m : MReg) (r : SReg) (imm : Word32) (rel : BitVec 3),
     s.Executes w → s.Holds w (w.vDst ty d p :: w.vSrc ty a :: w.bSrc ty e) →
     let n := aluWidth ty
     let x := w.laneN ty a
     let dst := w.vDst ty d p
     let one : Warp := w.used [dst]
     let two : Warp := w.used [dst, w.vSrc ty a]
     let out (v : Nat → BitVec n) : Out := vecTo s two p ty d (fun l => (v l).setWidth 64)
     (s.Holds w [w.vSrc ty b, w.vSrc ty c] →
       exec (.vmad p ty d a b c) s =
         vecTo s (w.used [dst, w.vSrc ty a, w.vSrc ty b, w.vSrc ty c]) p ty d
           (fun l => BitVec.ofNat 64 ((w.lane ty a l).toNat * (w.lane ty b l).toNat + (w.lane ty c l).toNat)) ∧
       exec (.vsel p ty d a b m) s =
         vecTo s (w.used [dst, w.vSrc ty a, w.vSrc ty b]) p ty d (fun l => if (w.m m).getLsbD l then w.lane ty a l else w.lane ty b l)) ∧
     exec (.vabs p ty d a) s = out (fun l => BitVec.ofNat n (x l).toInt.natAbs) ∧
     exec (.vneg p ty d a) s = out (fun l => BitVec.ofInt n (-(x l).toInt)) ∧
     exec (.vclz p ty d a) s = out (fun l => BitVec.ofNat n ((List.range n).takeWhile (fun j => !(x l).getLsbD (n - 1 - j))).length) ∧
     exec (.vpop p ty d a) s = out (fun l => BitVec.ofNat n ((List.range n).filter (fun j => (x l).getLsbD j)).length) ∧
     exec (.vmov p ty d a) s = vecTo s two p ty d (fun l => w.lane ty a l) ∧
     exec (.vbcast p ty d r) s = vecTo s one p ty d (fun _ => w.s r) ∧
     exec (.vmovi p ty d imm) s = vecTo s one p ty d (fun _ => imm.setWidth 64) ∧
     (s.Holds w [w.vDst .n32 d p] → exec (.vlane p d) s = vecTo s (w.used [w.vDst .n32 d p]) p .n32 d (fun l => BitVec.ofNat 64 l)) ∧
     (ty = .i32 ∨ ty = .n32 →
       let lo : Int := if ty.signed then -2 ^ 31 else 0
       let hi : Int := if ty.signed then 2 ^ 31 - 1 else 2 ^ 32 - 1
       let sum := fun l => aluInt ty (x l) + aluInt ty (w.blaneN ty e l)
       let dif := fun l => aluInt ty (x l) - aluInt ty (w.blaneN ty e l)
       let clamped (v : Nat → Int) : Out :=
         vecTo s (w.used (dst :: w.vSrc ty a :: w.bSrc ty e)) p ty d (fun l => (BitVec.ofInt n (max lo (min hi (v l)))).setWidth 64)
       exec (.vadds p ty d a e) s = clamped sum ∧ exec (.vsubs p ty d a e) s = clamped dif) ∧
     (rel.toNat < 6 → ∀ v : Word32,
       (∀ l < 32, v.getLsbD l =
         if (w.active p).getLsbD l then
           (let u := aluInt ty (x l)
            let z := aluInt ty (w.blaneN ty e l)
            [decide (u = z), decide (u ≠ z), decide (u < z), decide (u ≤ z), decide (z < u), decide (z ≤ u)].getD rel.toNat false)
         else (w.m m).getLsbD l) →
       exec (.vcmp p rel ty m a e) s = warpTo s ((w.used (w.vSrc ty a :: w.bSrc ty e)).setM m v)))

/-- R212: the integer that each rounding mode gives for m / 2^k in its sign: RTZ truncates, RUP and RDN go up and down, RNE takes the nearest with ties to
even.
R212-R214: a value that a format represents is kept by every rounding, whatever the mode; in FP16 and BF16 a subnormal result is written as the zero of
its sign and counted as a flush; every NaN result is the canonical NaN and counts.
R213: what a rounded value beyond the largest finite one is written as, by format, mode, sign and SAT.
R212, R291: sums and products are exact before the one rounding: in units of 2^lo, the sum's value is the sum of the values and the product's the
product; an exact zero sum has sign 0, or 1 under RDN, and a sum of zeros of one sign keeps it; infinities of opposite sign and 0 times an
infinity give NaN.
R292, R293, R295-R297: the order of exact values, the lesser and the greater of two with −0 below +0 and with or without a preference for the
number, integral values by rounding of the magnitude, and quotients and square roots with 60 bits or more, exact or marked odd in the last bit
between their neighbours, so that one rounding of them is the rounding of the exact value.
R218, R294: the class of a pattern by its fields; and what encoding a block of 16 finite values gives: E from the largest exponent, the bit µ of
a pair of small values, each element's magnitude rounded, clamped and counted, its sign when it is not 0.
That a value is beyond the range when its rounded value is, is the model's choice (log 66). -/
def Obligations.FloatRounding : Prop :=
  (∀ (neg : Bool) (m k : Nat),
     (let q := roundMag .rtz neg m k; q * 2 ^ k ≤ m ∧ m < (q + 1) * 2 ^ k) ∧
     (let q := roundMag .rup neg m k; if neg then q * 2 ^ k ≤ m ∧ m < (q + 1) * 2 ^ k else m ≤ q * 2 ^ k ∧ q * 2 ^ k < m + 2 ^ k) ∧
     (let q := roundMag .rdn neg m k; if neg then m ≤ q * 2 ^ k ∧ q * 2 ^ k < m + 2 ^ k else q * 2 ^ k ≤ m ∧ m < (q + 1) * 2 ^ k) ∧
     (let q := roundMag .rne neg m k
      2 * m ≤ 2 * (q * 2 ^ k) + 2 ^ k ∧ 2 * (q * 2 ^ k) ≤ 2 * m + 2 ^ k ∧
        (2 * m = 2 * (q * 2 ^ k) + 2 ^ k ∨ (2 * (q * 2 ^ k) = 2 * m + 2 ^ k) → q % 2 = 0))) ∧
  (∀ (f : Fmt) (rm : RM) (sat : Bool) (b : Nat), f ∈ formats → b < 2 ^ f.width →
     let v := f.decode b
     let r := f.round rm sat v
     (v = .nan → r = { bits := f.nanBits, nan := true }) ∧
     (v ≠ .nan → (f.flush = false ∨ b % 2 ^ f.fb = 0 ∨ b / 2 ^ f.fb % 2 ^ f.eb ≠ 0) → r = { bits := b }) ∧
     (f.flush = true → b % 2 ^ f.fb ≠ 0 → b / 2 ^ f.fb % 2 ^ f.eb = 0 → r = { bits := f.signBit v.sign, fl := true })) ∧
  (∀ (f : Fmt) (rm : RM) (sat neg : Bool), f ∈ formats →
     let large : FRes := { bits := f.maxBits + f.signBit neg, sat := true }
     f.over rm sat neg =
       (if sat then large
        else if f = fmtE4 then { bits := 0x7F, nan := true }
        else if rm = .rtz ∨ (rm = .rup ∧ neg = true) ∨ (rm = .rdn ∧ neg = false) then large
        else { bits := f.infBits + f.signBit neg }) ∧
     f.round rm sat (.inf neg) = if f = fmtE4 then f.over rm sat neg else { bits := f.infBits + f.signBit neg }) ∧
  ((∀ (rm : RM) (s t r : Bool) (m n k : Nat) (e f g lo : Int), lo ≤ e → lo ≤ f →
     FVal.add rm (.fin s m e) (.fin t n f) = .fin r k g →
       (k = 0 ∨ lo ≤ g) ∧ signedPart r k g lo = signedPart s m e lo + signedPart t n f lo ∧
       (signedPart s m e lo + signedPart t n f lo = 0 → r = (if m = 0 ∧ s = t then s else decide (rm = .rdn)))) ∧
   (∀ (rm : RM) (s t : Bool) (m n : Nat) (e f : Int), ∃ r k g, FVal.add rm (.fin s m e) (.fin t n f) = .fin r k g) ∧
   (∀ (s t : Bool) (m n : Nat) (e f lo lo' : Int), lo ≤ e → lo' ≤ f →
     ∃ r k g, FVal.mul (.fin s m e) (.fin t n f) = .fin r k g ∧ lo + lo' ≤ g ∧ r = (s != t) ∧
       signedPart r k g (lo + lo') = signedPart s m e lo * signedPart t n f lo') ∧
   (∀ (rm : RM) (s t : Bool) (e : Int), FVal.add rm (.inf s) (.inf t) = (if s = t then .inf s else .nan) ∧
     FVal.mul (.inf s) (.fin t 0 e) = .nan ∧ FVal.mul (.fin t 0 e) (.inf s) = .nan)) ∧
  ((∀ (s t : Bool) (m n : Nat) (e f lo : Int), lo ≤ e → lo ≤ f →
     (FVal.fin s m e).lt (.fin t n f) = decide (signedPart s m e lo < signedPart t n f lo)) ∧
   (∀ (s t : Bool) (m : Nat) (e : Int) (x : FVal), (FVal.inf s).lt (.inf t) = (s && !t) ∧ (FVal.inf s).lt (.fin t m e) = s ∧
     (FVal.fin t m e).lt (.inf s) = !s ∧ FVal.nan.lt x = false ∧ x.lt .nan = false) ∧
   (∀ x y : FVal, x ≠ .nan → y ≠ .nan →
     (x.lt y = true → x.min y = x ∧ x.max y = y) ∧ (x.lt y = false → y.lt x = true → x.min y = y ∧ x.max y = x) ∧
     (x.lt y = false → y.lt x = false → x.min y = (if x.sign then x else y) ∧ x.max y = (if x.sign then y else x)) ∧
     x.minNum y = x.min y ∧ x.maxNum y = x.max y) ∧
   (∀ x : FVal, x.min .nan = .nan ∧ FVal.nan.min x = .nan ∧ x.max .nan = .nan ∧ FVal.nan.max x = .nan ∧
     x.minNum .nan = x ∧ FVal.nan.minNum x = x ∧ x.maxNum .nan = x ∧ FVal.nan.maxNum x = x) ∧
   (∀ (rm : RM) (s : Bool) (m k : Nat) (e : Int), (0 ≤ e → (FVal.fin s m e).toIntegral rm = .fin s m e) ∧
     (FVal.fin s m (-k)).toIntegral rm = .fin s (roundMag rm s m k) 0 ∧ (FVal.inf s).toIntegral rm = .inf s ∧ FVal.nan.toIntegral rm = .nan) ∧
   (∀ (s t : Bool) (m n : Nat) (e f : Int) (x : FVal),
     FVal.div 60 .nan x = .nan ∧ FVal.div 60 x .nan = .nan ∧ FVal.div 60 (.inf s) (.inf t) = .nan ∧
     FVal.div 60 (.inf s) (.fin t n f) = .inf (s != t) ∧ FVal.div 60 (.fin s m e) (.inf t) = .fin (s != t) 0 0 ∧
     FVal.div 60 (.fin s 0 e) (.fin t 0 f) = .nan ∧ (m ≠ 0 → FVal.div 60 (.fin s m e) (.fin t 0 f) = .inf (s != t)) ∧
     (n ≠ 0 → FVal.div 60 (.fin s 0 e) (.fin t n f) = .fin (s != t) 0 0) ∧
     (m ≠ 0 → n ≠ 0 → ∃ q k : Nat, FVal.div 60 (.fin s m e) (.fin t n f) = .fin (s != t) q (e - f - k) ∧ 2 ^ 60 ≤ q ∧
       (q * n = m * 2 ^ k ∨ (q % 2 = 1 ∧ (q - 1) * n < m * 2 ^ k ∧ m * 2 ^ k < (q + 1) * n)))) ∧
   ∀ (s : Bool) (m : Nat) (e : Int),
     FVal.nan.sqrt 60 = .nan ∧ (FVal.inf false).sqrt 60 = .inf false ∧ (FVal.inf true).sqrt 60 = .nan ∧
     (FVal.fin s 0 e).sqrt 60 = .fin s 0 0 ∧
     (m ≠ 0 → (FVal.fin true m e).sqrt 60 = .nan ∧ ∃ q j : Nat, (e - j) % 2 = 0 ∧ (FVal.fin false m e).sqrt 60 = .fin false q ((e - j) / 2) ∧
       2 ^ 60 ≤ q ∧ (q * q = m * 2 ^ j ∨ (q % 2 = 1 ∧ (q - 1) * (q - 1) < m * 2 ^ j ∧ m * 2 ^ j < (q + 1) * (q + 1))))) ∧
  ((∀ f ∈ [fmt64, fmt32, fmt16, fmtB16], ∀ b < 2 ^ f.width,
     let fr := b % 2 ^ f.fb
     let ex := b / 2 ^ f.fb % 2 ^ f.eb
     let neg := decide (b / 2 ^ (f.eb + f.fb) = 1)
     classBit f (f.decode b) =
       if ex = 2 ^ f.eb - 1 then (if fr ≠ 0 then 9 else if neg then 1 else 8)
       else if ex = 0 then (if fr = 0 then (if neg then 4 else 5) else if neg then 3 else 6) else if neg then 2 else 7) ∧
   ∀ code m : Nat, ∀ rm : RM, (code, m) ∈ [(2, 7), (3, 4), (4, 2)] →
     (∀ xs : List FVal, (∃ x ∈ xs, x = .nan ∨ ∃ neg, x = .inf neg) → nEncode code rm xs = { bits := 255, sat := 0, fl := 0, nan := 1 }) ∧
     ∀ (s : Nat → Bool) (a : Nat → Nat) (ex : Nat → Int) (e : Int),
       let top (i : Nat) : Int := ex i + Nat.log2 (a i)
       ((∀ i < 16, a i = 0) ∧ e = 0) ∨
           (∃ i < 16, a i ≠ 0 ∧ e = max 0 (min 254 (top i + 127)) ∧ ∀ j < 16, a j ≠ 0 → top j ≤ top i) →
         let r := nEncode code rm ((List.range 16).map (fun i => FVal.fin (s i) (a i) (ex i)))
         let small (i : Nat) : Bool := decide (a i = 0) || decide (top i < e - 128)
         let mu (j : Nat) : Nat := if small (2 * j) && small (2 * j + 1) then 1 else 0
         let k (i : Nat) : Int := ex i + m - 1 - (e - 127 - mu (i / 2))
         let q (i : Nat) : Nat := if 0 ≤ k i then a i * 2 ^ (k i).toNat else roundMag rm (s i) (a i) (-k i).toNat
         let mag (i : Nat) : Nat := min (2 ^ m - 1) (q i)
         (r.bits % 256 : Nat) = e ∧ r.bits < 2 ^ (16 * (m + 2)) ∧ (∀ j < 8, r.bits / 2 ^ (8 + j) % 2 = mu j) ∧
         (∀ i < 16, r.bits / 2 ^ (16 + (m + 1) * i) % 2 ^ (m + 1) = (if mag i ≠ 0 ∧ s i = true then 2 ^ m else 0) + mag i) ∧
         r.sat = ((List.range 16).filter (fun i => decide (2 ^ m - 1 < q i))).length ∧
         r.fl = ((List.range 16).filter (fun i => decide (a i ≠ 0) && decide (mag i = 0))).length ∧ r.nan = 0)

/-- R291, R295, R297, R298: the arithmetic instructions complete with the exact value of each active lane rounded once under FMODE and counted; FMA, FMS,
FNMA and FNMS round once; FRND rounds to an integral value in its own mode or FMODE's; FSCALE gives a times 2 to B rounded once and passes a NaN of
a through.
A NaN that passes through FSCALE is the model's reading (log 63). -/
def Obligations.FloatArithmeticResults : Prop :=
  ∀ (s : State) (w : Warp) (p : Pred) (ty : Ty) (d a b c : VReg) (e : VSrc) (mode : BitVec 3), s.Executes w →
    s.Holds w (w.vDst ty d p :: w.vSrc ty a :: w.bSrc ty e) →
    let sp := [w.vDst ty d p, w.vSrc ty a]
    let rnd (rs : List Span) (v : Nat → FVal) : Out := floatTo s (w.used rs) p ty d (fun l => (fmtOf ty).round w.rm w.sat (v l))
    let x := w.fval ty a
    let y := w.fvalB ty e
    exec (.fadd p ty d a e) s = rnd (sp ++ w.bSrc ty e) (fun l => FVal.add w.rm (x l) (y l)) ∧
    exec (.fsub p ty d a e) s = rnd (sp ++ w.bSrc ty e) (fun l => FVal.add w.rm (x l) (y l).neg) ∧
    exec (.fmul p ty d a e) s = rnd (sp ++ w.bSrc ty e) (fun l => (x l).mul (y l)) ∧
    exec (.fsqrt p ty d a) s = rnd sp (fun l => (x l).sqrt 60) ∧
    (s.Holds w (w.bSrc .i32 e) →
      exec (.fscale p ty d a e) s =
        floatTo s (w.used (sp ++ w.bSrc .i32 e)) p ty d (fun l =>
          if x l = .nan then { bits := (w.lane ty a l).toNat, nan := true }
          else (fmtOf ty).round w.rm w.sat ((x l).scale (w.blaneN .i32 e l).toInt))) ∧
    exec (.frnd p ty d a mode) s =
      floatTo s (w.used sp) p ty d (fun l => (fmtOf ty).round .rne false
        ((x l).toIntegral (if mode.toNat < 4 then w.rm else [RM.rne, .rtz, .rup, .rdn].getD (mode.toNat - 4) .rne))) ∧
    (s.Holds w [w.vSrc ty b] →
      let z := w.fval ty b
      exec (.fdiv p ty d a b) s = rnd (sp ++ [w.vSrc ty b]) (fun l => FVal.div 60 (x l) (z l)) ∧
      (s.Holds w [w.vSrc ty c] →
        let u := w.fval ty c
        let sp4 := sp ++ [w.vSrc ty b, w.vSrc ty c]
        exec (.fma p ty d a b c) s = rnd sp4 (fun l => FVal.add w.rm ((x l).mul (z l)) (u l)) ∧
        exec (.fms p ty d a b c) s = rnd sp4 (fun l => FVal.add w.rm ((x l).mul (z l)) (u l).neg) ∧
        exec (.fnma p ty d a b c) s = rnd sp4 (fun l => FVal.add w.rm ((x l).mul (z l)).neg (u l).neg) ∧
        exec (.fnms p ty d a b c) s = rnd sp4 (fun l => FVal.add w.rm ((x l).mul (z l)).neg (u l))))

/-- R292-R294, R214: FMIN, FMAX, FMINNUM and FMAXNUM complete with an operand's value as a floating-point result, so that a subnormal one is flushed to
the zero of its sign in FP16 and BF16 and a NaN is the canonical one, both counted; FABS, FNEG and FCOPYSIGN change the sign bit alone and count nothing; FCMP writes
the mask bits of the active lanes; FCLASS writes one bit of ten.
R296: the special functions complete with the function of each active lane, and on every operand that is a NaN they give the canonical NaN.
The special functions' fixed point is the model's own (log 8), and so is the flush of a subnormal FMIN, FMAX, FMINNUM or FMAXNUM
result (log 9). -/
def Obligations.FloatOtherResults : Prop :=
  (∀ (s : State) (w : Warp) (p : Pred) (ty : Ty) (d a b : VReg) (e : VSrc) (m : MReg) (rel : BitVec 3), s.Executes w →
     s.Holds w (w.vDst ty d p :: w.vSrc ty a :: w.bSrc ty e) →
     let two : Warp := w.used [w.vDst ty d p, w.vSrc ty a]
     let pick (v : Nat → FVal) : Out :=
       floatTo s (w.used (w.vDst ty d p :: w.vSrc ty a :: w.bSrc ty e)) p ty d (fun l => (fmtOf ty).round w.rm w.sat (v l))
     let x := w.fval ty a
     let y := w.fvalB ty e
     let top := 2 ^ (ty.bits - 1)
     exec (.fmin p ty d a e) s = pick (fun l => (x l).min (y l)) ∧ exec (.fmax p ty d a e) s = pick (fun l => (x l).max (y l)) ∧
     exec (.fminnum p ty d a e) s = pick (fun l => (x l).minNum (y l)) ∧ exec (.fmaxnum p ty d a e) s = pick (fun l => (x l).maxNum (y l)) ∧
     exec (.fabs p ty d a) s = vecTo s two p ty d (fun l => BitVec.ofNat 64 ((w.lane ty a l).toNat % top)) ∧
     exec (.fneg p ty d a) s =
       vecTo s two p ty d (fun l => BitVec.ofNat 64 (if (w.lane ty a l).toNat < top then (w.lane ty a l).toNat + top else (w.lane ty a l).toNat - top)) ∧
     (s.Holds w [w.vSrc ty b] → exec (.fcopysign p ty d a b) s =
       vecTo s (w.used [w.vDst ty d p, w.vSrc ty a, w.vSrc ty b]) p ty d (fun l => BitVec.ofNat 64 ((w.lane ty a l).toNat % top + (w.lane ty b l).toNat / top * top))) ∧
     exec (.fclass p ty d a) s = vecTo s two p ty d (fun l => BitVec.ofNat 64 (2 ^ classBit (fmtOf ty) (x l))) ∧
     ∀ v : Word32,
       (∀ l < 32, v.getLsbD l =
         if (w.active p).getLsbD l then
           (let un := decide (x l = .nan ∨ y l = .nan)
            let lt := (x l).lt (y l)
            let gt := (y l).lt (x l)
            [!un && !lt && !gt, un || lt || gt, lt, !un && !gt, gt, !un && !lt, !un, un].getD rel.toNat false)
         else (w.m m).getLsbD l) →
       exec (.fcmp p rel ty m a e) s = warpTo s ((w.used (w.vSrc ty a :: w.bSrc ty e)).setM m v)) ∧
  (∀ (s : State) (w : Warp) (p : Pred) (ty : Ty) (d a : VReg) (i : Instr) (f : FVal → FVal), s.Executes w →
     s.Holds w [w.vDst ty d p, w.vSrc ty a] →
     (i, f) ∈ [(Instr.frcp p ty d a, spRcp), (.frsq p ty d a, spRsq), (.fexp2 p ty d a, spExp2), (.flog2 p ty d a, spLog2),
               (.fsin p ty d a, spSin), (.fcos p ty d a, spCos), (.ftanh p ty d a, spTanh)] →
     exec i s = floatTo s (w.used [w.vDst ty d p, w.vSrc ty a]) p ty d (fun l => special ty w.rm w.sat f (w.lane ty a l).toNat) ∧
       ∀ b, (fmtOf ty).decode b = .nan → special ty w.rm w.sat f b = { bits := (fmtOf ty).nanBits, nan := true })

/-! ## Conversions, collectives, masks -/

/-- R299, R301, R302: CVT, PACK and UNPACK complete: each active lane holds the converted value or the packed pair, and each converted value counts.
R300: CVTB traps with ILLEGAL when a half is partly active; else each fully active half holds its block, padded with zeros, the other bytes are kept,
and the blocks' counts are added. -/
def Obligations.Conversions : Prop :=
  (∀ (s : State) (w : Warp) (p : Pred) (ty src : Ty) (d a b : VReg) (part : BitVec 2), s.Executes w →
     let cv (l : Nat) (r : VReg) : FRes := convert src ty w.rm w.sat (w.lane src r l).toNat
     (s.Holds w [w.vDst ty d p, w.vSrc src a] → exec (.cvt p ty src d a) s =
       floatTo s (w.used [w.vDst ty d p, w.vSrc src a]) p ty d (fun l => cv l a)) ∧
     (s.Holds w [w.vDst src d p, w.vSrc .b32 a] → exec (.unpack p ty src part d a) s =
       floatTo s (w.used [w.vDst src d p, w.vSrc .b32 a]) p src d (fun l => convert ty src w.rm w.sat ((w.lane .b32 a l).toNat / 2 ^ (ty.bits * part.toNat)))) ∧
     (s.Holds w [⟨w.vOff d, 1, true⟩, w.vSrc src a, w.vSrc src b] →
       let n (f : FRes → Bool) : Nat :=
         ((lanesOf (w.active p)).filter (fun l => f (cv l a))).length + ((lanesOf (w.active p)).filter (fun l => f (cv l b))).length
       let v : Warp := w.used [⟨w.vOff d, 1, !(predFull p && ty.bits == 16)⟩, w.vSrc src a, w.vSrc src b]
       exec (.pack p ty src d a b) s =
         .next ((s.addCnt w { tid := 0, sat := n (fun r => r.sat), fl := n (fun r => r.fl), nan := n (fun r => r.nan) }).setWarp
           (v.putLanes .b32 d (w.active p) (fun l => BitVec.ofNat 64
             (if ty.bits = 16 then (cv l b).bits * 2 ^ 16 + (cv l a).bits
              else (w.lane .b32 d l).toNat % 2 ^ 16 * 2 ^ 16 + (cv l b).bits * 2 ^ 8 + (cv l a).bits))).retire))) ∧
  (∀ (s : State) (w : Warp) (p : Pred) (ty : Ty) (code : BitVec 4) (d a : VReg), s.Executes w → s.Holds w [w.vDst .b32 d p, w.vSrc ty a] →
     let act := w.active p
     let on (h : Nat) : Nat := ((List.range 16).filter (fun i => act.getLsbD (16 * h + i))).length
     let blk (h : Nat) : NBlk := nEncode code.toNat w.rm ((List.range 16).map (fun i => w.fval ty a (16 * h + i)))
     let i := w.wbo + w.vOff d
     ((∃ h < 2, 0 < on h ∧ on h < 16) → exec (.cvtb p ty code d a) s = trapTo s w (trapOf 0x01)) ∧
     ((∀ h < 2, on h = 0 ∨ on h = 16) → ∃ v : Warp, ∃ c : Cnt, exec (.cvtb p ty code d a) s = .next ((s.addCnt w c).setWarp v.retire) ∧
       v = { w with lines := v.lines } ∧ (∀ j, j ≠ i → v.line j = w.line j) ∧
       (∀ h < 2, halfOf (v.line i) h = if on h = 16 then BitVec.ofNat 512 (blk h).bits else halfOf (w.line i) h) ∧
       c.sat = (if on 0 = 16 then (blk 0).sat else 0) + (if on 1 = 16 then (blk 1).sat else 0) ∧
       c.fl = (if on 0 = 16 then (blk 0).fl else 0) + (if on 1 = 16 then (blk 1).fl else 0) ∧
       c.nan = (if on 0 = 16 then (blk 0).nan else 0) + (if on 1 = 16 then (blk 1).nan else 0)))

/-- R215, R226, R299: the rules of conversion: equal types copy the bits, a NaN counted; integer to integer keeps the low bits, or with SAT the nearest end of the range, counted; integer
to float rounds once; float to integer gives 0 for a NaN and the nearest end beyond the range, both counted, else the rounded integer. -/
def Obligations.ConversionRules : Prop :=
  ∀ (src dst : Ty) (rm : RM) (sat : Bool) (b : Nat), b < 2 ^ src.bits →
    let lo : Int := if dst.signed then -2 ^ (dst.bits - 1) else 0
    let hi : Int := if dst.signed then 2 ^ (dst.bits - 1) - 1 else 2 ^ dst.bits - 1
    let low (x : Int) : Nat := (x % 2 ^ dst.bits).toNat
    let x : Int := if src.signed ∧ 2 ^ (src.bits - 1) ≤ b then (b : Int) - 2 ^ src.bits else b
    (src = dst → convert src dst rm sat b = { bits := b, nan := src.isFloat && decide ((fmtOf src).decode b = .nan) }) ∧
    (src ≠ dst → src.isInt = true → dst.isInt = true →
      convert src dst rm sat b = { bits := low (if sat then max lo (min hi x) else x), sat := sat && (decide (x < lo) || decide (hi < x)) }) ∧
    (src ≠ dst → src.isInt = true → dst.isInt = false →
      convert src dst rm sat b = (fmtOf dst).round rm sat (.fin (decide (x < 0)) x.natAbs 0)) ∧
    (src.isInt = false → dst.isInt = true →
      let v := (fmtOf src).decode b
      (v = .nan → convert src dst rm sat b = { bits := 0, sat := true }) ∧
      (∀ neg, v = .inf neg → convert src dst rm sat b = { bits := low (if neg then lo else hi), sat := true }) ∧
      (∀ neg m e, v = .fin neg m e →
        let y : Nat := if 0 ≤ e then m * 2 ^ e.toNat else roundMag rm neg m (-e).toNat
        let z : Int := if neg then -(y : Int) else y
        convert src dst rm sat b = { bits := low (max lo (min hi z)), sat := decide (z < lo) || decide (hi < z) }))

/-- R303, R309: the shuffles complete: each active lane takes A's value of its source lane, active or not, in native mode and in G16 mode.
R304, R309: the votes complete: the result over the active lanes (of each half in G16 mode) goes into the active lanes' bits of D and the other bits are
kept; a ballot writes the whole scalar.
R307, R308, R309: the mask instructions write the active lanes' bits of D and keep the others; MMOV to a scalar, MCNT and MFIRST write the whole scalar,
MCNT and MFIRST by halves in G16 mode. -/
def Obligations.LanesAndMasks : Prop :=
  (∀ (s : State) (w : Warp) (p : Pred) (ty : Ty) (d a b : VReg) (e : SSrc), s.Executes w → s.Holds w [w.vDst ty d p, w.vSrc ty a, w.vSrc .n32 b] →
     let n := (w.ssrc e false).toNat
     let out (src : Nat → Nat) : Out := vecTo s (w.used [w.vDst ty d p, w.vSrc ty a]) p ty d (fun l => w.lane ty a (src l))
     exec (.shflIdx p ty d a b) s =
       vecTo s (w.used [w.vDst ty d p, w.vSrc ty a, w.vSrc .n32 b]) p ty d (fun l => w.lane ty a
         (if w.g16 then l / 16 * 16 + (laneW (w.vreg b) l).toNat % 16 else (laneW (w.vreg b) l).toNat % 32)) ∧
     exec (.shflUp p ty d a e) s = out (fun l => if (if w.g16 then l % 16 else l) < n then l else l - n) ∧
     exec (.shflDn p ty d a e) s = out (fun l => if (if w.g16 then 15 < l % 16 + n else 31 < l + n) then l else l + n) ∧
     exec (.shflXor p ty d a e) s = out (fun l => l ^^^ (n % if w.g16 then 16 else 32))) ∧
  (∀ (s : State) (w : Warp) (p : Pred) (ty : Ty) (d a : MReg) (v : VReg) (r : SReg), s.Executes w → s.Holds w [w.vSrc ty v] →
     let act := w.active p
     let with' (l : Nat) : List Nat := (List.range 32).filter (fun k => act.getLsbD k && (!w.g16 || k / 16 == l / 16))
     (∀ (i : Instr) (f : Nat → Bool),
       (i, f) ∈ [(Instr.voteAll p d a, fun l => (with' l).all (fun k => (w.m a).getLsbD k)),
                 (.voteAny p d a, fun l => (with' l).any (fun k => (w.m a).getLsbD k))] →
       ∀ x : Word32, (∀ l < 32, x.getLsbD l = if act.getLsbD l then f l else (w.m d).getLsbD l) → exec i s = warpTo s (w.setM d x)) ∧
     (∀ x : Word32,
       (∀ l < 32, x.getLsbD l = if act.getLsbD l then (with' l).all (fun k => w.lane ty v k == w.lane ty v l) else (w.m d).getLsbD l) →
       exec (.voteEq p ty d v) s = warpTo s ((w.used [w.vSrc ty v]).setM d x)) ∧
     exec (.voteBallot p r a) s = warpTo s (w.setS r ((w.m a &&& act).setWidth 64))) ∧
  (∀ (s : State) (w : Warp) (p : Pred) (d a b : MReg) (r : SReg), s.Executes w →
     let act := w.active p
     (∀ (i : Instr) (v : Word32),
       (i, v) ∈ [(Instr.mand p d a b, w.m a &&& w.m b), (.mor p d a b, w.m a ||| w.m b), (.mxor p d a b, w.m a ^^^ w.m b), (.mnot p d a, ~~~(w.m a)),
                 (.mmovMask p d a, w.m a), (.mmovFromScalar p d r, BitVec.ofNat 32 (w.s r).toNat)] →
       ∀ x : Word32, (∀ l < 32, x.getLsbD l = if act.getLsbD l then v.getLsbD l else (w.m d).getLsbD l) → exec i s = warpTo s (w.setM d x)) ∧
     (let x := w.m a &&& act
      let cnt (o n : Nat) : Nat := ((List.range n).filter (fun j => x.getLsbD (o + j))).length
      let first (o n : Nat) : Nat := ((List.range n).takeWhile (fun j => !x.getLsbD (o + j))).length
      let val (f : Nat → Nat → Nat) : Word := BitVec.ofNat 64 (if w.g16 then f 16 16 * 2 ^ 32 + f 0 16 else f 0 32)
      exec (.mmovToScalar p r a) s = warpTo s (w.setS r (x.setWidth 64)) ∧
      exec (.mcnt p r a) s = warpTo s (w.setS r (val cnt)) ∧ exec (.mfirst p r a) s = warpTo s (w.setS r (val first))))

/-- R305, R306, R309: REDS and SCAN of integer and bit types complete with the fold of the operation over the active lanes (SCAN: up to the lane, or below it;
in G16 mode within its half), the identity when there is none; REDS writes the crossing register and increments its sequence number, and a 64-bit
type in G16 mode traps with ILLEGAL.
R305, R306: REDS and SCAN of every type complete, with at most one saturation and one NaN for a result; REDS writes its crossing register alone. -/
def Obligations.Reductions : Prop :=
  (∀ (s : State) (w : Warp) (p : Pred) (op : RedOp) (ty : Ty) (q : QReg) (d a : VReg) (excl : Bool), s.Executes w → exactRed op ty = true →
     s.Holds w [w.vDst ty d p, w.vSrc ty a] →
     let n := aluWidth ty
     let fold (on : Nat → Bool) : BitVec n := foldOp op ty (((lanesOf (w.active p)).filter on).map (w.laneN ty a))
     let seq := (w.qr[q.toNat]'q.isLt).2
     let put (v : Word) : Out := warpTo s { w.used [w.vSrc ty a] with qr := w.qr.set q.toNat (v, seq + 1) q.isLt }
     (w.g16 = true → ty.wide = true → exec (.reds p op ty q a) s = trapTo s w (trapOf 0x01)) ∧
     (w.g16 = false → exec (.reds p op ty q a) s = put (aluExt ty (fold (fun _ => true)))) ∧
     (w.g16 = true → ty.wide = false → exec (.reds p op ty q a) s =
       put (BitVec.ofNat 64 ((fold (fun l => decide (16 ≤ l))).toNat * 2 ^ 32 + (fold (fun l => decide (l < 16))).toNat))) ∧
     exec (.scan p op ty excl d a) s =
       vecTo s (w.used [w.vDst ty d p, w.vSrc ty a]) p ty d (fun l => (fold (fun k => (if excl then decide (k < l) else decide (k ≤ l)) && (!w.g16 || k / 16 == l / 16))).setWidth 64)) ∧
  (∀ (s : State) (w : Warp) (p : Pred) (op : RedOp) (ty : Ty) (q : QReg) (d a : VReg) (excl : Bool), s.Executes w →
     (s.Holds w [w.vSrc ty a] → (w.g16 && ty.wide) = false →
       ∃ (v : Word) (c : Cnt), exec (.reds p op ty q a) s =
           .next ((s.addCnt w c).setWarp { w.used [w.vSrc ty a] with qr := w.qr.set q.toNat (v, (w.qr[q.toNat]'q.isLt).2 + 1) q.isLt }.retire) ∧
         c.tid = 0 ∧ c.sat ≤ 1 ∧ c.fl = 0 ∧ c.nan ≤ 1) ∧
     (s.Holds w [w.vDst ty d p, w.vSrc ty a] → ∃ g : Nat → FRes,
       exec (.scan p op ty excl d a) s = floatTo s (w.used [w.vDst ty d p, w.vSrc ty a]) p ty d g ∧ ∀ l, (g l).fl = false))

/-! ## Memory -/

/-- R317, R319, R321, R92: loads that the L1 serves complete with the bytes that the L1 holds, little-endian, and change no byte of any memory: LD, LDACQ at
`.warp` or `.core`, LDS (i32 sign-extended) and MLD (lane L moves half of row L div 2).  Whatever their hint, scope and lines, loads whose accesses
answer complete with what these read, LDACQ after its acquire. -/
def Obligations.LoadsFromL1 : Prop :=
  ∀ (s : State) (w : Warp) (p : Pred) (ty : Ty) (d : VReg) (ad : Addr) (a b r : SReg) (disp : BitVec 20) (hint : Hint) (scope : Scope)
    (ta : TAReg), s.Executes w →
    let inL1 : Prop := hint ≠ .strm ∧ hint ≠ .pin
    let u : Warp := w.used (w.vDst ty d p :: w.adSpan ad)
    let at' (l : Nat) : LA := { lane := l, va := w.laneAddr ad ty.bytes l, n := ty.bytes }
    let x : LA := { lane := 0, va := BitVec.ofInt 64 ((w.s a).toNat + (w.s b).toNat + disp.toInt), n := ty.bytes }
    let ext (v : Word) : Word := if ty = .i32 then (v.setWidth 32).signExtend 64 else v
    (s.Holds w (w.vDst ty d p :: w.adSpan ad) →
      (inL1 → s.loadsHeld w (w.accs p ad ty.bytes) →
        ∀ i, i = .ld p ty d ad hint scope ∨ (i = .ldacq p ty d ad hint scope ∧ wideScope scope = false) →
        ∃ t : State, exec i s = vecTo t u p ty d (fun l => s.loaded w (at' l)) ∧ s.SameBytes t ∧ t = { s with cores := t.cores }) ∧
      (∀ f t, Answers (loadLanes u true (loadKind hint scope false) (w.accs p ad ty.bytes)) s f t → s.GoesOn t w →
        exec (.ld p ty d ad hint scope) s = vecTo t u p ty d (fun l => leWord (f (at' l)))) ∧
      (∀ f t v, s.acqWaits w scope = false → Answers (loadLanes u true (loadKind hint scope (wideScope scope)) (w.accs p ad ty.bytes)) s f t →
        Gives (acqAt w scope) t () v → s.GoesOn v w →
        exec (.ldacq p ty d ad hint scope) s = vecTo v u p ty d (fun l => leWord (f (at' l))))) ∧
    (inL1 → s.loadsHeld w [x] → ∃ t : State, exec (.lds ty r a b disp hint scope) s = warpTo t (w.setS r (ext (s.loaded w x))) ∧
        s.SameBytes t ∧ t = { s with cores := t.cores }) ∧
    (∀ f t, Answers (loadLanes w false (loadKind hint scope false) [x]) s f t → s.GoesOn t w →
        exec (.lds ty r a b disp hint scope) s = warpTo t (w.setS r (ext (leWord (f x))))) ∧
    (let h := shareOf ta ty
     let base := w.wbo + w.taOff ta
     let xs := w.rowAccs p h a b disp
     let rs : List Span := [⟨w.taOff ta, h / 4, !(predFull p && decide (16 ≤ h))⟩]
     (s.Holds w rs → ∀ f t, Answers (loadLanes (w.used rs) true (loadKind hint scope false) xs) s f t → s.GoesOn t w →
       exec (.mld p ty ta a b disp hint scope) s =
         warpTo t ((w.used rs).putBytes base (xs.flatMap (fun x => (f x).zipIdx.map (fun (e : Byte × Nat) => (h * x.lane + e.2, e.1)))))) ∧
     (inL1 → s.Holds w [⟨w.taOff ta, h / 4, true⟩] → s.loadsHeld w xs →
      ∃ (t : State) (v : Warp), exec (.mld p ty ta a b disp hint scope) s = warpTo t v ∧ s.SameBytes t ∧ t = { s with cores := t.cores } ∧
        v = { w with lines := v.lines } ∧
        (∀ x ∈ xs, ∀ j < h, some (LineData.byte (v.line (base + (h * x.lane + j) / 128)) ((h * x.lane + j) % 128)) =
          s.l1Byte w.core (w.laKey x) (x.va.toNat % 128 + j)) ∧
        (∀ i k, k < 128 → (∀ x ∈ xs, ¬(h * x.lane ≤ 128 * i + k ∧ 128 * i + k < h * x.lane + h)) →
          LineData.byte (v.line (base + i)) k = LineData.byte (w.line (base + i)) k) ∧
        (∀ j < base, v.line j = w.line j)))

/-- R315, R317, R319, R321, R92: stores to lines that the L1 holds with permission complete; the stored bytes, a higher lane over a lower, are what the L1
holds of them, and every other byte of every memory is as it was: ST, STREL at `.warp` or `.core`, STS and MST.  Whatever their hint, scope and lines,
stores that answer and write no aperture complete; with `.strm`, and STREL at `.quad` or wider, they write the home, STREL after its release. -/
def Obligations.StoresToL1 : Prop :=
  ∀ (s : State) (w : Warp) (p : Pred) (ty : Ty) (c : VReg) (ad : Addr) (a b r : SReg) (disp : BitVec 20) (hint : Hint) (scope : Scope)
    (ta : TAReg), s.Executes w →
    let strm : Bool := hint == .strm
    (let xs := (w.accs p ad ty.bytes).map (fun x => (x, toBytes (w.lane ty c x.lane).toNat ty.bytes))
     let u : Warp := w.used (w.vSrc ty c :: w.adSpan ad)
     s.Holds w (w.vSrc ty c :: w.adSpan ad) →
      (hint ≠ .strm → s.storesHeld w (w.accs p ad ty.bytes) →
        ∀ i, i = .st p ty ad c hint scope ∨ (i = .strel p ty ad c hint scope ∧ wideScope scope = false) →
        ∃ t : State, exec i s = warpTo t u ∧ s.StoredInL1 w xs t) ∧
      (∀ t, Answers (storeLanes u true strm strm (pure ()) xs) s [] t → s.GoesOn t w → exec (.st p ty ad c hint scope) s = warpTo t u) ∧
      (∀ t, Answers (storeLanes u true (strm || wideScope scope) strm (release w scope) xs) s [] t → s.GoesOn t w →
        exec (.strel p ty ad c hint scope) s = warpTo t u)) ∧
    (let x : LA := { lane := 0, va := BitVec.ofInt 64 ((w.s a).toNat + (w.s b).toNat + disp.toInt), n := ty.bytes }
     let xs := [(x, toBytes (w.s r).toNat ty.bytes)]
     (hint ≠ .strm → s.storesHeld w [x] → ∃ t : State, exec (.sts ty a b r disp hint scope) s = warpTo t w ∧ s.StoredInL1 w xs t) ∧
     (∀ t, Answers (storeLanes w false strm strm (pure ()) xs) s [] t → s.GoesOn t w → exec (.sts ty a b r disp hint scope) s = warpTo t w)) ∧
    (let h := shareOf ta ty
     let xs := (w.rowAccs p h a b disp).map (fun x => (x, w.bytes (w.wbo + w.taOff ta) (h * x.lane) h))
     let u : Warp := w.used [⟨w.taOff ta, h / 4, true⟩]
     s.Holds w [⟨w.taOff ta, h / 4, true⟩] →
      (hint ≠ .strm → s.storesHeld w (w.rowAccs p h a b disp) →
        ∃ t : State, exec (.mst p ty a b disp ta hint scope) s = warpTo t u ∧ s.StoredInL1 w xs t) ∧
      (∀ t, Answers (storeLanes u true strm strm (pure ()) xs) s [] t → s.GoesOn t w →
        exec (.mst p ty a b disp ta hint scope) s = warpTo t u))

/-- R314, R243: the checks of every load, store and atomic in their order, all of the lanes before the next check.  On global addresses (LD, LDACQ,
ST, STREL, MLD, MST, ATOM and RED, and the one lane of LDS and STS) a misaligned lane traps with ALIGN, else a lane that is not canonical with
XLATE and NONCANON, else a locked lane with RANGE_LOCK; on scratchpad offsets (LDPD, STPD, ATOM and RED) ALIGN, PAD_BOUND, RANGE_LOCK.  The trap
names the lanes that fail that check and the address of the lowest; nothing is loaded, stored or released. -/
def Obligations.LaneChecksInOrder : Prop :=
  ∀ (s : State) (w : Warp) (p : Pred) (op : AtomOp) (ty : Ty) (d c : VReg) (ad : Addr) (a b r : SReg) (disp : BitVec 20) (hint : Hint)
    (ord : Ord) (scope : Scope) (ta : TAReg), s.Executes w →
    let odd (xs : List LA) : List LA := xs.filter (fun x => x.va.toNat % x.n != 0)
    let far (xs : List LA) : List LA := xs.filter (fun x => decide (2 ^ 56 ≤ x.va.toNat))
    let off (xs : List LA) : List LA := xs.filter (fun x => !s.padOK w.core w.part w.ctx x.va.toNat x.n)
    let held (pad write : Bool) (xs : List LA) : List LA := xs.filter (fun x => s.locked w.agent pad (x.va.toNat / 128) write)
    let xs := w.accs p ad ty.bytes
    let h := shareOf ta ty
    let rows := w.rowAccs p h a b disp
    let y : LA := w.scalarAcc ty a b disp
    let ready : Prop := ord = .acq ∨ ord = .ar → s.acqWaits w scope = false
    let load := w.vDst ty d p :: w.adSpan ad
    let store := w.vSrc ty c :: w.adSpan ad
    let atom := w.vDst ty d p :: w.atomSpans op ty ad c
    ((s.part w.part).qst ≠ .reshaping → ∀ (i : Instr) (write : Bool) (zs : List LA),
      (zs = xs ∧ ((i = .ld p ty d ad hint scope ∧ write = false ∧ s.Holds w load) ∨
          (i = .ldacq p ty d ad hint scope ∧ write = false ∧ s.Holds w load ∧ s.acqWaits w scope = false) ∨
          (i = .st p ty ad c hint scope ∧ write = true ∧ s.Holds w store) ∨ (i = .strel p ty ad c hint scope ∧ write = true ∧ s.Holds w store) ∨
          (i = .atom p op ty false d ad c ord scope ∧ write = true ∧ s.Holds w atom ∧ ready) ∨
          (i = .red p op ty false ad c ord scope ∧ write = true ∧ s.Holds w (w.atomSpans op ty ad c)))) ∨
        (zs = rows ∧ ((i = .mld p ty ta a b disp hint scope ∧ write = false ∧ s.Holds w [⟨w.taOff ta, h / 4, !(predFull p && decide (16 ≤ h))⟩]) ∨
          (i = .mst p ty a b disp ta hint scope ∧ write = true ∧ s.Holds w [⟨w.taOff ta, h / 4, true⟩]))) →
      (odd zs ≠ [] → exec i s = trapTo s w (laneTrap 0x05 0 (odd zs))) ∧
      (odd zs = [] → far zs ≠ [] → exec i s = trapTo s w (laneTrap 0x06 5 (far zs))) ∧
      (odd zs = [] → far zs = [] → held false write zs ≠ [] → exec i s = trapTo s w (laneTrap 0x08 0 (held false write zs)))) ∧
    (∀ (i : Instr) (write : Bool),
      (i = .ldpd p ty d ad ∧ write = false ∧ s.Holds w load) ∨ (i = .stpd p ty ad c ∧ write = true ∧ s.Holds w store) ∨
        (i = .atom p op ty true d ad c ord scope ∧ write = true ∧ s.Holds w atom ∧ ready) ∨
        (i = .red p op ty true ad c ord scope ∧ write = true ∧ s.Holds w (w.atomSpans op ty ad c)) →
      (odd xs ≠ [] → exec i s = trapTo s w (laneTrap 0x05 0 (odd xs))) ∧
      (odd xs = [] → off xs ≠ [] → exec i s = trapTo s w (laneTrap 0x0D 0 (off xs))) ∧
      (odd xs = [] → off xs = [] → held true write xs ≠ [] → exec i s = trapTo s w (laneTrap 0x08 0 (held true write xs)))) ∧
    ((s.part w.part).qst ≠ .reshaping → ∀ (i : Instr) (write : Bool),
      (i, write) ∈ [(Instr.lds ty r a b disp hint scope, false), (.sts ty a b r disp hint scope, true)] →
      (odd [y] ≠ [] → exec i s = trapTo s w { cause := 0x05, va := y.va }) ∧
      (odd [y] = [] → far [y] ≠ [] → exec i s = trapTo s w { cause := 0x06, wst := 5, va := y.va }) ∧
      (odd [y] = [] → far [y] = [] → held false write [y] ≠ [] → exec i s = trapTo s w { cause := 0x08, va := y.va }))

/-- R115, R117, R317: LDPD and STPD complete on granted, aligned offsets: LDPD reads the scratchpad through the front course of the exchange region and changes
nothing but D; STPD writes the lanes' bytes, a higher lane over a lower, and leaves every other offset and every other core's scratchpad. -/
def Obligations.ScratchpadAccess : Prop :=
  ∀ (s : State) (w : Warp) (p : Pred) (ty : Ty) (d c : VReg) (ad : Addr), s.Executes w →
    let xs := w.accs p ad ty.bytes
    (s.Holds w (w.vDst ty d p :: w.adSpan ad) → s.padsHeld w false xs →
      exec (.ldpd p ty d ad) s = vecTo s (w.used (w.vDst ty d p :: w.adSpan ad)) p ty d (fun l => s.padLoaded w { lane := l, va := w.laneAddr ad ty.bytes l, n := ty.bytes })) ∧
    (s.Holds w (w.vSrc ty c :: w.adSpan ad) → s.padsHeld w true xs → s.pads.wf = true → (s.core w.core).xch.e ≤ 0x100000 →
      let st := xs.map (fun x => (x, toBytes (w.lane ty c x.lane).toNat ty.bytes))
      ∃ t : State, exec (.stpd p ty ad c) s = warpTo t (w.used (w.vSrc ty c :: w.adSpan ad)) ∧ t = { s with pads := t.pads } ∧
        (∀ o, o < (s.core w.core).xb + (s.core w.core).course →
          t.pads.get (s.padPhys w.core o) = (storedPad st o).getD (s.pads.get (s.padPhys w.core o))) ∧
        (∀ m, m / 2 ^ 20 ≠ w.core → t.pads.get m = s.pads.get m))

/-- R320, R51, R203, R335: LDL and STL move a vector register from and to the bytes of the window at an offset from WB: WINDOW for a byte range or a
register outside the window, whatever the mask, then ALIGN for a misaligned offset of active lanes; STL leaves every other byte of the window; with
no active lane nothing is moved.
The address of a misaligned access is the model's reading (log 34). -/
def Obligations.WindowMoves : Prop :=
  ∀ (s : State) (w : Warp) (p : Pred) (ty : Ty) (d c : VReg) (a : SReg) (disp : BitVec 20), s.Executes w →
    let n := ty.bytes
    let o : Word := BitVec.ofInt 64 ((w.s a).toNat + disp.toInt)
    let act := w.active p
    let lines := (o.toNat + 32 * n + 127) / 128 - o.toNat / 128
    let win : Span := ⟨o.toNat / 128, lines, true⟩
    let dst := w.vDst ty d p
    let src := w.vSrc ty c
    (w.spansOK [win, dst] = false → exec (.ldl p ty d a disp) s = trapTo s w (trapOf 0x0E)) ∧
    (w.spansOK [win, src] = false → exec (.stl p ty a disp c) s = trapTo s w (trapOf 0x0E)) ∧
    (act ≠ 0 → o.toNat % n ≠ 0 → ∃ t, t.cause = 0x05 ∧ t.lanes = act ∧
      (w.spansOK [win, dst] = true → exec (.ldl p ty d a disp) s = trapTo s w t) ∧
      (w.spansOK [win, src] = true → exec (.stl p ty a disp c) s = trapTo s w t)) ∧
    (act ≠ 0 → o.toNat % n = 0 →
      (s.Holds w [win, dst] →
        exec (.ldl p ty d a disp) s = vecTo s (w.used [win, dst]) p ty d (fun l => leWord (w.bytes w.wbo (o.toNat + n * l) n))) ∧
      (s.Holds w [win, src] →
        ∃ v : Warp, exec (.stl p ty a disp c) s = warpTo s v ∧ v = { w with lines := v.lines } ∧
          (∀ l < 32, act.getLsbD l = true → w.lane ty c l = leWord (v.bytes w.wbo (o.toNat + n * l) n)) ∧
          (∀ i k, k < 128 → (∀ l < 32, act.getLsbD l = true → ¬(o.toNat + n * l ≤ 128 * i + k ∧ 128 * i + k < o.toNat + n * l + n)) →
            LineData.byte (v.line (w.wbo + i)) k = LineData.byte (w.line (w.wbo + i)) k) ∧
          (∀ j < w.wbo, v.line j = w.line j))) ∧
    (act = 0 →
      (w.spansOK [win, dst] = true → s.Holds w [dst] → exec (.ldl p ty d a disp) s = warpTo s (w.used [dst])) ∧
      (w.spansOK [win, src] = true → s.Holds w [src] → exec (.stl p ty a disp c) s = warpTo s (w.used [src])))

/-- R322: the new value of each atomic operation, at 32 or 64 bits: CAS writes only on a match, INCW wraps to 0 at its bound, signed and unsigned orders follow the
type, FADD rounds the exact sum once to nearest, ties to even, with no saturation.
R323: ATOM and RED on the scratchpad complete: the lanes act in ascending order, each on what the lanes before it at the same address left; ATOM returns each
lane's old value; every other byte of the scratchpad is as it was.
R323, R324: ATOM and RED complete whenever their lanes answer, after the release that their order asks for and, for ATOM, before the acquire; an acquire that
must wait at `.sys` or `.pod` waits before anything is done. -/
def Obligations.Atomics : Prop :=
  (∀ (ty : Ty) (old c n : Word), (ty.wide = false → old.toNat < 2 ^ 32 ∧ c.toNat < 2 ^ 32) →
     let k := aluWidth ty
     let x : BitVec k := old.setWidth k
     let y : BitVec k := c.setWidth k
     let low (v : Option Word) : Option (BitVec k) := v.map (fun u => u.setWidth k)
     low (atomNew .add ty old c n) = some (BitVec.ofNat k (x.toNat + y.toNat)) ∧
     low (atomNew .min ty old c n) = some (if aluInt ty x ≤ aluInt ty y then x else y) ∧
     low (atomNew .max ty old c n) = some (if aluInt ty x ≤ aluInt ty y then y else x) ∧
     low (atomNew .and ty old c n) = some (x &&& y) ∧ low (atomNew .or ty old c n) = some (x ||| y) ∧
     low (atomNew .xor ty old c n) = some (x ^^^ y) ∧ atomNew .xch ty old c n = some c ∧
     atomNew .cas ty old c n = (if old = c then some n else none) ∧
     low (atomNew .incw ty old c n) = some (if y.toNat ≤ x.toNat then 0 else BitVec.ofNat k (x.toNat + 1)) ∧
     (let f := if ty.wide then fmt64 else fmt32
      atomNew .fadd ty old c n =
        some (BitVec.ofNat 64 (f.round .rne false (FVal.add .rne (f.decode old.toNat) (f.decode c.toNat))).bits))) ∧
  (∀ (s : State) (w : Warp) (p : Pred) (op : AtomOp) (ty : Ty) (d c : VReg) (ad : Addr) (scope : Scope), s.Executes w →
     let xs := w.accs p ad ty.bytes
     let f : AtomStep := fun x old => atomNew op ty old (w.lane ty c x.lane) (w.lane ty (casReg ty c) x.lane)
     s.Holds w (w.vDst ty d p :: w.atomSpans op ty ad c) → s.padsHeld w true xs → s.pads.wf = true →
     ∃ t : State, t = { s with pads := t.pads } ∧
       exec (.red p op ty true ad c .relaxed scope) s = regionTo t (w.used (w.atomSpans op ty ad c)) ∧
       exec (.atom p op ty true d ad c .relaxed scope) s = regionTo t ((w.used (w.vDst ty d p :: w.atomSpans op ty ad c)).putLanes ty d (w.active p) (fun l =>
         let x : LA := { lane := l, va := w.laneAddr ad ty.bytes l, n := ty.bytes }
         atomSeq f (s.padLoaded w x) (xs.filter (fun y => decide (y.lane < l))) x.va)) ∧
       (∀ x ∈ xs, t.padLoaded w x = atomSeq f (s.padLoaded w x) xs x.va) ∧
       (∀ o, o < (s.core w.core).xb + (s.core w.core).course → (∀ x ∈ xs, ¬(x.va.toNat ≤ o ∧ o < x.va.toNat + x.n)) →
         t.pads.get (s.padPhys w.core o) = s.pads.get (s.padPhys w.core o))) ∧
  (∀ (s : State) (w : Warp) (p : Pred) (op : AtomOp) (ty : Ty) (pad : Bool) (d c : VReg) (ad : Addr) (ord : Ord) (scope : Scope), s.Executes w →
     s.Holds w (w.vDst ty d p :: w.atomSpans op ty ad c) →
     let v : Warp := w.used (w.vDst ty d p :: w.atomSpans op ty ad c)
     let x : Warp := w.used (w.atomSpans op ty ad c)
     (∀ vs t, Answers (atomGo x p op ty pad ad c ord scope) s vs t → s.GoesOn t w → exec (.red p op ty pad ad c ord scope) s = regionTo t x) ∧
     (ord = .relaxed ∨ ord = .rel → ∀ vs t, Answers (atomGo v p op ty pad ad c ord scope) s vs t → s.GoesOn t w →
       exec (.atom p op ty pad d ad c ord scope) s = regionTo t (v.putLanes ty d (w.active p) (laneOld vs))) ∧
     (ord = .acq ∨ ord = .ar →
       (s.acqWaits w scope = true → exec (.atom p op ty pad d ad c ord scope) s = waitTo s w 0) ∧
       (s.acqWaits w scope = false → ∀ vs t u, Answers (atomGo v p op ty pad ad c ord scope) s vs t → Gives (acqAt w scope) t () u → s.GoesOn u w →
         exec (.atom p op ty pad d ad c ord scope) s = regionTo u (v.putLanes ty d (w.active p) (laneOld vs)))))

/-- R94, R325: a FENCE at `.warp` or `.core` completes and changes nothing; at a wider scope it completes after its release, which leaves no dirty byte of the
warp's ASID in the core's L1 and at `.sys` no write of it at a stack, and its acquire, which leaves no clean byte of an unpinned line of the ASID there; with
nothing to release every form completes.
R326, R231: CLEAN, INVAL and FLUSH of no byte complete and change nothing; of a range whose base is not canonical they trap with XLATE and NONCANON; else they
complete: after CLEAN no line of the range in the core's L1 is dirty, and after INVAL none holds a clean byte and the core's instruction cache
holds no code line of the range; FLUSH is CLEAN, then INVAL; at `.sys` the stacks have taken every write of the ASID.  INVAL below `.sys` always completes, and
with nothing to release all three do.
R318: a PLD that asks for no allocation changes nothing; a lane that is not canonical traps with XLATE and NONCANON; else PLD completes, whatever its fills do:
a line that several lanes name is filled once, and no lane traps.  Where the L1 holds its lines already it completes and changes no byte of any memory.
That a length of 0 comes before the base is the model's reading (log 35). -/
def Obligations.FencesAndCacheControl : Prop :=
  (∀ (s : State) (w : Warp) (ord : Ord) (scope : Scope), s.Executes w →
     (wideScope scope = false → exec (.fence ord scope) s = warpTo s w) ∧
     (wideScope scope = true → s.acqWaits w scope = false →
       let mine (l : L1Line) : Prop := l.key.part = w.part ∧ l.key.asid = w.asid
       (∀ u, Gives (released w scope) s true u → s.GoesOn u w → exec (.fence .rel scope) s = warpTo u w ∧
         (sysScope scope = true → ∀ c ∈ u.mcq, c.rd = false → ¬(c.part = w.part ∧ c.asid = w.asid)) ∧
         ∀ l ∈ (u.core w.core).l1, mine l → l.dirty = 0) ∧
       (∀ u, Gives (acqAt w scope) s () u → s.GoesOn u w → exec (.fence .acq scope) s = warpTo u w ∧
         ∀ l ∈ (u.core w.core).l1, mine l → l.pin = false → l.valid = l.dirty) ∧
       (∀ u v, Gives (released w scope) s true u → Gives (acqAt w scope) u () v → s.GoesOn v w → exec (.fence .ar scope) s = warpTo v w) ∧
       (∃ t, exec (.fence .acq scope) s = warpTo t w) ∧
       (s.idle w → (∃ t, exec (.fence .rel scope) s = warpTo t w ∧ s.SameBytes t) ∧ ∃ t, exec (.fence .ar scope) s = warpTo t w)) ∧
     (s.acqWaits w scope = true → ord = .acq ∨ ord = .ar → exec (.fence ord scope) s = waitTo s w 0)) ∧
  (∀ (s : State) (w : Warp) (a b : SReg) (scope : Scope), s.Executes w →
     let lo := (w.s a).toNat / 128
     let hi := (min ((w.s a).toNat + (w.s b).toNat) (2 ^ 56) + 127) / 128
     let rng (ln : Nat) : Bool := decide (lo ≤ ln) && decide (ln < hi)
     let cl : SM Unit := releaseAct w.core w.part w.asid (sysScope scope) rng
     let iv : SM Unit := invalRange w scope rng
     let taken (m : SM Unit) : SM Bool := do
       m
       if sysScope scope then mcFlush w.part w.asid else pure true
     (∀ i, i ∈ [Instr.clean a b scope, .inval a b scope, .flush a b scope] →
       (w.s b = 0 → exec i s = warpTo s w) ∧
       (w.s b ≠ 0 → 2 ^ 56 ≤ (w.s a).toNat → exec i s = trapTo s w { cause := 0x06, wst := 5, va := w.s a })) ∧
     (w.s b ≠ 0 → (w.s a).toNat < 2 ^ 56 → (s.part w.part).qst ≠ .reshaping →
       (∀ u, Gives (taken cl) s true u → s.GoesOn u w → exec (.clean a b scope) s = warpTo u w ∧
         ∀ l ∈ (u.core w.core).l1, l.key.part = w.part → l.key.asid = w.asid → rng l.key.ln = true → l.dirty = 0) ∧
       (∀ u, Gives (taken iv) s true u → s.GoesOn u w → exec (.inval a b scope) s = warpTo u w ∧
         (∀ l ∈ (u.core w.core).l1, l.key.part = w.part → l.key.asid = w.asid → rng l.key.ln = true → l.valid = l.dirty) ∧
         (∀ l ∈ (u.core w.core).icache, l.part = w.part → l.asid = w.asid → rng (l.ln / 2) = false)) ∧
       (∀ u v, Gives cl s () u → Gives (taken iv) u true v → s.GoesOn v w → exec (.flush a b scope) s = warpTo v w) ∧
       (sysScope scope = false → ∃ t, exec (.inval a b scope) s = warpTo t w) ∧
       (s.idle w → (∃ t, exec (.clean a b scope) s = warpTo t w ∧ s.SameBytes t) ∧ (∃ t, exec (.inval a b scope) s = warpTo t w) ∧
         ∃ t, exec (.flush a b scope) s = warpTo t w))) ∧
  (∀ (s : State) (w : Warp) (p : Pred) (ad : Addr) (hint : Hint) (scope : Scope), s.Executes w → (s.part w.part).qst ≠ .reshaping →
     s.Holds w (w.adSpan ad) →
     let xs := w.accs p ad 0
     let far := xs.filter (fun x => decide (2 ^ 56 ≤ x.va.toNat))
     let v : Warp := w.used (w.adSpan ad)
     (far ≠ [] → exec (.pld p ad hint scope) s = trapTo s w (laneTrap 0x06 5 far)) ∧
     (far = [] → hint = .strm → sysScope scope = true → exec (.pld p ad hint scope) s = warpTo s v) ∧
     (far = [] → ¬(hint = .strm ∧ sysScope scope = true) →
       ∀ u, Gives ((w.firstOnLine xs).forM (prefetch v (loadKind hint scope false))) s () u → s.GoesOn u w → exec (.pld p ad hint scope) s = warpTo u v) ∧
     (far = [] → hint ≠ .strm → hint ≠ .pin →
       (∀ x ∈ xs, ∃ l, s.l1Grants w.core (w.laKey x) (BitVec.allOnes 128) .load (!w.sup) l) →
       ∃ t, exec (.pld p ad hint scope) s = warpTo t v ∧ s.SameBytes t ∧ t = { s with cores := t.cores }))

/-! ## Exchange stores, sharing groups, barriers -/

/-- R122, R327: XST traps with ALIGN, then PAD_BOUND for a lane outside a slot's course, then EXCH_REVOKED when the core is no member or the slot is empty; else it
completes and sends, in the core's phase, each active lane's bytes to the core of its slot.
R128, R328: MCST checks ALIGN, then gives EMPTY (3) with no active lane or target, then traps with PART_BOUND for a target outside the partition, EXCH_REVOKED when
the core or a target is no member, PAD_BOUND when the bytes do not fit a course; else it sends the same bytes to every target and gives OK (1).
A core without a region is the model's reading (log 34). -/
def Obligations.ExchangeStores : Prop :=
  (∀ (s : State) (w : Warp) (p : Pred) (ty : Ty) (ad : Addr) (c : VReg), s.Executes w → s.Holds w (w.vSrc ty c :: w.adSpan ad) →
     let x := (s.core w.core).xch
     let xs := w.accs p ad ty.bytes
     let g (a : LA) : Nat := a.va.toNat
     let odd := xs.filter (fun a => g a % ty.bytes != 0)
     let out := xs.filter (fun a => decide (64 ≤ g a / x.e) || decide (x.e / 2 < g a % x.e + ty.bytes))
     let gone := xs.filter (fun a => x.mem.isNone || (x.slotCore (g a / x.e)).isNone)
     (odd ≠ [] → exec (.xst p ty ad c) s = trapTo s w (laneTrap 0x05 0 odd)) ∧
     (odd = [] → out ≠ [] → exec (.xst p ty ad c) s = trapTo s w (laneTrap 0x0D 0 out)) ∧
     (odd = [] → out = [] → gone ≠ [] → exec (.xst p ty ad c) s = trapTo s w (laneTrap 0x0C 0 gone)) ∧
     (odd = [] → out = [] → gone = [] →
       ∃ new : List XPkt, exec (.xst p ty ad c) s = regionTo { s with pkts := s.pkts ++ new } (w.used (w.vSrc ty c :: w.adSpan ad)) ∧
         (∀ k ∈ new, k.src = w.core ∧ k.ph = x.ph) ∧
         ∀ dst o b, (∃ k ∈ new, k.dst = dst ∧ (o, b) ∈ k.bytes) ↔
           ∃ a ∈ xs, x.slotCore (g a / x.e) = some dst ∧ ∃ i, i < ty.bytes ∧ o = g a % x.e + i ∧
             b = BitVec.ofNat 8 ((w.lane ty c a.lane).toNat / 2 ^ (8 * i)))) ∧
  (∀ (s : State) (w : Warp) (p : Pred) (ty : Ty) (d a b : SReg) (c : VReg), s.Executes w → s.Holds w [w.vSrc ty c] →
     let x := (s.core w.core).xch
     let ls := lanesOf (w.active p)
     let n := ty.bytes
     let o := (w.s a).toNat % 2 ^ 20
     let x0 := (w.s a).toNat / 2 ^ 32 % 64
     let y0 := (w.s a).toNat / 2 ^ 40 % 64
     let ts := ((List.range 64).filter (fun i => (w.s b).getLsbD i)).map (fun i => (x0 + i % 8, y0 + i / 8))
     let bad := ts.any (fun t => decide (35 < t.1) || decide (35 < t.2) || !s.inPart w.part (36 * t.2 + t.1))
     let gone := x.mem.isNone || ts.any (fun t => !x.copy.any (fun m => m.2 == 36 * t.2 + t.1))
     let big := decide (x.e / 2 < o + n * (ls.foldl max 0 + 1))
     let u : Warp := w.used [w.vSrc ty c]
     (ls ≠ [] → o % n ≠ 0 → ∃ t, t.cause = 0x05 ∧ t.va = w.s a ∧ t.lanes = w.active p ∧ exec (.mcst p ty d a b c) s = trapTo s w t) ∧
     (ls = [] ∨ (o % n = 0 ∧ w.s b = 0) → exec (.mcst p ty d a b c) s = regionTo s (u.setS d 3)) ∧
     (ls ≠ [] → o % n = 0 → w.s b ≠ 0 →
       (bad = true → exec (.mcst p ty d a b c) s = trapTo s w (trapOf 0x0A)) ∧
       (bad = false → gone = true → exec (.mcst p ty d a b c) s = trapTo s w (trapOf 0x0C)) ∧
       (bad = false → gone = false → big = true → exec (.mcst p ty d a b c) s = trapTo s w (trapOf 0x0D)) ∧
       (bad = false → gone = false → big = false →
         ∃ new : List XPkt, exec (.mcst p ty d a b c) s = regionTo { s with pkts := s.pkts ++ new } (u.setS d 1) ∧
           (∀ k ∈ new, k.src = w.core ∧ k.ph = x.ph) ∧
           ∀ dst o' v, (∃ k ∈ new, k.dst = dst ∧ (o', v) ∈ k.bytes) ↔
             (∃ t ∈ ts, dst = 36 * t.2 + t.1) ∧ ∃ l ∈ ls, ∃ i, i < n ∧ o' = o + n * l + i ∧
               v = BitVec.ofNat 8 ((w.lane ty c l).toNat / 2 ^ (8 * i)))))

/-- R121, R125, R126, R329: GJOIN answers -5 without a region, the core's index when it is a member already, -4 when it belongs to another group, -3 for
another ASID or launch, -2 for another region size, -1 when the group is full; the first core becomes member 0 at once; else it waits as a joiner, and
then answers its index, or -3 when the join was withdrawn.  GLEAVE of a core of no group completes and changes nothing else, of a joining core withdraws
the join, of a member waits until the core is none.
R124, R330: GBAR of a core of no group completes with N set; of a member it waits until the core has swapped, then completes with Z when that release
lost no member, V when it lost one, C the phase parity; it changes nothing else.
The corner cases of log 23 are the model's reading. -/
def Obligations.GroupInstructions : Prop :=
  (∀ (s : State) (w : Warp) (d a : SReg), s.Executes w →
     let gid := (w.s a).toNat % 1024
     let x := (s.core w.core).xch
     let ans (r : Int) : Out := regionTo s (w.setS d (BitVec.ofInt 64 r))
     let wait (mid : Nat) : Out := .next (s.setWarp (w.waiting mid))
     (w.mid < joinWait ∨ joinGone < w.mid →
       (x.e = 0 → exec (.gjoin d a) s = ans (-5)) ∧
       (∀ g k, x.e ≠ 0 → x.mem = some (g, k) → exec (.gjoin d a) s = ans (if g = gid then k else -4)) ∧
       (∀ j, x.e ≠ 0 → x.mem = none → x.join = some j → exec (.gjoin d a) s = if j = gid then wait joinWait else ans (-4)) ∧
       (x.e ≠ 0 → x.mem = none → x.join = none → (∀ g, s.group? w.part gid = some g → g.size = 0) →
         ∃ t : State, exec (.gjoin d a) s = regionTo t (w.setS d 0) ∧ (t.core w.core).xch.mem = some (gid, 0) ∧
           (t.core w.core).xch.ph = false ∧ s.SameBytes t ∧ (∀ v, t.warp? v = s.warp? v)) ∧
       (∀ g, x.e ≠ 0 → x.mem = none → x.join = none → s.group? w.part gid = some g → g.size ≠ 0 →
         (g.asid ≠ w.asid ∨ g.launch ≠ x.launch → exec (.gjoin d a) s = ans (-3)) ∧
         (g.asid = w.asid → g.launch = x.launch → g.e ≠ x.e → exec (.gjoin d a) s = ans (-2)) ∧
         (g.asid = w.asid → g.launch = x.launch → g.e = x.e → 64 ≤ g.size → exec (.gjoin d a) s = ans (-1)) ∧
         (g.asid = w.asid → g.launch = x.launch → g.e = x.e → g.size < 64 →
           ∃ t : State, exec (.gjoin d a) s = .next (t.setWarp (w.waiting joinWait)) ∧ (t.core w.core).xch.join = some gid))) ∧
     (w.mid = joinWait → exec (.gjoin d a) s = wait joinWait) ∧
     (∀ k, k < 64 → w.mid = joinedAt k → exec (.gjoin d a) s = ans k) ∧
     (w.mid = joinGone → exec (.gjoin d a) s = ans (-3)) ∧
     (w.mid = leaveWait → exec .gleave s = wait leaveWait) ∧
     (w.mid = leaveDone → exec .gleave s = regionTo s w) ∧
     (w.mid ≠ leaveWait → x.mem = none → x.join = none → exec .gleave s = regionTo s w) ∧
     (∀ g, w.mid ≠ leaveWait → w.mid ≠ leaveDone → x.mem = none → x.join = some g →
       ∃ t : State, exec .gleave s = regionTo t w ∧ (t.core w.core).xch.join = none ∧ s.SameBytes t) ∧
     (∀ g k, w.mid ≠ leaveWait → w.mid ≠ leaveDone → x.mem = some (g, k) → ∃ t : State, s.SameBytes t ∧
       ((exec .gleave s = regionTo t w ∧ (t.core w.core).xch.mem = none) ∨
         (exec .gleave s = .next (t.setWarp (w.waiting leaveWait)) ∧ (t.core w.core).xch.leaving = true)))) ∧
  (∀ (s : State) (w : Warp), s.Executes w →
     let x := (s.core w.core).xch
     let wait (mid : Nat) : Out := .next (s.setWarp (w.waiting mid))
     (w.mid < gbarWait → x.mem = none → x.join = none →
       exec .gbar s = regionTo s { w with z := false, n := true, c := x.ph, v := x.lost }) ∧
     (w.mid < gbarWait → x.mem = none → x.join ≠ none → exec .gbar s = wait 0) ∧
     (w.mid < gbarWait → x.mem ≠ none → exec .gbar s = wait gbarWait) ∧
     (w.mid = gbarWait → exec .gbar s = wait gbarWait) ∧
     (∀ ph abn : Bool, w.mid = gbarDone ph abn → exec .gbar s = regionTo s { w with z := !abn, n := false, c := ph, v := abn }))

/-- R187, R188, R331-R333: every BAR form at a level that the warp's progress class or declaration does not allow traps with ILLEGAL.  Of a posted or
excused warp every form completes alone at every level, after the release or acquire of the form; so does a wait without an arrival.  A first
arrival, and a later one when the instance of the one before has released, is sent after the level's release and completes with the phase that it
arrived in, as does an excusing; an arrival and a wait on an instance that has not released wait; a wait on one that has departs after the
level's acquire.  At `.warp` and `.core` release and acquire do nothing. -/
def Obligations.Barriers : Prop :=
  ∀ (s : State) (w : Warp) (d : SReg) (sc : Scope) (id : BitVec 6), s.Executes w →
    let forms : List Instr := [.barSync d sc id, .barArrive d sc id, .barWait d sc id, .barExcuse d sc id]
    let lvl := lvlKey sc
    let bid := id.toNat
    let ph := (s.barOf w lvl bid).phase
    let msg (exc : Bool) : BarMsg := { part := w.part, launch := w.launch, lvl := lvl, ext := barExtent lvl w.core w.wgid, bid := bid, who := w.who, exc := exc }
    let sent (t : State) (exc : Bool) : State := { t with barq := t.barq ++ [msg exc] }
    (w.barLegal sc = false → ∀ i ∈ forms, exec i s = trapTo s w (trapOf 0x01)) ∧
    (wideScope sc = false → Gives (acqAt w sc) s () s ∧ Gives (released w sc) s true s ∧ s.GoesOn s w) ∧
    (w.barLegal sc = true → w.barAlone lvl bid = true →
      let alone (t : State) : Out := barTo t w d sc 0 true false false false true
      (wideScope sc = false → ∀ i ∈ forms, exec i s = alone s) ∧
      (∀ u, Gives (released w sc) s true u → s.GoesOn u w → exec (.barArrive d sc id) s = alone u ∧ exec (.barExcuse d sc id) s = alone u) ∧
      (s.acqWaits w sc = true → exec (.barWait d sc id) s = waitTo s w w.mid ∧ exec (.barSync d sc id) s = waitTo s w w.mid) ∧
      (s.acqWaits w sc = false → (∀ u, Gives (acqAt w sc) s () u → s.GoesOn u w → exec (.barWait d sc id) s = alone u) ∧
        ∀ u v, Gives (released w sc) s true u → Gives (acqAt w sc) u () v → s.GoesOn v w → exec (.barSync d sc id) s = alone v)) ∧
    (w.barLegal sc = true → w.barAlone lvl bid = false →
      (w.barSt lvl bid = none → s.acqWaits w sc = false → ∀ u, Gives (acqAt w sc) s () u → s.GoesOn u w →
        exec (.barWait d sc id) s = barTo u w d sc 0 true false false false true) ∧
      (∀ u n, Gives (released w sc) s true u → s.GoesOn u w → (u.barOf w lvl bid).phase = ph →
        (w.barSt lvl bid = none ∧ n = 0) ∨ (∃ b, w.barSt lvl bid = some b ∧ n = b.seen) →
        let st (exc : Bool) : BarSt := { lvl := lvl, bid := bid, phase := ph, open' := !exc, exc := exc, seen := n }
        exec (.barExcuse d sc id) s = barTo (sent u true) (w.setBarSt (st true)) d sc ph false true false false false ∧
        (w.mid = 0 → (∀ b, w.barSt lvl bid = some b → b.phase < (s.barOf w b.lvl b.bid).phase) →
          exec (.barArrive d sc id) s = barTo (sent u false) (w.setBarSt (st false)) d sc ph false true false false false ∧
          exec (.barSync d sc id) s = .next ((sent u false).setWarp { w.setBarSt (st false) with wait := true, mid := 1 }))) ∧
      (∀ b, w.barSt lvl bid = some b → b.phase ≥ (s.barOf w b.lvl b.bid).phase →
        exec (.barWait d sc id) s = waitTo s w w.mid ∧ exec (.barSync d sc id) s = waitTo s w w.mid ∧
          (w.mid = 0 → exec (.barArrive d sc id) s = waitTo s w 0)) ∧
      (∀ b, w.barSt lvl bid = some b → b.phase < (s.barOf w b.lvl b.bid).phase → s.acqWaits w sc = false →
        ∀ u, Gives (acqAt w sc) s () u → s.GoesOn u w → ∃ xc xw n,
          let v := w.setBarSt { b with open' := false, seen := n }
          exec (.barWait d sc id) s = barTo u v d sc b.phase false false xc xw true ∧
          (w.mid ≠ 0 → exec (.barSync d sc id) s = barTo u v d sc b.phase false false xc xw true) ∧
          (∀ l, u.launch? w.launch = some l → l.kills = [] → (∀ r ∈ (u.barOf w b.lvl b.bid).rels, r.2 = (false, false)) →
            xc = false ∧ xw = false)))

/-! ## Matrix instructions -/

/-- R220, R242, R336, R346: with no active lane the five instructions that take a format word complete and write nothing; where two active lanes hold different
words they trap with FORMAT_VOTE; a voted word that they do not accept traps with ILLEGAL: a wrong pair of formats or accumulator format, an XAF that
is not the word's AF, a wrong SPARSE, a tile operand beyond t63, a half-active row of SPCMP or of MCVT to an N format.  With a format register outside
the window they trap, with FORMAT_VOTE, ILLEGAL or WINDOW in this order as its free bytes have it.
What a format register outside the window reads is a free value (log 36). -/
def Obligations.FormatWordChecks : Prop :=
  ∀ (s : State) (w : Warp) (p : Pred) (xaf : BitVec 4) (mta vb c : VReg) (d : AReg) (t a b : TReg), s.Executes w →
    let act := w.active p
    let one (r : Nat) : Span := ⟨r, 1, false⟩
    let tile (r : TReg) : Span := ⟨w.tOff r, 4, false⟩
    let acc : Span := ⟨w.aOff d, 8, false⟩
    let forms : List (Instr × List Span) :=
      [(.mma p xaf d a b c, [acc, tile a, tile b, one (w.vOff c)]), (.mmb p xaf d a b c, [acc, tile a, tile b, one (w.vOff c)]),
       (.mms p xaf mta d a b c, [one (w.vOff mta), acc, tile a, tile b, one (w.vOff c)]),
       (.spcmp p t a vb c, [tile t, tile a, one (w.vOff vb), one (w.vOff c)]), (.mcvt p t d c, [tile t, acc, one (w.vOff c)])]
    (act = 0 → ∀ f ∈ forms, s.Holds w f.2 → exec f.1 s = warpTo s w) ∧
    (act ≠ 0 → w.spansOK [one (w.vOff c)] = false → ∀ f ∈ forms,
      ∃ k, k ∈ [0x09, 0x01, 0x0E] ∧ exec f.1 s = trapIn s { s with free := s.free + 1 } w (trapOf k)) ∧
    (s.Holds w [⟨w.vOff c, 1, true⟩] →
      ((∃ j k, j < 32 ∧ k < 32 ∧ act.getLsbD j = true ∧ act.getLsbD k = true ∧ laneW (w.vreg c) j ≠ laneW (w.vreg c) k) →
        ∀ f ∈ forms, exec f.1 s = trapTo s w (trapOf 0x09)) ∧
      ∀ x : Word32, act ≠ 0 → (∀ l < 32, act.getLsbD l = true → laneW (w.vreg c) l = x) →
        let af := x.toNat % 16
        let bf := x.toNat / 16 % 16
        let cf := x.toNat / 256 % 16
        let sparse := x.getLsbD 15
        let adj := x.toNat / 2 ^ 24
        let half := ∃ r < 16, act.getLsbD (2 * r) ≠ act.getLsbD (2 * r + 1)
        let pair := bf = af ∨ (6 ≤ af ∧ af ≤ 7 ∧ 6 ≤ bf ∧ bf ≤ 7)
        let accf := if af = 5 then cf = 5 ∧ adj = 0 else cf = 8
        let fits (r : TReg) (n : Nat) := r.toNat + n ≤ 64
        let wideN := if 2 ≤ af ∧ af ≤ 4 then 2 else 1
        (¬(7 ≥ af ∧ (xaf = 15 ∨ xaf.toNat = af) ∧ pair ∧ accf ∧ sparse = false ∧ fits a wideN ∧ fits b wideN) →
          exec (.mma p xaf d a b c) s = trapTo s w (trapOf 0x01)) ∧
        (¬(af ∈ [0, 1, 6, 7] ∧ (xaf = 15 ∨ xaf.toNat = af) ∧ pair ∧ cf = 8 ∧ sparse = false) →
          exec (.mmb p xaf d a b c) s = trapTo s w (trapOf 0x01)) ∧
        (¬(af ∈ [0, 1, 5, 6, 7] ∧ (xaf = 15 ∨ xaf.toNat = af) ∧ pair ∧ accf ∧ sparse = true ∧ (6 ≤ af ∨ fits b 2)) →
          exec (.mms p xaf mta d a b c) s = trapTo s w (trapOf 0x01)) ∧
        (¬(af ∈ [0, 1, 5, 6, 7] ∧ sparse = false ∧ (6 ≤ af ∨ fits a 2) ∧ ¬half) →
          exec (.spcmp p t a vb c) s = trapTo s w (trapOf 0x01)) ∧
        (¬((cf = 8 ∧ af ≤ 7 ∧ af ≠ 5 ∨ cf = 5 ∧ af = 5 ∧ adj = 0) ∧ sparse = false ∧ ¬(2 ≤ af ∧ af ≤ 4 ∧ half)) →
          exec (.mcvt p t d c) s = trapTo s w (trapOf 0x01)))

/-- R220-R222, R339-R341: MMA, MMB and MMS under a voted word that they accept complete: each accumulator element of an active lane has the exact sums of its
groups added with one rounding each, in ascending groups, and every other byte of the window is as it was; the results count under the word's TID.
The sign of an exact zero and one count for each element are the model's reading (log 36). -/
def Obligations.MatrixProducts : Prop :=
  ∀ (s : State) (w : Warp) (p : Pred) (xaf : BitVec 4) (mta c : VReg) (d : AReg) (a b : TReg) (x : Word32), s.Executes w →
    let act := w.active p
    let af := x.toNat % 16
    let bf := x.toNat / 16 % 16
    let cf := x.toNat / 256 % 16
    let rm := RM.ofCode (BitVec.ofNat 2 (x.toNat / 2 ^ 12))
    let sat := x.getLsbD 14
    let tid := x.toNat / 2 ^ 16 % 256
    let adj : Int := (BitVec.ofNat 8 (x.toNat / 2 ^ 24)).toInt
    let n := [16, 16, 32, 64, 128, 32, 16, 16].getD af 0
    let pitch := [32, 32, 36, 48, 64, 32, 16, 16].getD af 0
    let pair := bf = af ∨ (6 ≤ af ∧ af ≤ 7 ∧ 6 ≤ bf ∧ bf ≤ 7)
    let accf := if af = 5 then cf = 5 ∧ adj = 0 else cf = 8
    let tiles (r : TReg) (bytes : Nat) : Prop := r.toNat + (bytes + 511) / 512 ≤ 64
    let reads (bytesA bytesB : Nat) : List Span :=
      [⟨w.aOff d, 8, true⟩, ⟨w.tOff a, (bytesA + 127) / 128, true⟩, ⟨w.tOff b, (bytesB + 127) / 128, true⟩]
    let old (r k : Nat) : Nat := w.elem (w.aOff d) 4 (16 * r + k)
    let done (i : Instr) (f : Nat → Nat → FRes) : Prop :=
      ∃ v : Warp, exec i s = countTo s w v (cntOf tid (activeElems act f)) ∧ w.WroteElems v act (w.aOff d) 4 (fun r k => (f r k).bits)
    act ≠ 0 → s.Holds w [⟨w.vOff c, 1, true⟩] → (∀ l < 32, act.getLsbD l = true → laneW (w.vreg c) l = x) → (xaf = 15 ∨ xaf.toNat = af) → pair →
    (af ≤ 7 → accf → x.getLsbD 15 = false → tiles a (16 * pitch) → tiles b (16 * pitch) → s.Holds w (reads (16 * pitch) (16 * pitch)) →
      let g := if 2 ≤ af ∧ af ≤ 4 then 16 else 4
      done (.mma p xaf d a b c) (fun r k =>
        if af = 5 then accI sat (n / g) g (w.matI (w.tOff a) n r) (w.matI (w.tOff b) n k) (old r k)
        else accF rm sat adj (n / g) g (w.matF (w.tOff a) af n r) (w.matF (w.tOff b) bf n k) (old r k))) ∧
    (af ∈ [0, 1, 6, 7] → cf = 8 → x.getLsbD 15 = false → s.Holds w (reads (16 * pitch) (16 * pitch)) →
      done (.mmb p xaf d a b c) (fun r k =>
        accF rm sat adj 1 4 (fun i => w.matF (w.tOff a) af 16 r (k / 4 * 4 + i)) (fun i => w.matF (w.tOff b) bf 16 k (k / 4 * 4 + i)) (old r k))) ∧
    (af ∈ [0, 1, 5, 6, 7] → accf → x.getLsbD 15 = true → tiles b (32 * pitch) → s.Holds w (⟨w.vOff mta, 1, true⟩ :: reads (16 * pitch) (32 * pitch)) →
      let word (r : Nat) : Nat := leNat (w.bytes (w.wbo + w.vOff mta) (8 * r) 8)
      done (.mms p xaf mta d a b c) (fun r k =>
        if af = 5 then accI sat (n / 2) 4 (expandAt 0 (w.matI (w.tOff a) n r) (word r)) (w.matI (w.tOff b) (2 * n) k) (old r k)
        else accF rm sat adj (n / 2) 4 (expandAt (.fin false 0 0) (w.matF (w.tOff a) af n r) (word r)) (w.matF (w.tOff b) bf (2 * n) k) (old r k)))

/-- R343-R345: MTRN, MZERO, MSCALE and MCVT complete with the transposed, zero, scaled or converted element in the share of every active lane, and every other
byte of the window is as it was; MCVT to an N format writes the block of every row whose two lanes are active. -/
def Obligations.MatrixMoves : Prop :=
  ∀ (s : State) (w : Warp) (p : Pred) (t a : TReg) (d e : AReg) (vb c : VReg) (x : Word32), s.Executes w →
    let act := w.active p
    let part := !(p.m == 0 && !p.neg)
    let acc (r k : Nat) : Nat := w.elem (w.aOff e) 4 (16 * r + k)
    let done (i : Instr) (tid first b : Nat) (f : Nat → Nat → FRes) (n : Cnt) : Prop :=
      ∃ v : Warp, exec i s = countTo s w v n ∧ n.tid = tid ∧ w.WroteElems v act first b (fun r k => (f r k).bits)
    (s.Holds w [⟨w.tOff t, 4, part⟩, ⟨w.tOff a, 4, true⟩] →
      done (.mtrn p t a) 0 (w.tOff t) 2 (fun r k => { bits := w.elem (w.tOff a) 2 (16 * k + r) }) {}) ∧
    (s.Holds w [⟨w.tOff t, 4, part⟩] → done (.mzero p (.t t)) 0 (w.tOff t) 2 (fun _ _ => { bits := 0 }) {}) ∧
    (s.Holds w [⟨w.aOff d, 8, part⟩] → done (.mzero p (.a d)) 0 (w.aOff d) 4 (fun _ _ => { bits := 0 }) {}) ∧
    (s.Holds w [⟨w.aOff d, 8, part⟩, ⟨w.aOff e, 8, true⟩, ⟨w.vOff vb, 1, true⟩] →
      let f (r k : Nat) : FRes :=
        fmt32.round w.rm w.sat ((fmt32.decode (acc r k)).mul (fmt32.decode (laneW (w.vreg vb) (2 * r + k / 8)).toNat))
      done (.mscale p d e vb) 0 (w.aOff d) 4 f (cntOf 0 (activeElems act f))) ∧
    (let af := x.toNat % 16
     let cf := x.toNat / 256 % 16
     let rm := RM.ofCode (BitVec.ofNat 2 (x.toNat / 2 ^ 12))
     let sat := x.getLsbD 14
     let tid := x.toNat / 2 ^ 16 % 256
     let adj : Int := (BitVec.ofNat 8 (x.toNat / 2 ^ 24)).toInt
     let val (r k : Nat) : FVal := (fmt32.decode (acc r k)).scale adj
     let bytes := [512, 512, 288, 192, 128, 256, 256, 256].getD af 0
     act ≠ 0 → s.Holds w [⟨w.vOff c, 1, true⟩] → (∀ l < 32, act.getLsbD l = true → laneW (w.vreg c) l = x) → x.getLsbD 15 = false →
     s.Holds w [⟨w.tOff t, (bytes + 127) / 128, part || decide (bytes ≠ 512)⟩, ⟨w.aOff e, 8, true⟩] →
      (cf = 8 → af ∈ [0, 1, 6, 7] →
        let f (r k : Nat) : FRes := ([fmtB16, fmt16, fmt32, fmt32, fmt32, fmt32, fmtE4, fmtE5].getD af fmt32).round rm sat (val r k)
        done (.mcvt p t e c) tid (w.tOff t) (bytes / 256) f (cntOf tid (activeElems act f))) ∧
      (cf = 5 → af = 5 → adj = 0 →
        let f (r k : Nat) : FRes :=
          let v := (BitVec.ofNat 32 (acc r k)).toInt
          let u := if sat then max (-128) (min 127 v) else v
          { bits := (u % 256).toNat, sat := sat && decide (u ≠ v) }
        done (.mcvt p t e c) tid (w.tOff t) 1 f (cntOf tid (activeElems act f))) ∧
      (cf = 8 → 2 ≤ af → af ≤ 4 → (∀ r < 16, act.getLsbD (2 * r) = act.getLsbD (2 * r + 1)) →
        let b := nBytes af
        let blk (r : Nat) : NBlk := nEncode af rm ((List.range 16).map (val r))
        let rows := (List.range 16).filter (fun r => act.getLsbD (2 * r))
        let sum (f : NBlk → Nat) : Nat := (rows.map (fun r => f (blk r))).sum
        ∃ v : Warp, exec (.mcvt p t e c) s =
            countTo s w v { tid := tid, sat := sum (fun q => q.sat), fl := sum (fun q => q.fl), nan := sum (fun q => q.nan) } ∧
          v = { w with lines := v.lines } ∧
          (∀ r < 16, v.elem (w.tOff t) b r = if act.getLsbD (2 * r) then (blk r).bits % 2 ^ (8 * b) else w.elem (w.tOff t) b r) ∧
          (∀ k, 16 * b ≤ k → k < 128 * ((bytes + 127) / 128) → v.elem (w.tOff t) 1 k = w.elem (w.tOff t) 1 k) ∧
          ∀ j, (j < w.wbo + w.tOff t ∨ w.wbo + w.tOff t + (bytes + 127) / 128 ≤ j) → v.line j = w.line j))

/-- R342: SPCMP under a voted word that it accepts completes: of every group of four in a row whose two lanes are active the two elements of largest magnitude
(lower indices winning ties) go to D with their bits unchanged, their ascending indices to the row's metadata word, and each NaN examined counts; rows
with no active lane keep their bytes.  Where D and the metadata register overlap, it completes too; the bytes that both write are the model's open
value (log 14). -/
def Obligations.SparseCompress : Prop :=
  ∀ (s : State) (w : Warp) (p : Pred) (t a : TReg) (vb c : VReg) (x : Word32), s.Executes w →
    let act := w.active p
    let part := !(p.m == 0 && !p.neg)
    let af := x.toNat % 16
    let n := if af = 5 then 32 else 16
    let u := if af ≤ 1 then 2 else 1
    let d := w.tOff t
    let m := w.vOff vb
    let lines := 16 * n * u / 128
    let on (r : Nat) : Bool := act.getLsbD (2 * r)
    let larger (r g i j : Nat) : Bool :=
      if af = 5 then decide ((w.matI (w.tOff a) (2 * n) r (4 * g + j)).natAbs < (w.matI (w.tOff a) (2 * n) r (4 * g + i)).natAbs)
      else largerMag (w.matF (w.tOff a) af (2 * n) r (4 * g + i)) (w.matF (w.tOff a) af (2 * n) r (4 * g + j))
    let nans : Nat := if af = 5 then 0 else
      ((List.range (32 * n)).filter (fun k => on (k / (2 * n)) && w.matF (w.tOff a) af (2 * n) (k / (2 * n)) (k % (2 * n)) == .nan)).length
    act ≠ 0 → s.Holds w [⟨w.vOff c, 1, true⟩] → (∀ l < 32, act.getLsbD l = true → laneW (w.vreg c) l = x) → af ∈ [0, 1, 5, 6, 7] → x.getLsbD 15 = false →
    (6 ≤ af ∨ a.toNat + 2 ≤ 64) → (∀ r < 16, act.getLsbD (2 * r) = act.getLsbD (2 * r + 1)) →
    s.Holds w [⟨d, lines, part || decide (6 ≤ af)⟩, ⟨w.tOff a, 2 * lines, true⟩, ⟨m, 1, part⟩] →
    ∃ (q : State) (v : Warp), exec (.spcmp p t a vb c) s = countTo q w v { tid := x.toNat / 2 ^ 16 % 256, nan := nans } ∧
      v = { w with lines := v.lines } ∧ (∀ j, (j < w.wbo + d ∨ w.wbo + d + lines ≤ j) → j ≠ w.wbo + m → v.line j = w.line j) ∧
      (q = s ∨ (d ≤ m ∧ m < d + lines ∧ q = { s with free := s.free + 1 })) ∧
      ((m < d ∨ d + lines ≤ m) → ∃ i0 i1 : Nat → Nat → Nat,
        (∀ r g, i0 r g < i1 r g ∧ i1 r g < 4) ∧
        (∀ r < 16, on r = true → ∀ g < n / 2,
          (∀ j < 4, j ≠ i0 r g → j ≠ i1 r g → ∀ i, i = i0 r g ∨ i = i1 r g → larger r g i j = true ∨ (larger r g j i = false ∧ i < j)) ∧
          v.elem d u (n * r + 2 * g) = w.elem (w.tOff a) u (2 * n * r + 4 * g + i0 r g) ∧
          v.elem d u (n * r + 2 * g + 1) = w.elem (w.tOff a) u (2 * n * r + 4 * g + i1 r g)) ∧
        (∀ r < 16, on r = false → (∀ i < n, v.elem d u (n * r + i) = w.elem d u (n * r + i)) ∧ v.elem m 8 r = w.elem m 8 r) ∧
        ∀ r < 16, on r = true → v.elem m 8 r = ((List.range (n / 2)).map (fun g => (i0 r g + 4 * i1 r g) * 16 ^ g)).sum)

/-! ## Engine instructions -/

/-- R351-R354: XCP and XCP.tmpl trap with ALIGN on a descriptor address that is no multiple of 64 and on records or ring headers that are misaligned, with ILLEGAL
on field values that R351 does not allow; then, when their checks and probes pass and an entry of every table is free, they complete: the copy is
queued behind those of its core, as the newest of the warp's pending set.  The descriptor is read and checked once: an XCP that waits for the queue
or the lock table keeps the operation.  A copy between scratchpad rows whose descriptor the L1 holds completes on conditions of the state alone.
What a waiting instruction keeps and the corner cases of the checks are the model's reading (logs 37, 38). -/
def Obligations.CopiesStart : Prop :=
  ∀ (s : State) (w : Warp) (a : SReg) (form : Option XDim), s.Executes w →
    let i : Instr := match form with
      | some dim => .xcp dim a
      | none => .xcpTmpl a
    let place : Word := match form with
      | some _ => w.s a
      | none => BitVec.ofNat 64 (0x00FFFFFFFFFB0000 + 128 * ((w.s a).toNat % 2048))
    let issue := issueRelease w.agent
    (form.isSome = true → (w.s a).toNat % 64 ≠ 0 → exec i s = trapTo s w { cause := 0x05, va := w.s a }) ∧
    (∀ h o p t, place.toNat % 64 = 0 → (s.part w.part).qst ≠ .reshaping → w.hold = some h → h.op = some o →
      Answers (copyStart w.agent o issue) s p t → s.GoesOn t w → exec i s = copyTo t w p) ∧
    (place.toNat % 64 = 0 → (s.part w.part).qst ≠ .reshaping → w.unissued → ∀ bs : List Byte,
      let f (o n : Nat) : Nat := leNat ((bs.drop o).take n)
      let wd (o : Nat) : Word := BitVec.ofNat 64 (f o 8)
      let len := f 48 4
      let rows := f 52 4
      let planes := f 56 4
      let flags := f 60 4
      let ring := flags / 4 % 2 = 1
      let dim : Nat := match form with
        | some .d1 => 1
        | some .d2 => 2
        | some .d3 => 3
        | none => if 1 < planes then 3 else if 1 < rows then 2 else 1
      let legal := 1 ≤ len ∧ len ≤ 2 ^ 24 ∧ 1 ≤ rows ∧ rows ≤ 65536 ∧ 1 ≤ planes ∧ planes ≤ 65536 ∧ flags < 8 ∧ f 80 48 = 0 ∧
        ¬(ring ∧ flags / 2 % 2 = 1) ∧ (dim < 2 → rows = 1 ∧ f 16 8 = 0 ∧ f 24 8 = 0) ∧ (dim < 3 → planes = 1 ∧ f 32 8 = 0 ∧ f 40 8 = 0)
      let even := f 64 8 % 32 = 0 ∧ f 72 8 % 32 = 0 ∧ (ring → f 8 8 % 64 = 0)
      let x : XDesc := { src := wd 0, dst := wd 8, sstr1 := wd 16, dstr1 := wd 24, sstr2 := wd 32, dstr2 := wd 40, len := len, rows := rows,
                         planes := planes, spad := flags % 2 == 1, dpad := flags / 2 % 2 == 1 }
      let q : CopyReq := { x := x, ring := if flags / 4 % 2 == 1 then some (wd 8) else none, crec := f 64 8, jrec := f 72 8 }
      let op (sys : Bool) : EngOp := { newOp w.agent w.wid w.launch (.copy x) q.crec q.jrec [] sys with ring := q.ring.map (fun r => (r, 0)) }
      (∀ u, Answers (descRead w.agent place 128) s bs u → s.GoesOn u w →
        (f 64 8 % 32 ≠ 0 → exec i s = trapIn s u w { cause := 0x05, va := wd 64 }) ∧
        (f 64 8 % 32 = 0 → f 72 8 % 32 ≠ 0 → exec i s = trapIn s u w { cause := 0x05, va := wd 72 }) ∧
        (f 64 8 % 32 = 0 → f 72 8 % 32 = 0 → ring → f 8 8 % 64 ≠ 0 → exec i s = trapIn s u w { cause := 0x05, va := wd 8 }) ∧
        (even → ¬legal → exec i s = trapIn s u w (trapOf 0x01)) ∧
        (even → legal → ∀ sys v, Answers (copyChecks w.agent q) u sys v →
          (∀ o t, Answers (copyStart w.agent (op sys) issue) (v.holding w (op sys)) o t → s.GoesOn t w → exec i s = copyTo t w o) ∧
          (s.GoesOn v w → 64 ≤ (v.copyq.filter (fun e => e.1 == w.core)).length →
            exec i s = waitTo (v.holding w (op sys)) w 0))) ∧
      (s.descHeld w place 128 bs → even → legal → ¬ring → x.spad = true → x.dpad = true → f 64 8 = 0 → f 72 8 = 0 → 2 ≤ s.freeLocks w.core →
        (s.copyq.filter (fun e => e.1 == w.core)).length < 64 → (∀ r ∈ x.srcRngs ++ x.dstRngs, s.rngFree w r) →
        (∀ r ∈ x.rowList, ∀ r' ∈ x.rowList,
          (r.1.toNat + len - 1) / 128 < r'.2.toNat / 128 ∨ (r'.2.toNat + len - 1) / 128 < r.1.toNat / 128) →
        s.quiet w →
        ∃ t : State, exec i s = copyTo t w { op false with locks := boundLock x.srcRngs false ++ boundLock x.dstRngs true } ∧
          t = { s with cores := t.cores, warps := t.warps } ∧ s.SameBytes t))

/-- R355, R356, R368: XBATCH waits while 63 batches are held, else it moves the pending set into a batch under the next number, which D receives; XWAIT waits
while an operation of a batch that it covers is not posted, else it forgets those batches after its acquire, with Z set when each ended well; RLQ
gives what the core's range-lock table holds on a line, with PAD_BOUND or NONCANON for a place that does not exist.
Waiting is the model's form (log 37). -/
def Obligations.BatchesAndLocks : Prop :=
  ∀ (s : State) (w : Warp) (d a : SReg), s.Executes w →
    (63 ≤ w.batches.length → exec (.xbatch d) s = .next (s.setWarp (w.waiting 0))) ∧
    (w.batches.length < 63 → exec (.xbatch d) s =
      regionTo { s with ops := s.ops.map (fun o => if o.oid ∈ w.pend then { o with batch := w.nbatch } else o) }
        (Warp.setS { w with batches := w.batches ++ [(w.nbatch, w.pend)], pend := [], nbatch := w.nbatch % 65535 + 1 } d
          (BitVec.ofNat 64 w.nbatch))) ∧
    (let n := (w.s a).toNat % 65536
     let cov := w.batches.filter (fun b => decide (n ≠ 0) && decide ((n + 65535 - b.1) % 65535 < 32768))
     let ops := (cov.flatMap (fun b => b.2)).filterMap s.op?
     let sc : Scope := if ops.any (fun o => o.sys) then .sys else .wafer
     let ended : Warp := { w with batches := w.batches.filter (fun b => decide (b ∉ cov)), z := ops.all (fun o => o.status == 1 || o.status == 3),
                                  n := false, c := false, v := false }
     ((∃ o ∈ ops, o.posted = false) → exec (.xwait a) s = waitTo s w 0) ∧
     (ops = [] → exec (.xwait a) s = regionTo (s.setWarp ended).gcOps ended) ∧
     (ops ≠ [] → (∀ o ∈ ops, o.posted = true) → s.acqWaits w sc = false → ∀ u, Gives (acqAt w sc) s () u → s.GoesOn u w →
       exec (.xwait a) s = regionTo (u.setWarp ended).gcOps ended)) ∧
    (let x := w.s a
     let pad := x.msb
     let ln := (if pad then x.toNat % 2 ^ 20 else x.toNat) / 128
     let mine := s.ops.filter (fun o => o.core == w.core && !o.freed && !o.held)
     let same := mine.filter (fun o => o.part == w.part && o.asid == w.asid)
     let hit (l : Lock) : Bool := l.pad == pad && decide (l.lo ≤ ln) && decide (ln ≤ l.hi)
     let free := 256 - (mine.flatMap (fun o => o.locks)).length
     let on (wr : Bool) : Nat := if same.any (fun o => o.locks.any (fun l => hit l && l.wr == wr)) then 1 else 0
     (pad = true → x.toNat % 2 ^ 63 ≥ 2 ^ 20 → exec (.rlq d a) s = trapTo s w { cause := 0x0D, va := x }) ∧
     (pad = false → x.toNat ≥ 2 ^ 56 → exec (.rlq d a) s = trapTo s w { cause := 0x06, wst := 5, va := x }) ∧
     ((if pad then x.toNat % 2 ^ 63 < 2 ^ 20 else x.toNat < 2 ^ 56) → exec (.rlq d a) s =
       regionTo s (w.setS d (BitVec.ofNat 64 (free * 2 ^ 16 + min 255 (same.filter (fun o => o.locks.any hit)).length * 2 ^ 8 + on true * 2 + on false)))))

/-- R357-R362: the ring instructions read the header and trap with ALIGN on an address that is no multiple of 64 and with RING_STATE on a header or operand that
they do not accept.  Else RINIT writes NSLOT, clears ERR and the counters and writes CORE; RAWAIT waits for a filled slot and for those that came
before it, takes the slot, and gives its number in D and ERR in V; RREL releases the oldest slot in order; RFILL starts a copy of one slot, as long as the header that its claim finds makes it.  With a
header in the core's scratchpad each completes on conditions of the state alone.
What a waiting instruction keeps and the strides from the slot's start are the model's reading (logs 37, 38). -/
def Obligations.RingInstructions : Prop :=
  ∀ (s : State) (w : Warp) (d a b : SReg), s.Executes w →
    let h := w.s a
    let n := (w.s b).toNat
    let issue := issueRelease w.agent
    let took (t : State) (r : Ring) : Out :=
      regionTo t { w.setS d (BitVec.ofNat 64 (r.tk % r.nslot)) with z := r.err == 0, n := false, c := false, v := r.err != 0 }
    let fill (r : Ring) : XDesc :=
      { src := BitVec.ofNat 64 (n % 2 ^ 63), dst := h, sstr1 := 0, dstr1 := 0, sstr2 := 0, dstr2 := 0, len := r.slotsz, rows := 1, planes := 1,
        spad := (w.s b).msb, dpad := false }
    let op (r : Ring) (sys : Bool) : EngOp := { newOp w.agent w.wid w.launch (.copy (fill r)) 0 0 [] sys with ring := some (h, 0), fill := true }
    (h.toNat % 64 ≠ 0 → ∀ i ∈ [Instr.rinit a b, .rawait d a, .rrel a b, .rfill a b], exec i s = trapTo s w { cause := 0x05, va := h }) ∧
    (s.padHeader w h → Answers (ringHead w h) s (s.padRing w.core h) s) ∧
    (∀ (r : Ring) (u : State), Answers (ringHead w h) s r u → s.GoesOn u w →
      let put (ps : List RecPut) : SM Unit := ringWrite w.agent h ps
      (n = 0 ∨ 4096 < n ∨ r.cl ≠ r.wr ∨ r.baseOK = false → exec (.rinit a b) s = trapIn s u w (trapOf 0x16)) ∧
      (1 ≤ n → n ≤ 4096 → r.cl = r.wr → r.baseOK = true →
        ∀ v, Gives (do relAt w .wafer; put [(12, 2, n), (15, 1, 0), (16, 24, 0), (40, 2, w.core)]; dropFills w h (fun _ => true)) u () v → s.GoesOn v w →
          exec (.rinit a b) s = regionTo v w) ∧
      (r.ok w.core = false → exec (.rawait d a) s = trapIn s u w (trapOf 0x16)) ∧
      (r.ok w.core = true →
        let sc : Scope := if u.ops.any (fun o => o.sys && o.fills w h == some r.tk) then .sys else .wafer
        (r.tk = r.wr ∨ u.acqWaits w sc = true ∨ u.awaitTurn w h = false → exec (.rawait d a) s = waitTo (leaves (awaitHold w h) u) w 0) ∧
        (r.tk ≠ r.wr → u.acqWaits w sc = false → u.awaitTurn w h = true →
          ∀ v, Gives (do put [(24, 4, (r.tk + 1) % 2 ^ 32)]; acqAt w sc; dropFills w h (fun q => q == r.tk)) u () v → s.GoesOn v w →
            exec (.rawait d a) s = took v r)) ∧
      (r.ok w.core = false ∨ r.tk = r.rl ∨ n ≠ r.rl % r.nslot → exec (.rrel a b) s = trapIn s u w (trapOf 0x16)) ∧
      (r.ok w.core = true → r.tk ≠ r.rl → n = r.rl % r.nslot →
        ∀ v, Gives (do relAt w .wafer; put [(28, 4, (r.rl + 1) % 2 ^ 32)]) u () v → s.GoesOn v w → exec (.rrel a b) s = regionTo v w) ∧
      (w.unissued → ∀ sys v o t, Answers (copyChecks w.agent { x := fill r, ring := some h, crec := 0, jrec := 0, fill := true }) u sys v →
        Answers (copyStart w.agent (op r sys) issue) (v.holding w (op r sys)) o t → s.GoesOn t w → exec (.rfill a b) s = copyTo t w o)) ∧
    (s.padHeader w h →
      let r := s.padRing w.core h
      (1 ≤ n → n ≤ 4096 → r.cl = r.wr → r.baseOK = true → s.quiet w →
        ∃ t : State, exec (.rinit a b) s = regionTo t w ∧ t = { s with cores := t.cores, pads := t.pads, ops := t.ops }) ∧
      (r.ok w.core = true → r.tk ≠ r.wr → s.awaitTurn w h = true → (∀ o ∈ s.ops, o.sys = false) →
        ∃ t : State, exec (.rawait d a) s = took t r ∧ t = { s with cores := t.cores, pads := t.pads, ops := t.ops }) ∧
      (r.ok w.core = true → r.tk ≠ r.rl → n = r.rl % r.nslot → s.quiet w →
        ∃ t : State, exec (.rrel a b) s = regionTo t w ∧ t = { s with cores := t.cores, pads := t.pads }) ∧
      (let ring : Rng := { pad := true, a := BitVec.ofNat 64 r.base, n := r.slotsz * r.nslot, acc := [.store] }
       r.ok w.core = true → w.unissued → r.pad = true → (w.s b).msb = true → (∀ q ∈ ring :: (fill r).srcRngs, s.rngFree w q) →
       (n % 2 ^ 63 + r.slotsz - 1) / 128 < r.base / 128 ∨ (r.base + r.slotsz * r.nslot - 1) / 128 < n % 2 ^ 63 / 128 →
       ctrDiff r.cl r.rl < r.nslot → ctrDiff r.cl r.wr < 64 → 2 ≤ s.freeLocks w.core → (s.copyq.filter (fun e => e.1 == w.core)).length < 64 → s.quiet w →
       ∃ (t : State) (o : EngOp), exec (.rfill a b) s = copyTo t w o ∧ o.ring = some (h, r.cl) ∧
         o.desc = .copy { fill r with dst := BitVec.ofNat 64 (r.base + r.slotsz * (r.cl % r.nslot)), dpad := true } ∧
         t = { s with cores := t.cores, pads := t.pads, warps := t.warps }))

/-- R152-R154, R363: MVS traps with ALIGN on a misaligned descriptor, with ILLEGAL and then ALIGN on the field values of R152; when its probes pass, its matrix lies in
one stack and an entry is free in the stack's queue and the lock table, it completes: the operation is queued at the stack, as the newest of the
warp's pending set.  With its descriptor in the L1, the pages of W in the gates and x and y in the scratchpad it completes on conditions of the
state alone.
The addresses of its traps are the model's reading (log 38). -/
def Obligations.StackProduct : Prop :=
  ∀ (s : State) (w : Warp) (a : SReg), s.Executes w →
    let issue := issueRelease w.agent
    let queued (t : State) (st : Nat) (o : EngOp) : Out :=
      regionTo ((t.withOp o).updStack st (fun x => { x with queue := x.queue ++ [t.fresh] })) (w.issued t)
    ((w.s a).toNat % 64 ≠ 0 → exec (.mvs a) s = trapTo s w { cause := 0x05, va := w.s a }) ∧
    (∀ h o t, (w.s a).toNat % 64 = 0 → (s.part w.part).qst ≠ .reshaping → w.hold = some h → h.op = some o → o.locks.length ≤ s.freeLocks w.core →
      (s.stack o.engine).queue.length < 64 → Gives (issue o.locks) s () t → s.GoesOn t w → exec (.mvs a) s = queued t o.engine o) ∧
    ((w.s a).toNat % 64 = 0 → (s.part w.part).qst ≠ .reshaping → w.unissued → ∀ bs : List Byte,
      let f (o n : Nat) : Nat := leNat ((bs.drop o).take n)
      let fl := f 36 4
      let k := f 28 4
      let row := if fl % 4 = 0 then 2 * k else if fl % 4 = 1 then 18 * k / 16 else 12 * k / 16
      let y := if fl / 16 % 2 = 1 then 2 else 4
      let m : MDesc := { wva := f 0 8, xva := f 8 8, yva := f 16 8, m := f 24 4, k := k, wstr := f 32 4, wfmt := fl % 4, xsrc := fl / 4 % 2 == 1,
                         ydst := fl / 8 % 2 == 1, yfmt := fl / 16 % 2 == 1, stack := 0 }
      let crec := f 40 8
      let jrec := f 48 8
      let codes := fl % 4 ≠ 3 ∧ fl < 32 ∧ f 56 8 = 0
      let sizes := 1 ≤ m.m ∧ m.m ≤ 65536 ∧ 16 ≤ k ∧ k ≤ 65536 ∧ k % 16 = 0 ∧ m.wstr % 2 = 0 ∧ row ≤ m.wstr
      let even := m.wva % 2 = 0 ∧ m.xva % 2 = 0 ∧ m.yva % y = 0 ∧ crec % 32 = 0 ∧ jrec % 32 = 0
      let xy := [m.xRng, m.yRng]
      let jr := (jrecRng jrec).map (fun r => { r with acc := [.store] })
      let locks := boundLock m.wRngs false ++ boundLock [m.xRng] false ++ boundLock [m.yRng] true ++ boundLock (crecRng crec) true
      let op (st : Nat) (sys : Bool) : EngOp := newOp w.agent w.wid w.launch (.mvs { m with stack := st }) crec jrec locks sys
      (∀ u, Answers (descRead w.agent (w.s a) 64) s bs u → s.GoesOn u w →
        (¬codes → exec (.mvs a) s = trapIn s u w (trapOf 0x01)) ∧
        (codes → ¬sizes → exec (.mvs a) s = trapIn s u w (trapOf 0x05)) ∧
        (codes → sizes → even → ∀ u1 u2 u3 u4 v st sys,
          Answers (orProbe (probeAll w.agent (rngPages (m.wRngs ++ xy ++ crecRng crec ++ jr)))) u () u1 →
          Answers (stackOf w.agent m.wRngs) u1 st u2 → Answers (probeRngs w.agent (xy.filter (fun r => r.pad))) u2 () u3 →
          Gives (rngSys w.agent (xy ++ crecRng crec)) u3 sys u4 → locks.length ≤ u4.freeLocks w.core → (u4.stack st).queue.length < 64 →
          Gives (issue locks) (u4.holding w (op st sys)) () v → s.GoesOn v w → exec (.mvs a) s = queued v st (op st sys))) ∧
      (∀ st, s.descHeld w (w.s a) 64 bs → codes → sizes → even → crec = 0 → jrec = 0 → m.xsrc = true → m.ydst = true →
        s.rngFree w m.xRng → s.rngFree w m.yRng →
        (∀ q ∈ rngPages m.wRngs, ∃ g, s.gateGrants w q.1 q.2 g ∧ g.aff = true ∧ g.pa / 2 ^ 36 % 64 = st) →
        locks.length ≤ s.freeLocks w.core → (s.stack st).queue.length < 64 → s.quiet w →
        ∃ t : State, exec (.mvs a) s = queued t st (op st false) ∧ t = { s with cores := t.cores, warps := t.warps } ∧ s.SameBytes t))

/-- R364-R367: CRED, CAG and CMC trap with ALIGN on a misaligned descriptor; when the checks of R364 and R365 pass they complete: a count or a target mask of 0 gives
EMPTY (3) in D at once, behind the release of their issue; else D is 0, the operation is started, and the contribution of a CRED or CAG joins its
instance.  A failed check traps with the cause that R364 or R367 names for it, and so does a contribution that waited while another warp made it.  With the descriptor in the L1 and the pages in the gates, and for
CRED and CAG a source that one home serves, they complete on conditions of the state alone.
The corner cases of log 39 are the model's reading. -/
def Obligations.CollectivesStart : Prop :=
  ∀ (s : State) (w : Warp) (d a : SReg) (cag : Bool), s.Executes w →
    let i : Instr := if cag then .cag d a else .cred d a
    let issue := issueRelease w.agent
    ((w.s a).toNat % 64 ≠ 0 → exec i s = trapTo s w { cause := 0x05, va := w.s a } ∧
      exec (.cmc d a) s = trapTo s w { cause := 0x05, va := w.s a }) ∧
    (∀ h o, (w.s a).toNat % 64 = 0 → (s.part w.part).qst ≠ .reshaping → w.hold = some h → h.op = some o → o.coll.count ≠ 0 →
      o.locks.length ≤ s.freeLocks w.core → s.contributed w.part o.coll = true → exec i s = trapTo s w (trapOf 0x0B)) ∧
    ((w.s a).toNat % 64 = 0 → (s.part w.part).qst ≠ .reshaping → w.unissued → ∀ bs : List Byte,
      let f (o n : Nat) : Nat := leNat ((bs.drop o).take n)
      let crec := f 32 8
      let jrec := f 40 8
      let c : CDesc := { src := f 0 8, dst := f 8 8, len := f 16 4, count := f 20 1, op := f 21 1, ty := f 22 1, whr := f 23 1, key := f 24 4,
                         root := f 28 2, tmask := BitVec.ofNat 64 (f 48 8), gid := 0, member := 0 }
      let src : Rng := { pad := false, a := BitVec.ofNat 64 c.src, n := c.len, acc := [.load] }
      let dst : Rng := { pad := false, a := BitVec.ofNat 64 c.dst, n := if cag then c.count * c.len else c.len, acc := [.store] }
      let locks := boundLock [src] false ++ boundLock [dst] true ++ boundLock (crecRng crec) true
      let gave (u : State) (g k : Nat) : Bool := (u.openColl w.part c.whr g c.key).any (fun x => x.contribs.any (fun e => e.1 == k))
      let full (u : State) (g k : Nat) : Bool := decide (u.liveMembers w c.whr g < c.count) || gave u g k
      let op (g k : Nat) (sys : Bool) : EngOp :=
        newOp w.agent w.wid w.launch (if cag then .cag { c with gid := g, member := k } else .cred { c with gid := g, member := k })
          crec jrec locks (sys || c.whr == 1)
      let own := c.whr = 255 ∨ c.whr = Config.ownWafer.toNat
      let ts := ((List.range 64).filter (fun b => c.tmask.getLsbD b)).map (fun b => (c.root % 64 + b % 8, c.root / 256 % 64 + b / 8))
      let out (u : State) : Bool := ts.any (fun t => decide (36 ≤ t.1) || decide (36 ≤ t.2) || u.partOfCore (coreAt t.1 t.2) != w.part)
      let mine : List Rng := if own ∧ (w.core % 36, w.core / 36) ∈ ts then [{ pad := true, a := BitVec.ofNat 64 c.dst, n := c.len, acc := [.store] }] else []
      let clocks := boundLock [src] false ++ boundLock mine true ++ boundLock (crecRng crec) true
      let cop (sys : Bool) : EngOp := newOp w.agent w.wid w.launch (.cmc c) crec jrec clocks (sys || !c.own)
      let who (u : State) : Option (Nat × Nat) := if c.whr = 0 then (u.core w.core).xch.mem else some (w.asid.toNat, Config.ownWafer.toNat)
      (∀ u, Answers (descRead w.agent (w.s a) 64) s bs u → crec % 32 = 0 → jrec % 32 = 0 →
        (∀ u1, Answers (probeRngs w.agent ([src, dst] ++ crecRng crec ++ jrecRng jrec)) u () u1 → s.GoesOn u1 w →
          (collBad bs c cag = true → exec i s = trapIn s u1 w (trapOf 0x01)) ∧
          (collBad bs c cag = false → who u1 = none → exec i s = trapIn s u1 w (trapOf 0x0C)) ∧
          (∀ g k, collBad bs c cag = false → who u1 = some (g, k) →
            (full u1 g k = true → exec i s = trapIn s u1 w (trapOf 0x0B)) ∧
            (full u1 g k = false → ∀ sys u2, Gives (rngSys w.agent ([src, dst] ++ crecRng crec)) u1 sys u2 →
              ∀ u3, Gives (issue locks) (u2.holding w (op g k sys)) () u3 →
              (c.count ≠ 0 → locks.length ≤ u2.freeLocks w.core → gave u2 g k = false →
                (∀ xs v, Gives (engBytes w.agent src.a (lineCap c.len) c.len) (u3.withOp (op g k sys)) (some xs) v → s.GoesOn v w →
                  exec i s = regionTo (leaves (contribute w.part g { c with gid := g, member := k } cag u3.fresh xs) v) ((w.issued u3).setS d 0)) ∧
                (∀ v, Gives (engBytes w.agent src.a (lineCap c.len) c.len) (u3.withOp (op g k sys)) none v → s.GoesOn v w →
                  exec i s = regionTo (v.updOp u3.fresh (fun x => { x with status := 5 })) ((w.issued u3).setS d 0))) ∧
              (c.count = 0 →
                let t := (credTy c.ty).getD .b32
                let fill : SM Nat := if cag then pure 0 else engPut w.agent dst.a (lineCap c.len) (fillElems (redIdent (credOp c.op) t) t.bytes c.len)
                ∀ n u4, Gives fill u3 n u4 → ∀ v,
                  Gives (completeOp u4.fresh) ((u4.withOp { op g k sys with status := 3, prog := n, locks := [] }).setWarp ((w.issued u4).setS d 3)) () v →
                  s.GoesOn v w → exec i s = regionTo v ((w.issued u4).setS d 3))))) ∧
        (∀ u1, Answers (probeRngs w.agent ([src] ++ crecRng crec ++ jrecRng jrec)) u () u1 →
          (cmcBad bs c = true → s.GoesOn u1 w → exec (.cmc d a) s = trapIn s u1 w (trapOf 0x01)) ∧
          (cmcBad bs c = false → ∀ sys u2, Gives (rngSys w.agent ([src] ++ crecRng crec)) u1 sys u2 → s.GoesOn u2 w →
            (c.tmask ≠ 0 → own → out u2 = true → exec (.cmc d a) s = trapIn s u2 w (trapOf 0x0A)) ∧
            (c.tmask ≠ 0 → own → out u2 = false → 2 ^ 20 < c.dst + c.len →
              exec (.cmc d a) s = trapIn s u2 w { cause := 0x0D, va := BitVec.ofNat 64 c.dst }) ∧
            ∀ v, Gives (issue clocks) (u2.holding w (cop sys)) () v →
              (c.tmask ≠ 0 → (own → out u2 = false ∧ c.dst + c.len ≤ 2 ^ 20) → clocks.length ≤ u2.freeLocks w.core → s.GoesOn v w →
                exec (.cmc d a) s = regionTo (v.withOp (cop sys)) ((w.issued v).setS d 0)) ∧
              (c.tmask = 0 → ∀ t,
                Gives (completeOp v.fresh) ((v.withOp { cop sys with status := 3, prog := 0, locks := [] }).setWarp ((w.issued v).setS d 3)) () t →
                s.GoesOn t w → exec (.cmc d a) s = regionTo t ((w.issued v).setS d 3))))) ∧
      (s.descHeld w (w.s a) 64 bs → crec = 0 → jrec = 0 → s.rngFree w src → s.quiet w →
        (∀ g k, collBad bs c cag = false → who s = some (g, k) → full s g k = false → s.rngFree w dst → c.count ≠ 0 → 1 ≤ c.len →
          c.src % 128 + c.len ≤ 128 → c.src < 2 ^ 56 → locks.length ≤ s.freeLocks w.core → s.homeServes w (w.agent.key c.src) →
          ∃ t : State, exec i s = regionTo t ((w.issued s).setS d 0)) ∧
        (cmcBad bs c = false → c.tmask ≠ 0 → (own → out s = false ∧ c.dst + c.len ≤ 2 ^ 20) → clocks.length ≤ s.freeLocks w.core →
          ∃ (t : State) (sys : Bool), exec (.cmc d a) s = regionTo (t.withOp (cop sys)) ((w.issued s).setS d 0) ∧
            t = { s with cores := t.cores, warps := t.warps })))

/-! ## Steps of other agents -/

/-- R201, R202, R385, R205, R397, R398, R230, R55, R63: the steps inside a sub-core complete.  ISSUE_CYCLE issues the head of the candidates and the next slot with
it when the line's PAIR bit says so and neither case of R235 stands against it, else the head of the others, a harvest warp's only when no owner's issues; INSTRUCTION_RETIRE runs the warp's next
instruction, or restarts its region at a mismatch and kills it at the fourth; the line of a window used least recently leaves, and is written back when it is
dirty; a line that comes back leaves the Kennel.
What is predicted, what pairs behind instructions that have not retired, and which line of a warp leaves are the model's choice
(logs 40, 51, 61). -/
def Obligations.PipelineSteps : Prop :=
  ∀ (s : State) (w : Warp), s.powered →
    (∀ core sub, s.headOf (s.cands core sub) = some w → (4 ≤ pcSlot w.nextIssue ∨ (s.codeLine w w.nextIssue).isSome = true) →
      let pair : Bool := decide (pcSlot w.nextIssue < 4) && (s.codeLine w w.nextIssue).any (fun d =>
        (lineWord d).getLsbD (5 + pcSlot w.nextIssue) && !sameKind (slotWord d (pcSlot w.nextIssue)) (slotWord d (pcSlot w.nextIssue + 1)) &&
          !takenBranch w (slotWord d (pcSlot w.nextIssue)))
      let v := w.issue s.plat.cc
      exec (.issueCycle core sub) s =
        (if pair = true ∧ v.liveRob.length < 48 then nowTo (s.setWarp (v.issue s.plat.cc))
         else match s.headOf ((s.cands core sub).filter (fun x => x.wid != w.wid && (w.harvest || !x.harvest))) with
          | some x => nowTo ((s.setWarp v).setWarp (x.issue s.plat.cc))
          | none => nowTo (s.setWarp v))) ∧
    (s.warp? w.wid = some w →
      (s.ready? w = true → 256 ≤ s.waited w → exec (.starvationPromotion w.wid) s = nowTo (s.setWarp { w with promo := true })) ∧
      (∀ r1 e r2, w.liveRob = r1 ++ e :: r2 → (∀ x ∈ r1, x.done = true) → e.done = false →
        exec (.loadReply w.wid) s =
          nowTo (s.setWarp { w with rob := r1 ++ { e with done := true } :: r2, wait := false, reply := none })) ∧
      (s.ready? w = true → (∃ t, exec (.instructionRetire w.wid false) s = .next t) ∧
        (∀ d i, s.codeLine w w.pc = some d → (lineWord d).extractLsb' 15 17 = 0#17 → decode (slotWord d (pcSlot w.pc)) = .ok i →
          (w.g16 && isMatrix i) = false →
          exec (.instructionRetire w.wid false) s = exec i { s.setWarp { w with since := s.plat.cc } with cur := some w.wid }) ∧
        (w.chk = true → w.mid = 0 → exec (.instructionRetire w.wid true) s =
          (if w.rcnt = 3 then nowTo (s.kill w { cause := 0x12 } false true)
           else nowTo (s.setWarp { w.goTo w.regpc with rcnt := w.rcnt + 1, rob := [] })))) ∧
      (∀ e r i u t, w.liveRob = e :: r → Gives (fetchInstr w) { s with cur := some w.wid } (.ok i) u → branchDest i w u = some t →
        t ≠ ((r.head?).map (fun x => x.pc)).getD w.fpc →
        exec (.branchMispredict w.wid) s = nowTo (s.setWarp { w with rob := [e], fpc := t })) ∧
      (∀ l : WLine, (w.kennel ++ w.lines).getLast? = some l → s.mustEvict w = true → s.evictsFirst w = true → (s.part w.part).qst ≠ .reshaping →
        exec (.windowLineEvict w.wid) s = after (evictOne w l.idx) s ∧
        ((w.lines ++ w.kennel).find? (fun x => x.idx == l.idx) = some l → l.dirty = false →
          let v : Warp := { w with lines := w.lines.filter (fun x => x.idx != l.idx), kennel := w.kennel.filter (fun x => x.idx != l.idx) }
          exec (.windowLineEvict w.wid) s = nowTo (s.setWarp { v with shed := w.shed && v.overQuota }))) ∧
      (∀ i, w.st = .running → i < w.wres → w.hasLine i = false → w.inKennel i = false → s.renameWaits w = false →
        exec (.windowLineFill w.wid i) s = after (fillFor w i) s) ∧
      (∀ l : WLine, w.st = .running → w.kennel.find? (fun x => x.idx == l.idx) = some l → w.hasLine l.idx = false → s.renameWaits w = false →
        exec (.kennelLineReturn w.wid l.idx) s =
          nowTo (s.setWarp { w with lines := l :: w.lines, kennel := w.kennel.filter (fun x => x.idx != l.idx) }))) ∧
    (∀ core key, s.codeOf core key ≠ [] → exec (.fetchParityRefetch core key) s = after (refetch core (s.codeOf core key)) s)

/-- R15, R20-R22, R26, R315: the steps of a memory gate complete.  A request that the translation cache holds is answered with its status, and one that fails leaves no entry; another joins the walk in
flight for its page or queues; a queued walk takes one of 1,024 slots with all requests for its page; a walk's end answers each of them, and none stays.
An upgrade gives Wr to every copy; a probe leaves the line in the L1 without data.
R76-R97, R315: the steps of the wafer-wide cache and of the L1s complete: reads, writes and pins at an anchor, the notices, invalidations and acknowledgements in
flight in their order, the end of a migration, evictions of lines that are neither pinned nor migrating, the epoch sweep every 16,384 cc and the
window reset every 65,536 cc.  A read at a home refreshes the line and the core's hint, a pin request pins it, and a write merges its bytes there;
what is evicted is gone from where it stood, and a sweep leaves no stale copy.
The corner cases of logs 27 and 57 are the model's reading. -/
def Obligations.MemorySteps : Prop :=
  (∀ (s : State), s.powered →
     (∀ gate (key : LineKey) (w : Warp), s.warp? w.wid = some w → w.part = key.part → w.asid = key.asid → gate = bankRet (s.anchor key) →
       let k : Walk := { gate := gate, key := key, wid := w.wid }
       let held := s.gates.gtc.find? (fun e => e.holds gate key.part key.asid (keyVa key))
       (∀ e, held = some e →
         let told (x : Nat) : State := s.updWarps (fun v => v.wid == w.wid) (fun v => { v with reply := some (key.ln, x) })
         (∀ f, leafPa (s.part key.part) e.pte e.lvl (keyVa key) = .ok f → exec (.gateRequest gate w.wid key) s = nowTo (told 0)) ∧
         ∀ x, leafPa (s.part key.part) e.pte e.lvl (keyVa key) = .error x →
           exec (.gateRequest gate w.wid key) s = nowTo { told x with
             gates := { s.gates with gtc := s.gates.gtc.filter (fun y => !y.holds gate key.part key.asid (keyVa key)) } }) ∧
       (held = none → exec (.gateRequest gate w.wid key) s =
         nowTo { s with gates := if s.gates.slots.any (fun x => s.samePage x k) then { s.gates with slots := s.gates.slots ++ [k] }
                                 else { s.gates with queue := s.gates.queue ++ [k] } })) ∧
     (∀ gate k, s.gates.queue.find? (fun x => x.gate == gate && (s.part x.key.part).qst != .reshaping) = some k →
       s.slotsBusy gate = false →
       exec (.walkStart gate) s =
         nowTo { s with gates := { s.gates with slots := s.gates.slots ++ s.gates.queue.filter (fun x => s.samePage x k),
                                                queue := s.gates.queue.filter (fun x => !s.samePage x k) } }) ∧
     (∀ gate k, s.gates.slots.find? (fun x => x.gate == gate && (s.part x.key.part).qst != .reshaping) = some k →
       let m : SM Unit := do let _ ← endWalk k; pure ()
       exec (.walkComplete gate) s = after m s ∧
       (∀ x, x ∈ (leaves m s).gates.slots ↔ x ∈ s.gates.slots ∧ s.samePage x k = false) ∧
       ∀ r u, Gives (walkFill gate k.key.part k.key.asid (keyVa k.key)) s r u → ∀ v ∈ (leaves m s).warps,
         (∃ x ∈ s.gates.slots, s.samePage x k = true ∧ x.wid = v.wid) →
         ∃ x ∈ s.gates.slots, s.samePage x k = true ∧ x.wid = v.wid ∧
           v.reply = some (x.key.ln, match r with | .ok _ => 0 | .error e => e)) ∧
     (∀ core key, s.ownKey core key = true →
       (s.cache.lines.any (fun l => l.key == key && !l.perm.wr) || (s.l1Line core key).any (fun l => !l.perm.wr)) = true →
       let m : SM Unit := do let _ ← upgrade key; pure ()
       exec (.permissionUpgrade core key) s = after m s ∧
       ∀ f u, Gives (upgrade key) s (.ok f) u → (∀ l ∈ (leaves m s).cache.lines, l.key = key → l.perm.wr = true) ∧
         ∀ n l, (leaves m s).l1Line n key = some l → l.perm.wr = true) ∧
     (∀ core key, s.ownKey core key = true → s.l1Line core key = none →
       let m : SM Unit := do let _ ← probeLine core key .store (key.asid != 0#12); pure ()
       exec (.permissionProbe core key) s = after m s ∧
       ∀ g pa u, Gives (probeStore core key .store (key.asid != 0#12)) s (.ok (g, pa, none)) u →
         ∃ l, (leaves m s).l1Line core key = some l ∧ l.valid = 0 ∧ l.dirty = 0 ∧ l.perm = g ∧ l.pa = pa)) ∧
  (∀ (s : State), s.powered →
     (∀ core (key : LineKey), s.ownKey core key = true →
       let user := key.asid != 0#12
       let get (repl : Bool) : SM Unit := do let _ ← anchorRead core key .load user { repl := repl }; pure ()
       let pin : SM Unit := do let _ ← anchorRead core key .load user { pin := true }; pure ()
       let put (mask : LineMask) (data : LineData) : SM Unit := do
         match ← probeStore core key .store user with
         | .ok (_, _, none) => anchorWrite core key mask data false false
         | _ => pure ()
       (∀ repl, exec (.anchorRead core key repl) s = after (get repl) s) ∧ exec (.pinRequest core key) s = after pin s ∧
       (∀ mask data, exec (.anchorWrite core key mask data) s = after (put mask data) s) ∧
       ∀ e l, s.dirEnt key = some e → e.st = .home ∨ e.st = .replicated → s.bankLine e.home key = some l → l.role = .home →
         l.epoch = s.epochOf key → l.perm.check .load user = 0 →
         (e.rmask = [] → e.vv = false → s.clsRepl key.part e.cls = false →
           (leaves (get false) s).bankLine e.home key = some { l with age := 0 } ∧
           ∃ h, ((leaves (get false) s).core core).hints.find? (fun x => x.key == key) = some h ∧ h.bank = e.home ∧ h.h = true) ∧
         (s.pinOK e.home key e.cls = true →
           (∃ x, (leaves pin s).bankLine e.home key = some x ∧ x.pin = true ∧ x.data = l.data) ∧
           ∃ x, (leaves pin s).dirEnt key = some x ∧ x.st = .pinned ∧ x.home = e.home) ∧
         ∀ mask data, l.perm.check .store user = 0 → s.clsPol key.part e.cls ≠ 1 → s.clsPol key.part e.cls ≠ 2 →
           ∃ x, (leaves (put mask data) s).bankLine e.home key = some x ∧ x.data = mergeLine mask l.data data ∧ x.dirty = l.dirty ||| mask) ∧
     (∀ n r, s.cache.notices = n :: r →
       let m : SM Unit := do set { s with cache := { s.cache with notices := r } }; takeNotice n
       exec .countNotice s = after m s ∧ (leaves m s).cache.notices = r ∧
       ∀ e, s.dirEnt n.key = some e → e.st = .home ∨ e.st = .replicated → e.home = n.home →
         ∃ x, (leaves m s).dirEnt n.key = some x ∧ x.hist = (n.ret :: e.hist).take 8 ∧ x.hcnt = min 7 (e.hcnt + 1)) ∧
     (∀ i r, s.cache.invs = i :: r → exec .invalidation s = nowTo { s with cache := { s.cache with
       invs := r, acks := s.cache.acks ++ [i.key], lines := s.cache.lines.filter (fun l => !(l.bank == i.bank && l.key == i.key && l.role != .home)) } }) ∧
     (∀ k r, s.cache.acks = k :: r → exec .collapseAck s = nowTo { s with cache := { s.cache with
       acks := r, dir := s.cache.dir.map (fun e => if e.key == k then { e with cpend := e.cpend - 1 } else e) } }) ∧
     (∀ key e, s.dirEnt key = some e → e.st = .migrating →
       exec (.migrationEnd key) s = after (migrationEnd key) s ∧ (∀ h ∈ (leaves (migrationEnd key) s).cache.held, h.key ≠ key) ∧
       ((∀ h ∈ s.cache.held, h.key ≠ key) → ∀ x, (leaves (migrationEnd key) s).dirEnt key = some x → x.st = .home)) ∧
     (∀ core key l, s.l1Line core key = some l →
       exec (.l1Eviction core key) s = after (evictL1 core l false) s ∧ (leaves (evictL1 core l false) s).l1Line core key = none) ∧
     (∀ bank key l, s.bankLine bank key = some l → l.pin = false → s.migrating key bank = false →
       (l.role = .home → exec (.bankLineEvict bank key) s = after (removeLine key true) s ∧
         (leaves (removeLine key true) s).dirEnt key = none ∧ ∀ x ∈ (leaves (removeLine key true) s).cache.lines, x.key ≠ key) ∧
       (l.role ≠ .home → exec (.bankLineEvict bank key) s = after (copyEvicted bank key) s ∧
         ∀ x ∈ (leaves (copyEvicted bank key) s).cache.lines, x.bank = bank → x.key ≠ key)) ∧
     (∀ bank, s.plat.cc % 16384 = 0 → exec (.epochSweep bank) s = after (sweepBank bank) s ∧
       ((∀ l ∈ s.cache.lines, l.bank = bank → l.epoch ≠ s.epochOf l.key → l.role ≠ .home) →
         ∀ l ∈ (leaves (sweepBank bank) s).cache.lines, l.bank = bank → l.epoch = s.epochOf l.key)) ∧
     (s.plat.cc % 65536 = 0 → exec .windowReset s = nowTo { s with cache := { s.cache with win := [] } }))

/-- R118, R124, R126, R332: the messages of exchange stores, sharing groups and barriers arrive in the order in which they were sent, and an instance that a kill or an exit
completed releases when no arrival is in flight.  A store changes its bytes of the receiver's other course alone; the last arrival of a group or of a
barrier opens its next phase, and another leaves it; a release swaps the courses of a member; a revocation takes its slot from the copy.
R97, R104, R405, R423: the retirement of a live bank, core or link of a formed partition completes with what the rules give, a link's with west-first routes from then
on and with the cores that it cuts off retired too; a context whose acknowledgement is late is suspended with a record of KIND 3.  A retired bank
holds no line, a retired core no line of its L1 and no code, and the version of the map rises by 1.
The corner cases of logs 41, 59 and 62 are the model's reading. -/
def Obligations.MessageAndRetirementSteps : Prop :=
  (∀ (s : State), s.powered →
     (∀ k r, s.pkts = k :: r → s.pktWaits k = false → 
       let t := State.finishLeaves { s.deliver k with pkts := r }
       let to' (o : Nat) : Nat := s.coursePhys k.dst (if k.ph then 0 else 1) o
       exec .exchangeStoreArrive s = nowTo t ∧ t.pkts = r ∧ (∀ a, (∀ x ∈ k.bytes, to' x.1 ≠ a) → s.pads.wf = true → t.pads.get a = s.pads.get a) ∧
       (s.routed (coreQuarter k.src) (coreQuarter k.dst) = true → (s.core k.dst).xch.e ≠ 0 → s.coreLive k.dst = true → s.pads.wf = true →
         ∀ x ∈ k.bytes, (∀ y ∈ k.bytes, to' y.1 = to' x.1 → y.2 = x.2) → t.pads.get (to' x.1) = x.2) ∧
       (s.routed (coreQuarter k.src) (coreQuarter k.dst) = false → t.pads = s.pads)) ∧
     (∀ core, s.canArrive core = true → exec (.groupArrival core) s = nowTo (s.arriveGroup core) ∧
       ∀ gid k g, (s.core core).xch.mem = some (gid, k) → s.group? (s.partOfCore core) gid = some g → g.members ≠ [] →
         ((∀ m ∈ g.members, m.ix = k ∨ m.ix ∈ g.arr) →
           ∃ x, (s.arriveGroup core).group? (s.partOfCore core) gid = some x ∧ x.phase = (g.phase + 1) % 65536 ∧ x.arr = [] ∧ x.joiners = []) ∧
         (¬(∀ m ∈ g.members, m.ix = k ∨ m.ix ∈ g.arr) →
           (s.arriveGroup core).group? (s.partOfCore core) gid = some { g with arr := k :: g.arr } ∧
             ((s.arriveGroup core).core core).xch.arrived = true)) ∧
     (∀ core g x, s.releasing core = some (g, x) →
       let t := s.takeRelease g core x
       exec (.groupRelease core) s = nowTo t ∧
       ((s.core core).xch.mem.isSome = true → (t.core core).xch.ph = !(s.core core).xch.ph ∧ (t.core core).xch.arrived = false) ∧
       ((s.core core).xch.mem = none → ∀ m, g.members.find? (fun y => y.core == core) = some m →
         (t.core core).xch.mem = some (g.gid, m.ix) ∧ (t.core core).xch.join = none ∧ (t.core core).xch.ph = decide (g.phase % 2 = 1))) ∧
     (∀ g a b, s.revoking = some (g, a, b) → exec .slotRevocation s = nowTo (s.takeRevocation g a b) ∧
       ∀ x ∈ ((s.takeRevocation g a b).core a).xch.copy, x.1 ≠ b) ∧
     (∀ m r, s.barq = m :: r →
       let t := State.takeBarMsg { s with barq := r } m
       let b := s.bar m.part m.launch m.lvl m.ext m.bid
       let c := t.bar m.part m.launch m.lvl m.ext m.bid
       exec .barrierArrival s = nowTo t ∧
       ∀ l, s.launch? m.launch = some l → m.exc = false →
         if ∀ x ∈ l.participants m.lvl m.ext, x = m.who ∨ x ∈ b.arr ∨ x ∈ b.exc ∨ x ∈ l.gone then c.phase = b.phase + 1 ∧ c.arr = []
         else c.phase = b.phase ∧ c.arr = m.who :: b.arr) ∧
     (∀ l b, s.barq = [] → s.doneBar = some (l, b) → exec .barrierArrival s = nowTo (s.setBar (l.releaseBar b)) ∧
       ((s.setBar (l.releaseBar b)).bar b.part b.launch b.lvl b.ext b.bid).phase = b.phase + 1)) ∧
  (∀ (s : State), s.powered →
     (∀ bank, (s.part (s.partOfQ (retQuarter (bankRet bank)))).formed = true → s.mapBank (s.partOfQ (retQuarter (bankRet bank))) bank = true →
       let p := s.partOfQ (retQuarter (bankRet bank))
       let u := leaves (emptyBank bank) s
       let t := leaves (riseMap p 2 bank) u
       exec (.bankRetire bank) s = after (do emptyBank bank; riseMap p 2 bank) s ∧ bank ∈ t.wafer.deadBanks ∧ (∀ l ∈ u.cache.lines, l.bank ≠ bank) ∧
         (t.part p).version = ((s.part p).version + 1) % 2 ^ 64 ∧ (t.part p).lastKind = 2 ∧ (t.part p).lastObj = bank) ∧
     (∀ core, (s.part (s.partOfCore core)).formed = true → s.mapCore (s.partOfCore core) core = true →
       let p := s.partOfCore core
       let u := leaves (emptyCore core) s
       let t := leaves (riseMap p 1 core) u
       exec (.coreRetire core) s = after (do emptyCore core; riseMap p 1 core) s ∧ core ∈ t.wafer.deadCores ∧
         (u.core core).l1 = [] ∧ (u.core core).icache = [] ∧ (u.core core).hints = [] ∧
         (t.part p).version = ((s.part p).version + 1) % 2 ^ 64 ∧ (t.part p).lastKind = 1 ∧ (t.part p).lastObj = core) ∧
     (∀ north x y, x < 36 → y < 36 →
       let c := 36 * y + x
       let p := s.partOfCore c
       let w : Wafer := if north then { s.wafer with deadLinkN := c :: s.wafer.deadLinkN } else { s.wafer with deadLinkE := c :: s.wafer.deadLinkE }
       (s.part p).formed = true → (if north then s.mapLinkN p c else s.mapLinkE p c) = true →
       let m : SM Unit := do
         set (State.updPart { s with wafer := w } p (fun q => { q with westFirst := true }))
         riseMap p 3 c
         let t ← get
         (t.cutOff p).forM retireCut
       exec (.linkRetire north x y) s = after m s ∧ ((leaves m s).part p).westFirst = true ∧
         (leaves m s).wafer.deadLinkN = w.deadLinkN ∧ (leaves m s).wafer.deadLinkE = w.deadLinkE) ∧
     (∀ p c t, let k := s.ctx p c
       k.en = true → k.saved = false → k.owes = some t → t + 70000 ≤ s.plat.cc →
       let m : SM Unit := do
         suspendWarps p c
         modify fun s => (s.updCtx p c (fun k => { k with mapSusp := true, owes := none })).postCtx p c 3 0x14 0 0 0
       exec (.mapAckDeadline p c) s = after m s ∧ ((leaves m s).ctx p c).susp = true ∧ ((leaves m s).ctx p c).mapSusp = true ∧
         ((leaves m s).ctx p c).owes = none))

/-- R28, R89, R135-R137, R143-R151: the steps of the memory controllers complete, and so do the writes of their registers by a formed partition: the command that
SELECT picks is issued; a share window starts every 1,400 cc with no use counted; a scrub checks one line and goes on; a change of data rate drains,
trains, and ends with the new code, or with code 3 when training fails; a refused register write sets its BAD bit alone.
What the scrub counts, the bit errors of a window and the corner cases of log 43 are the model's choice (logs 24, 43, 56, 59). -/
def Obligations.StackSteps : Prop :=
  ∀ (s : State), s.powered →
    (∀ k c, s.mcSelect k = some c → exec (.mcCommandIssue k) s = after (mcIssue c) s) ∧
    (s.plat.cc % 1400 = 0 → exec .shareWindowStart s = after startWindow s) ∧
    (∀ k, k < 48 →
      let x := s.stack k
      (x.en = true → x.cur ≠ 3 → x.phase ≠ .training → x.phase ≠ .drain → x.scrubbed = false → exec (.scrubLine k) s = after (do scrubOne k (128 * x.pos); scrubNext k) s) ∧
      (∀ code, exec (.rateChangeRequest k code) s = nowTo (s.updStack k (fun x =>
        if x.busy = true ∨ code = 3 then x else if code.toNat = x.cur then { x with req := code.toNat }
        else { x with req := code.toNat, busy := true, phase := .pending, target := code.toNat }))) ∧
      (x.auto = true → x.busy = false → x.cur ≠ 3 →
        (∃ c < 32, 64 < ((recentCorr s.timeNs x.corr).filter (fun e => e.1 == c)).length) → exec (.rateAutoLower k) s =
          nowTo (s.updStack k (fun x => { x with busy := true, phase := .pending, target := min 2 (x.cur + 1), corr := [] })))) ∧
    (∀ k, let p := s.partOfStack k
      ((s.stack k).phase = .drain → s.mcQueue k = [] → exec (.rateDrainEnd k) s = nowTo (s.updStack k (fun x => { x with phase := .training }))) ∧
      ((s.stack k).phase = .training → ∀ ok,
        let u := s.updStack k (fun x => { x with cur := if ok then x.target else 3, busy := false, phase := .idle })
        let v : State := { u with mcq := u.mcq.map (fun c => if c.stack = k then { c with held := false } else c) }
        ((s.part p).formed = true → exec (.rateTrainingEnd k ok) s = after (do set v; riseMap p (if ok then 4 else 5) k) s) ∧
        ((s.part p).formed = false → exec (.rateTrainingEnd k ok) s = nowTo v))) ∧
    (∀ p (v : Word32), p < 4 → (s.part p).formed = true →
      (∀ kd, kd < 16 →
        (s.quiesced p = true → (∀ k < 48, s.ownsStack p k = true → (s.stack k).act = false) → exec (.cryptoErase p kd) s =
          nowTo (State.updPart { s with fresh := s.fresh + 1 } p (fun q =>
            { q with keys := q.keys.setIfInBounds kd s.fresh, kver := q.kver.setIfInBounds kd ((q.kver[kd]?).getD 0 + 1),
                     ebad := q.ebad.filter (fun x => x != kd) }))) ∧
        (s.quiesced p = false → exec (.cryptoErase p kd) s =
          nowTo (s.updPart p (fun q => { q with ebad := kd :: q.ebad.filter (fun x => x != kd) })))) ∧
      (∀ k, s.ownsStack p k = true → exec (.scrubCtlWrite p k v) s = nowTo (s.updStack k (fun x =>
        { x with en := v.getLsbD 31, act := v.getLsbD 31 && (x.act || (!x.en && x.begun)), hours := v.toNat / 2 ^ 16 % 256 }))) ∧
      (∀ n, n < 64 → exec (.mcShareWrite p n v) s = nowTo (s.updPart p (fun q =>
        if q.shareRefused n (v &&& 0x8FFBFFFF) then { q with shBad := true }
        else { q with shBad := false, share := q.share.setIfInBounds n (v &&& 0x8FFBFFFF),
                      shWait := q.shWait ++ [(n, (s.plat.cc / 1400 + 2) * 1400, v &&& 0x8FFBFFFF)] }))) ∧
      exec (.mcShctlWrite p v) s = nowTo (s.updPart p (fun q =>
        if 240 < v.toNat % 512 ∨ v.toNat % 512 < minSum q.share then { q with shBad := true }
        else { q with shBad := false, mincap := v.toNat % 512 })) ∧
      (∀ n, n < 16 → exec (.wccRctWrite p n v) s =
        nowTo (if v.toNat / 2 ^ 22 % 4 = 3 then s else s.updPart p (fun q => { q with rct := q.rct.setIfInBounds n (v &&& 0x07C3FFFF) }))) ∧
      (s.ivlRefused p v = true → exec (.interleaveCommit p v) s = nowTo (s.updPart p (fun q => { q with ivlBad := true }))) ∧
      (s.ivlRefused p v = false → exec (.interleaveCommit p v) s = after (do
        emptyCaches p
        modify fun s => s.updPart p (fun q =>
          { q with ivlBad := false, count := v.toNat % 64, split := v.toNat / 2 ^ 8 % 128, ivl := (List.range 48).map (fun i => q.staged.getD i 0) })) s))

/-- R35, R153-R157, R175, R353, R365-R367: the steps of the engines complete: the copy at the head of a core's queue and the product at the head of a stack's go on by one
part; an instance of a collective that can end ends for every contributor, and a multicast copy is carried out; an operation that is asked to stop ends
PARTIAL; one that has ended leaves the queues and posts its completion.  A copy inside the scratchpad moves its bytes and no others; a product that may
not go on ends with ERROR and its rows done; an instance that a member left ends ABANDONED; one that ends holds no lock.
R62, R63, R190, R193, R194, R200, R386: the steps of the warp slots complete: a slot takes the record that comes next, and the warp starts; a revocation parks harvest
warps, whose lines go to the Kennel and whose pages are saved and returned; what is freed is granted again.  A launch's record leaves a warp in Ready in
a free slot; a warp whose image probe passes and whose first slot is a target runs, and one whose probe fails parks; a revocation leaves no harvest warp
and no harvest page on its core, and the pages that return read as zeros.
The bytes of a save area are free values (log 33), waits are the model's form (log 37), and the corner cases of logs 51, 52 and 60
are the model's reading. -/
def Obligations.EngineAndSlotSteps : Prop :=
  (∀ (s : State), s.powered →
     (∀ core o x, s.copyHead core = some o → o.desc = .copy x → exec (.copyEngineOp core) s = after (copyStep o x) s ∧
       let off (b : Word) (s1 s2 : Word) : Word :=
         b + BitVec.ofNat 64 (o.prog / x.len / x.rows) * s2 + BitVec.ofNat 64 (o.prog / x.len % x.rows) * s1 + BitVec.ofNat 64 (o.prog % x.len)
       let src := off x.src x.sstr1 x.sstr2
       let dst := off x.dst x.dstr1 x.dstr2
       let n := min (x.len - o.prog % x.len) (4096 - dst.toNat % 4096)
       let t := leaves (copyStep o x) s
       x.spad = true → x.dpad = true → 0 < x.len → s.padOK o.core o.part o.ctx src.toNat n = true → s.padOK o.core o.part o.ctx dst.toNat n = true →
         (∀ i < n, ∀ j < n, s.padPhys o.core (src.toNat + i) ≠ s.padPhys o.core (dst.toNat + j)) → s.pads.wf = true →
         (∀ i < n, t.pads.get (s.padPhys o.core (dst.toNat + i)) = s.pads.get (s.padPhys o.core (src.toNat + i))) ∧
         (∀ a, (∀ i < n, a ≠ s.padPhys o.core (dst.toNat + i)) → t.pads.get a = s.pads.get a) ∧
         ∃ p, t.op? o.oid = some p ∧ p.prog = o.prog + n ∧ p.status = if o.prog + n = x.len * x.rows * x.planes then 1 else 0) ∧
     (∀ k o m, s.stackHead k = some o → o.desc = .mvs m → exec (.stackEngineOp k) s = after (mvsStep k o m) s ∧
       ((s.part o.part).emaxl o.asid = none → (∃ p, (leaves (mvsStep k o m) s).op? o.oid = some p ∧ p.status = 5 ∧ p.prog = o.prog) ∧
         ∀ e ∈ (leaves (mvsStep k o m) s).hbm, o.oid ∉ e.2.queue)) ∧
     (∀ x : Coll, s.colls.find? (fun y => y.cid == x.cid) = some x → s.collReady x = true →
       let m : SM Unit := do
         set { s with colls := s.colls.filter (fun y => y.cid != x.cid) }
         x.contribs.forM (fun e => collEnd x e.1 e.2.1)
       exec (.collectiveComplete x.cid) s = after m s ∧
       (x.gone = true → (∀ y ∈ (leaves m s).colls, y.cid ≠ x.cid) ∧ ∀ e ∈ x.contribs, ∀ o, s.op? e.2.1 = some o → o.status = 0 →
         ∃ p, (leaves m s).op? e.2.1 = some p ∧ p.status = 4 ∧ p.prog = 0)) ∧
     (∀ n o c, s.colls.find? (fun y => y.cid == n) = none → s.op? n = some o → o.desc = .cmc c → o.active = true →
       s.cmcReady c = true → exec (.collectiveComplete n) s = after (cmcStep o c) s ∧
       ∀ bs u, Gives (engBytes o.agent (BitVec.ofNat 64 c.src) (lineCap c.len) c.len) s (some bs) u → (u.op? n).isSome = true → c.own = true →
         let on := c.targets.filter (fun t => u.cmcTakes o (coreAt t.2.1 t.2.2) c.dst c.len)
         ∃ p, (leaves (cmcStep o c) s).op? n = some p ∧ p.prog = on.length * c.len ∧ (p.status = if on.length = c.targets.length then 1 else 5) ∧
           p.cmask = on.foldl (fun m t => m ||| (1#64 <<< t.1)) 0) ∧
     (∀ n o, s.op? n = some o →
       let stop : SM Unit := do advance n o.prog 2; completeOp n
       let done : SM Unit := do dequeue n; completeOp n
       let plain := o.sys = false ∧ o.ring = none ∧ o.crec = 0 ∧ o.jrec = 0
       (o.stop = true → o.status = 0 → exec (.engineStop n) s = after stop s ∧
         (o.held = true → ∃ p, (leaves stop s).op? n = some p ∧ p.status = 2 ∧ p.prog = o.prog) ∧
         (o.held = false → o.posted = false → plain → ∀ p, (leaves stop s).op? n = some p → p.posted = true ∧ p.status = 2 ∧ p.locks = [])) ∧
       (o.status ≠ 0 → o.held = false → (o.posted = false ∨ o.jrec ≠ 0) → (s.part o.part).qst ≠ .reshaping →
         exec (.engineCompletion n) s = after done s ∧
         (o.posted = false → plain → (∀ e ∈ (leaves done s).copyq, e.2 ≠ n) ∧
           ∀ p, (leaves done s).op? n = some p → p.posted = true ∧ p.status = o.status ∧ p.locks = [])))) ∧
  (∀ (s : State), s.powered →
     (∀ core sub r, sub < 12 → s.nextRecord core sub = some r → exec (.slotTakesRecord core sub) s = after (takeRecord r sub) s ∧
       ∀ l wg i, s.launch? r.launch = some l → r.src = .launch wg i → r.core = core →
         ∃ w ∈ (leaves (takeRecord r sub) s).warps, w.wid = s.fresh ∧ w.st = .ready ∧ w.core = core ∧ w.sub = sub ∧ w.launch = l.uid ∧
           w.wgid = wg ∧ w.widx = i ∧ w.posted = false ∧ ∀ v ∈ s.resident core sub, v.slot ≠ w.slot) ∧
     (∀ w, s.warp? w.wid = some w → w.st = .ready → exec (.warpStart w.wid) s = after (startWarp w) s ∧
       (∀ e va u, Gives (imgProbe w.part w.asid w.img (8192 + 128 * w.wres)) s (some (e, va)) u →
         ∀ v, (leaves (startWarp w) s).warp? w.wid = some v → v.st = .parkedFault ∧ v.fcause = wstCause e) ∧
       ∀ u, Gives (imgProbe w.part w.asid w.img (8192 + 128 * w.wres)) s none u → w.back = .ready → u.isTarget w w.pc →
         ∀ v, (leaves (startWarp w) s).warp? w.wid = some v → v.st = .running ∧ v.pc = w.pc) ∧
     (∀ core, s.revocable core = true → exec (.harvestRevocation core) s = after (revokeCore core) s ∧
       (∀ v ∈ (leaves (revokeCore core) s).warps, v.core = core → v.harvest = true → v.st ∉ [.ready, .running, .parkedFault, .suspended]) ∧
       ∀ g ∈ ((leaves (revokeCore core) s).core core).grants, (leaves (revokeCore core) s).harvestGrant g = false) ∧
     (∀ w, s.warp? w.wid = some w → w.st = .parkedHarvest → s.kennelRoom w = true → exec (.kennelParkDone w.wid) s =
       nowTo (s.setWarp { w with st := .kennel, lines := [],
                                 kennel := w.lines ++ w.kennel.filter (fun l => decide (∀ x ∈ w.lines, x.idx ≠ l.idx)) })) ∧
     (∀ core, (s.core core).ret ≠ [] → exec (.harvestPagesReturned core) s = after (returnPages core) s ∧
       ((leaves (returnPages core) s).core core).ret = [] ∧
       ∀ g ∈ (s.core core).ret, ∀ o < 8192, (leaves (returnPages core) s).pads.get (core * 2 ^ 20 + g.page * 8192 + o) = 0) ∧
     (∀ core sub x, s.nextGrant core sub = some x → exec (.harvestGrant core sub) s = after (grantHarvest core sub x) s ∧
       (s.padSlot core x = none → ∀ w, s.kennelWarp core sub x = some w → s.warp? w.wid = some w →
         ∃ v, (leaves (grantHarvest core sub x) s).warp? w.wid = some v ∧ v.st = w.back ∧ v.slot = (s.freeSlots core sub).headD 0)))

/-- R46, R178, R380, R387-R393, R400, R401: the steps of contexts complete: saves and resumptions, kills and their drains, the posting of the oldest waiting fault record
to a ring that has room, the resume words and control bits, the slice boundary, and the writes of the slice registers.  A context that was saved shows
it, and one that resumed does not; a killed warp that drained is gone; a warp whose park a resume word ends runs, parks anew
when its image does not read, or is killed when writing it back fails its context.
The corner cases of logs 29, 44 and 53 are the model's reading. -/
def Obligations.ContextSteps : Prop :=
  ∀ (s : State) (p c : Nat), s.powered →
    ((s.ctx p c).en = true → (s.ctx p c).fail = false → (s.ctx p c).saved = false →
      exec (.contextSave p c) s = after (saveCtx p c) s ∧ ((leaves (saveCtx p c) s).ctx p c).saved = true) ∧
    (s.resumable p c = true → (∀ d < 64, s.resumable p d = true → (s.ctx p c).savedAt ≤ (s.ctx p d).savedAt) →
      exec (.contextResume p c) s = after (resumeCtx p c) s ∧ ((leaves (resumeCtx p c) s).ctx p c).saved = false) ∧
    (∀ w cause, s.warp? w.wid = some w → w.st ≠ .killed → w.st ≠ .saved →
      exec (.warpKill w.wid cause) s = nowTo (s.kill w { cause := cause.toNat } false true)) ∧
    (∀ w, s.warp? w.wid = some w → w.st = .killed → exec (.killedWarpDrained w.wid) s = after (drainKilled w true) s ∧
      (leaves (drainKilled w true) s).warp? w.wid = none) ∧
    (∀ r rest, (s.ctx p c).waiting = r :: rest → ((s.ctx p c).tail + 65536 - (s.ctx p c).head) % 65536 < (s.ctx p c).ring.2 →
      exec (.faultRecordPost p c) s = after (postFault p c r) s ∧
      (s.recWarp p c r = none → let k := s.ctx p c
        exec (.faultRecordPost p c) s = nowTo (State.updCtx
          { s with host := s.host.setL ((k.fqb &&& 0x0003FFFFFFFFFFC0).toNat + 64 * (k.tail % k.ring.1)) r.bytes } p c
          (fun k => { k with waiting := rest, tail := (k.tail + 1) % 65536 })))) ∧
    ((s.part p).formed = true → c < 64 →
      (∀ seq w, s.parkedWarp p c seq = some w →
        let go (skip : Bool) : SM Unit := do endPark w skip; ctxAccept p c id
        exec (.ctxResume p c seq) s = after (go false) s ∧ exec (.ctxSkip p c seq) s = after (go true) s ∧
        (∀ skip, ((leaves (go skip) s).ctx p c).bad = false ∧
          ∀ v, (leaves (go skip) s).warp? w.wid = some v → v.st = .running ∧ v.fseq = 0 ∨ v.st = .parkedFault ∨ v.st = .killed) ∧
        exec (.ctxKill p c seq) s = nowTo (State.updCtx (s.kill w { cause := w.fcause } false true) p c (fun k => { k with bad := false }))) ∧
      (∀ seq, s.parkedWarp p c seq = none → ∀ i, i ∈ [Instr.ctxResume p c seq, .ctxSkip p c seq, .ctxKill p c seq] →
        exec i s = nowTo (s.updCtx p c (fun k => { k with bad := true }))) ∧
      (∀ en asid, let k := s.ctx p c
        let runs : Bool := s.launches.any (fun l => l.part == p && l.ctx == c)
        (k.en = true → asid ≠ k.asid ∨ (en = false ∧ runs = true) → exec (.ctxEnable p c en asid) s = nowTo (s.updCtx p c (fun k => { k with bad := true }))) ∧
        (k.en = true → asid = k.asid → en = true ∨ runs = false →
          exec (.ctxEnable p c en asid) s = nowTo (s.updCtx p c (fun k => { k with en := en, bad := false }))) ∧
        (k.en = false → en = true → exec (.ctxEnable p c en asid) s = nowTo (State.updCtx
          { s with cores := s.cores.map (fun (e : Nat × Machine.Core) => (e.1, { e.2 with last := e.2.last.filter (fun g => !(g.part == p && g.ctx == c)) })) }
          p c (fun k =>
            { k with en := true, asid := asid, fail := false, susp := false, mapSusp := false, seq := 1, ackv := (s.part p).version, owes := none,
                     posting := none, saved := false, slots := [], missed := false, bad := false }))) ∧
        (k.en = false → en = false → exec (.ctxEnable p c en asid) s = nowTo (s.updCtx p c (fun k => { k with asid := asid, bad := false })))) ∧
      let susp : SM Unit := do suspendWarps p c; ctxAccept p c id
      let resm : SM Unit := do resumeWarps p c; ctxAccept p c id
      let rel : SM Unit := do releaseCtx p c; ctxAccept p c id
      (exec (.ctxSuspend p c) s = after susp s ∧ ((leaves susp s).ctx p c).susp = true ∧ ((leaves susp s).ctx p c).bad = false) ∧
      (exec (.ctxResumeAll p c) s = after resm s ∧ ((leaves resm s).ctx p c).susp = false ∧ ((leaves resm s).ctx p c).mapSusp = false) ∧
      (exec (.ctxRelease p c) s = after rel s ∧ ((leaves rel s).ctx p c).en = false ∧ ((leaves rel s).ctx p c).slots = [])) ∧
    ((s.part p).formed = true →
      (s.boundaryDue p = true → exec (.sliceBoundary p) s = after (switchGang p) s ∧
        ((∀ m ∈ (s.part p).gangW.toList, m = 0#64) → exec (.sliceBoundary p) s = nowTo (s.updPart p (fun q =>
          { q with slc := q.slcW, epoch := q.epochW, gang := q.gangW,
                   slice := if q.slcW.msb = true ∧ q.epochW.toNat ≤ s.timeNs then sliceIx q.slcW q.epochW s.timeNs + 1 else 0 })))) ∧
      (∀ v : Word, exec (.slcWrite p 0 v) s = nowTo (s.updPart p (fun q =>
        let w : Word32 := BitVec.ofNat 32 v.toNat &&& 0x8007FFFF
        if v.toNat % 65536 < 100 then { q with slcBad := true }
        else { q with slcBad := false, slcW := w, slice := if q.slc.msb then q.slice else firstBoundary w q.epochW s.timeNs })) ∧
        exec (.slcWrite p 1 v) s = nowTo (s.updPart p (fun q =>
          { q with slcBad := false, epochW := v, slice := if q.slc.msb then q.slice else firstBoundary q.slcW v s.timeNs })) ∧
        ∀ g, g < 8 → exec (.slcWrite p (8 + g) v) s = nowTo (s.updPart p (fun q =>
          if s.gangRefused p g v then { q with slcBad := true } else { q with slcBad := false, gangW := q.gangW.setIfInBounds g v }))))

/-- R182, R371-R374, R380, R433, R449: the steps of the work queues complete: writes of TAIL and CTL, a launch packet, which stands at its queue's tail or is dropped and
counted, the acceptance of the record that comes first, the start of a pending launch whose turn has come, and the end of a grid.
R406-R410, R434: the quiesce and reshape steps complete.  A write of the host, or of a partition under the wafer's AUTH, of PART_QCTL, PART_NBND, PART_QOWN or
PART_SHAPE is accepted or refused by the register's rule; a drained partition is quiesced; opened seams join the routes; a pending shape comes into
force.
The corner cases of logs 16, 17, 22, 42 and 45 are the model's reading. -/
def Obligations.QueueAndReshapeSteps : Prop :=
  (∀ (s : State), s.powered →
     (∀ q (v : Word32), q < 16384 →
       (s.plat.hostUp = false → exec (.wqTailWrite q v) s = nowTo s ∧ exec (.wqCtlWrite q v) s = nowTo s) ∧
       (s.plat.hostUp = true →
         exec (.wqTailWrite q v) s = nowTo (s.updQueue q (fun k =>
           let n := (v.toNat + 2 ^ 32 - k.head) % 2 ^ 32
           if 2 ^ k.log2n < n then { k with tail := v.toNat, bad := false, en := false, lapped := true, arr := [] }
           else { k with tail := v.toNat, bad := false, arr := k.arr.take n ++ List.replicate (n - k.arr.length) (s.plat.cc, none) })) ∧
         exec (.wqCtlWrite q v) s = nowTo (s.updQueue q (fun k =>
           let n := v.toNat % 32
           let c := (k.tail + 2 ^ 32 - k.head) % 2 ^ 32
           let x : WorkQ := { k with asid := BitVec.ofNat 12 (v.toNat / 2 ^ 16), log2n := n, bad := false }
           if (v.getLsbD 31 = true ∧ (n < 1 ∨ 16 < n)) ∨ (k.en = true ∧ (v.toNat / 2 ^ 16 % 4096 ≠ k.asid.toNat ∨ n ≠ k.log2n)) then { k with bad := true }
           else if v.getLsbD 31 = false then { x with en := false }
           else if 2 ^ n < c then { x with en := false, lapped := true, arr := [] }
           else { x with en := true, lapped := false, arr := k.arr.take c ++ List.replicate (c - k.arr.length) (s.plat.cc, none) })))) ∧
     (∀ k src q d, k < 128 → src < 64 → exec (.launchPacket k src q d) s =
       nowTo (if s.packetOK k src q then s.updQueue q (fun x => { x with tail := (x.tail + 1) % 2 ^ 32, arr := x.arr ++ [(s.plat.cc, some d)] })
         else s.updPort k (fun x => { x with drops := min 65535 (x.drops + 1) }))) ∧
     (∀ p, (s.part p).qst ≠ .reshaping →
       (∀ q, (s.part p).formed = true → s.nextQueue p = some q → exec (.launchAccept p) s = after (takeHead p q) s ∧
         ∀ t d r, (s.queue q).arr = (t, some d) :: r → exec (.launchAccept p) s = after (do
           set ((s.updQueue q (fun k => { k with head := (k.head + 1) % 2 ^ 32, arr := r })).updPart p (fun k => { k with accFrom := s.plat.cc + 200 }))
           acceptLaunch p q (s.queue q).asid d false) s) ∧
       (∀ l, s.launches.find? (fun l => l.part == p && l.st != .running && s.dueLaunch l) = some l →
         exec (.pendingLaunchStart p) s = after (startPending l) s)) ∧
     (∀ n l, s.launch? n = some l → s.gridDone l = true → exec (.gridCompletion n) s = after (completeLaunch l) s)) ∧
  (∀ (s : State) (by' : Option Nat), s.powered → (∀ b, by' = some b → b < 4 ∧ (s.part b).formed = true) →
     let auth : Bool := match by' with | none => true | some b => s.auth b
     (∀ q, q < 4 →
       let p := s.partOfQ q
       let ok := by' = none ∨ by' = some p ∨ auth = true
       let asked (req : Bool) : State := s.updPart p (fun k => if ok then k.quiesce req else { k with qbad := true })
       exec (.quiesceRequest by' q) s = nowTo (asked true) ∧ exec (.quiesceCancel by' q) s = nowTo (asked false)) ∧
     (∀ v : Word32, let n : BitVec 4 := BitVec.ofNat 4 v.toNat
       let w : Wafer := if auth = false ∨ s.nbndRefused n = true then { s.wafer with nbndBad := true }
         else { s.wafer with nbndBad := false, seams := n, nbnd := s.wafer.nbnd &&& n }
       exec (.partNbndWrite by' v) s = nowTo { s with wafer := w }) ∧
     (∀ q (v : Word), q < 4 →
       let w : Wafer := if auth = false then { s.wafer with shBad := true, why := 2 }
         else if s.qownRefused q v then { s.wafer with shBad := true, why := 4 }
         else { s.wafer with qown := s.wafer.qown.setIfInBounds q v }
       exec (.qownWrite by' q v) s = nowTo { s with wafer := w }) ∧
     (∀ v : Word32, let n : BitVec 8 := BitVec.ofNat 8 v.toNat
       let ch := changedParts s.wafer.shape n
       (s.shapeWhy auth n ≠ 0 → exec (.partitionCommit by' v) s =
         nowTo { s with wafer := { s.wafer with shBad := true, why := s.shapeWhy auth n } }) ∧
       (s.shapeWhy auth n = 0 → ch = [] → exec (.partitionCommit by' v) s = nowTo { s with wafer := { s.wafer with shBad := false, why := 0 } }) ∧
       (s.shapeWhy auth n = 0 → ch ≠ [] → exec (.partitionCommit by' v) s =
         nowTo { ch.foldl (fun s p => s.updPart p (fun q => { q with qst := .reshaping })) s with
           wafer := { s.wafer with shBad := false, why := 0, busy := true, newShape := some n } })) ∧
     (∀ p, s.drained p = true → exec (.partitionQuiesced p) s = nowTo (s.updPart p (fun k => { k with qst := .quiesced }))) ∧
     (s.wafer.nbnd ≠ s.wafer.seams → exec .seamRoutesReady s = nowTo { s with wafer := { s.wafer with nbnd := s.wafer.seams } }) ∧
     (∀ n, s.wafer.newShape = some n → exec .commitComplete s = after (finishCommit n) s))

/-- R183, R277, R442-R446: the host's steps complete: a doorbell joins its channel, whose first one is taken; a read of device memory or of a BAR gives a line and its status,
and neither device memory nor a BAR but BAR0 answers after a failed bring-up; a write merges bytes; a write of a listed register of a formed partition has
that register's effect.
The addresses of the BARs are the model's (log 31), and so are the corner cases of log 46. -/
def Obligations.HostSteps : Prop :=
  ∀ (s : State), s.powered →
    (∀ ch (t : Word32), ch < 4096 → s.plat.chanUp = true → exec (.doorbell ch t) s =
      after (do set (s.updChan ch (fun k => { k with bells := k.bells ++ [t.toNat % 2048] })); takeBell ch) s) ∧
    (∀ pa, let a := pa % 2 ^ 56
      let failed := 0xE0 < s.plat.stage
      (a < 2 ^ 52 → failed → exec (.hostMemRead pa) s = nowTo { s with hostRd := some (0, 2) }) ∧
      (a < 2 ^ 52 → ¬failed → s.hostRoute pa = none → exec (.hostMemRead pa) s = nowTo { s with hostRd := some (0, 2) }) ∧
      (a < 2 ^ 52 → ¬failed → ∀ stk loc, s.hostRoute pa = some (stk, loc) → exec (.hostMemRead pa) s = after (do
        mcRead stk loc hostPart 0
        let (d, poi) ← dramLine (s.partOfStack stk) 0 stk loc
        modify fun s => { s with hostRd := some (d, if poi then 1 else 0) }) s) ∧
      (2 ^ 52 ≤ a → exec (.hostMemRead pa) s = nowTo { s with hostRd := some (s.barRead a) }) ∧
      (2 ^ 53 ≤ a → failed → s.barRead a = (0, 2)) ∧
      ∀ mask data,
        (a < 2 ^ 52 → failed ∨ s.hostRoute pa = none → exec (.hostMemWrite pa mask data) s = nowTo s) ∧
        (a < 2 ^ 52 → ¬failed → (s.hostRoute pa).isSome = true → exec (.hostMemWrite pa mask data) s = after (hostWrite pa mask data) s) ∧
        (2 ^ 52 ≤ a → exec (.hostMemWrite pa mask data) s = after (barWrite a mask data) s) ∧
        (2 ^ 54 ≤ a → exec (.hostMemWrite pa mask data) s = nowTo s)) ∧
    (∀ p num inst r v, regInfo num = some r → (s.part p).formed = true → s.instOK p r.inst inst = true → 0x200 ≤ num →
      exec (.registerWrite p num inst v) s = after (regPut none p num inst v) s)

/-- R444, R448, R450-R455: the steps of the platform, of the fabric ports and of the time base complete.  GO starts the image check at stage 0x01 alone; a stage that fails
stops at 0xE0 plus its number; the ends of power lose all but the fused counter; a CLK write that cannot be in force sets CBAD; three failed trainings
within 1 s leave a port Dead.
Fuses, the correction of time and the corner cases of log 46 are the model's choice (logs 3, 6, 46), and the identity and its
randomness are free (log 47). -/
def Obligations.PlatformSteps : Prop :=
  ∀ (s : State), (s.plat.on = false → exec .powerOn s = .next { s with plat := { s.plat with on := true } }) ∧ (s.powered →
    exec .bootGo s = nowTo { s with plat := if s.plat.stage = 1 then { s.plat with stage := 2 } else s.plat } ∧
    (∀ r ok, s.plat.stage = 2 →
      let b := s.plat.boot
      let k : Plat := if s.plat.imageOK then
          { s.plat with stage := 3, fwVer := bootNat b 8 8, fwHash := sha256Num (b.getN 0 (128 + bootNat b 16 8 + 29792)) }
        else { s.plat with stage := 0xE2 }
      exec (.bringupStageDone ok r) s = nowTo { s with plat := k }) ∧
    (∀ r, 3 ≤ s.plat.stage → s.plat.stage ≤ 7 →
      exec (.bringupStageDone false r) s = nowTo { s with plat := { s.plat with stage := 0xE0 + s.plat.stage } } ∧
      ((s.plat.stage = 3 → (s.wafer.found r).deadCores.length ≤ 72) → exec (.bringupStageDone true r) s = after (stageDone r) s)) ∧
    exec .attestRequest s = nowTo { s with plat := { s.plat with code := 1, early := decide (s.plat.stage ≠ 0x80) } } ∧
    (s.plat.code = 1 → exec .attestReport s = nowTo { s with plat := { s.plat with report := s.reportBytes, code := 2 }, free := s.free + 1 }) ∧
    (∀ i, i ∈ [Instr.powerLoss, .overtempPowerOff] → exec i s = nowTo s.off ∧ s.off.plat.on = false ∧ s.off.plat.rollback = s.plat.rollback ∧
      s.off.dram = [] ∧ s.off.pads = [] ∧ s.off.warps = []) ∧
    (s.plat.shut = false → exec .shutdown s =
      nowTo { s with plat := { s.plat with shut := true }, parts := s.parts.map (fun q => if q.formed then q.quiesce true else q) }) ∧
    (s.plat.shut = true → (∀ p < 4, (s.part p).formed = true → s.quiesced p = true) → exec .shutdown s =
      after (do
        ((List.range 4).filter (fun p => (s.part p).formed)).forM emptyPart
        modify fun s => s.off) s) ∧
    (∀ v : BitVec 2,
      let held := v ≠ 3 ∧ ∀ p < 4, (s.part p).formed = true → s.quiesced p = true
      (held → exec (.clkWrite v) s = nowTo { s with plat := { s.plat with clk := v.toNat, pcur := v.toNat, cbad := false } }) ∧
      (¬held → exec (.clkWrite v) s = nowTo { s with plat := { s.plat with cbad := true } })) ∧
    (∀ x : BitVec 16, (2300 < x.toNat → exec (.throttle x) s = nowTo { s with plat := { s.plat with thr := true, thr2 := s.plat.thr, draw := x.toNat } }) ∧
      (x.toNat ≤ 2300 → exec (.throttleRelease x) s = nowTo { s with plat := { s.plat with thr := false, thr2 := false, draw := x.toNat } })) ∧
    (∀ k, k < 128 →
      let x := s.port k
      let late := (x.fails.filter (fun t => decide (s.plat.cc < t + 1400000000)))
      let failed := s.updPort k (fun x => { x with fails := s.plat.cc :: late })
      (x.st ∈ [0, 2, 3] → exec (.portLinkFail k) s = after (portState k 1) s) ∧
      (x.st = 1 → exec (.portTrained k true false) s = after (portState k 2) s ∧
        exec (.portTrained k true true) s = after (portState k 3) s ∧
        ∀ one, exec (.portTrained k false one) s = nowTo (if late.length < 2 then failed else leaves (portState k 5) failed)) ∧
      (∀ p fen, s.partOfPort k = p → (s.part p).formed = true → exec (.portFence p k fen) s = after (setFence k fen) s) ∧
      (x.st = 2 ∨ x.st = 3 → exec (.ptpSlaveSelect (some k)) s = nowTo (s.selectSlave (some k)))) ∧
    exec (.ptpSlaveSelect none) s = nowTo (s.selectSlave none) ∧
    (∀ off : Int, s.plat.slave.isSome = true →
      let k : Plat := { s.plat with offs := off :: s.plat.offs.take 15, tcc := s.plat.cc, freq := some s.free }
      let k : Plat := if s.slicing = false ∧ 1000 < off then { k with tns := s.timeNs + off.toNat, slew := 0 }
        else { k with tns := s.timeNs, slew := off }
      exec (.ptpSync off) s = nowTo { s with plat := k, free := s.free + 1 }))
end

