-- ==== Sys2Proof/Laws/Encoding.lean ====
section
/-!
SUPPORT. Lemmas of the decoder and the encoder: codes, operand fields and extension fields read back, the row of the opcode map that a word
names, and the word of fields.
-/

namespace Sys2Proof.Laws

/-! ## Codes and operand fields -/

@[simp] theorem ofCode_code_ty (t : Ty) : Ty.ofCode t.code = t := by cases t <;> rfl
@[simp] theorem ofCode_code_hint (t : Hint) : Hint.ofCode t.code = t := by cases t <;> rfl
@[simp] theorem ofCode_code_ord (t : Ord) : Ord.ofCode t.code = t := by cases t <;> rfl
@[simp] theorem ofCode_code_scope (t : Scope) : Scope.ofCode t.code = t := by cases t <;> rfl
@[simp] theorem scope_code_ne (t : Scope) : (t.code == 7#3) = false := by cases t <;> rfl

/-- The low bits of joined vectors. -/
@[simp] theorem low_append {m n : Nat} (x : BitVec m) (y : BitVec n) : (x ++ y).extractLsb' 0 n = y := by
  ext i hi; simp [BitVec.getLsbD_append, hi]

/-- Bits of the high one of joined vectors. -/
theorem high_append {m n k : Nat} (x : BitVec m) (y : BitVec n) (j : Nat) (hj : n ≤ j) (_ : j - n + k ≤ m) :
    (x ++ y).extractLsb' j k = x.extractLsb' (j - n) k := by
  ext i hi
  simp [BitVec.getLsbD_append, show ¬ j + i < n by omega, show j + i - n = j - n + i by omega]

/-- Bits of the low one of joined vectors. -/
theorem part_append {m n : Nat} (x : BitVec m) (y : BitVec n) (j k : Nat) (h : j + k ≤ n) :
    (x ++ y).extractLsb' j k = y.extractLsb' j k := by
  ext i hi
  simp [BitVec.getLsbD_append, show j + i < n by omega]

@[simp] theorem nz_zero (n : Nat) : nz (0#n) = false := by simp [nz]
@[simp] theorem sOK_zero : sOK 0 = true := rfl
@[simp] theorem sOK_sF (r : SReg) : sOK (sF r) = true := by
  rw [sOK, sF, high_append _ _ _ (by decide) (by decide)]; rfl
@[simp] theorem sOf_sF (r : SReg) : sOf (sF r) = r := low_append _ _
@[simp] theorem vOK_vF (r : VReg) : vOK (vF r) = true := by
  rw [vOK, vF, high_append _ _ _ (by decide) (by decide)]; rfl
@[simp] theorem vOf_vF (r : VReg) : vOf (vF r) = r := low_append _ _
@[simp] theorem vpOK_vF (t : Ty) (r : VReg) : vpOK t (vF r) = vPairOK t r := by
  rw [vpOK, vOK_vF, vF, low_append]; rfl
@[simp] theorem tOK_tF (r : TReg) : tOK (tF r) = true := by
  rw [tOK, tF, high_append _ _ _ (by decide) (by decide)]; rfl
@[simp] theorem tOf_tF (r : TReg) : tOf (tF r) = r := low_append _ _
@[simp] theorem aOK_aF (r : AReg) : aOK (aF r) = true := by
  rw [aOK, aF, high_append _ _ _ (by decide) (by decide)]; rfl
@[simp] theorem aOf_aF (r : AReg) : aOf (aF r) = r := low_append _ _
@[simp] theorem tOK_aF (r : AReg) : tOK (aF r) = false := by
  refine beq_false_of_ne fun h => ?_
  have h1 : (aF r).extractLsb' 6 4 = 12#4 := by rw [aF, high_append _ _ _ (by decide) (by decide)]; rfl
  rw [h1] at h
  exact absurd h (by decide)
@[simp] theorem mOK_mF (r : MReg) : mOK (mF r) = true := by
  rw [mOK, mF, high_append _ _ _ (by decide) (by decide)]; rfl
@[simp] theorem mOf_mF (r : MReg) : mOf (mF r) = r := low_append _ _
@[simp] theorem qOK_qF (r : QReg) : qOK (qF r) = true := by
  rw [qOK, qF, high_append _ _ _ (by decide) (by decide)]; rfl
@[simp] theorem qOf_qF (r : QReg) : qOf (qF r) = r := low_append _ _
@[simp] theorem vOK_sF (r : SReg) : vOK (sF r) = false := by
  refine beq_false_of_ne fun h => ?_
  have h1 : (sF r).extractLsb' 8 2 = 0#2 := by rw [sF, high_append _ _ _ (by decide) (by decide)]; rfl
  rw [h1] at h
  exact absurd h (by decide)
@[simp] theorem baseOK_baseF (b : ABase) : baseOK (baseF b) = true := by cases b <;> simp [baseOK, baseF]
@[simp] theorem baseOf_baseF (b : ABase) : baseOf (baseF b) = b := by cases b <;> simp [baseOf, baseF]
@[simp] theorem taOK_taF (r : TAReg) : taOK (taF r) = true := by cases r <;> simp [taOK, taF]
@[simp] theorem taOf_taF (r : TAReg) : taOf (taF r) = r := by cases r <;> simp [taOf, taF]

@[simp] theorem vsrc_reg_ok (t : Ty) (r : VReg) : (VSrc.reg r).ok t = vPairOK t r := rfl
@[simp] theorem vsrc_imm_ok (t : Ty) (v : Word32) :
    (VSrc.imm v).ok t = true ↔ (t = .f16 ∨ t = .bf16 → nz (v.extractLsb' 16 16) = false) := by
  cases t <;> simp [VSrc.ok, nz]

theorem redCode_lt (op : RedOp) : op.code.toNat < 6 := by cases op <;> decide
theorem atomCode_lt (op : AtomOp) : op.code.toNat < 10 := by cases op <;> decide
theorem dimCode_lt (d : XDim) : d.code.toNat < 3 := by cases d <;> decide
@[simp] theorem ofCode_code_red (op : RedOp) : RedOp.ofCode op.code = op := by cases op <;> rfl
@[simp] theorem ofCode_code_atom (op : AtomOp) : AtomOp.ofCode op.code = op := by cases op <;> rfl
@[simp] theorem ofCode_code_dim (d : XDim) : XDim.ofCode d.code = d := by cases d <;> rfl

@[simp] theorem pred_back (p : Pred) : (⟨p.m, BitVec.ofBool p.neg == 1#1⟩ : Pred) = p := by
  obtain ⟨m, n⟩ := p; cases n <;> rfl

@[simp] theorem b64_code : Ty.b64.code = 15#4 := rfl
@[simp] theorem nz_noPred : nz noPred.m = false := rfl
@[simp] theorem nz_noNeg : nz (BitVec.ofBool noPred.neg) = false := rfl
@[simp] theorem nz_s0 : nz (sF 0#6) = false := rfl
@[simp] theorem baseF_s (r : SReg) : baseF (.s r) = sF r := rfl
@[simp] theorem ord_code_zero (o : Ord) : o.code = 0#2 ↔ o = .relaxed := by cases o <;> simp [Ord.code]

theorem pair_of_special {t : Ty} (h : t.isSpecial = true) (r : VReg) : vPairOK t r = true := by
  cases t <;> first | rfl | cases h
theorem pair_of_i32 {t : Ty} (h : t.isI32 = true) (r : VReg) : vPairOK t r = true := by
  cases t <;> first | rfl | cases h
theorem i32_not_f16 {t : Ty} (h : t.isI32 = true) : (t = .f16) = False := by
  cases t <;> simp_all [Ty.isI32]
theorem i32_not_bf16 {t : Ty} (h : t.isI32 = true) : (t = .bf16) = False := by
  cases t <;> simp_all [Ty.isI32]
/-- The types of MLD and MST. -/
theorem tile_type {r : TAReg} {t : Ty} (h : r.tyOK t = true) :
    (t == .b32 || t == .bf16 || t == .f16 || t == .i8 || t == .e4m3 || t == .e5m2 || t == .f32) = true := by
  cases r <;> cases t <;> first | rfl | cases h

/-! ## Rows of the opcode map -/

/-- Steps 2 and 3 of R243 on the row of a word. -/
def checkRow : Option Row → Except DecodeErr Instr
  | none => .error .illegal
  | some r => if r.ill then .error .illegal else if r.res then .error .reserved else .ok r.ins

/-- A row that the map lists and that no check refuses is its instruction. -/
theorem checkRow_row {listed ill res : Bool} {i : Instr} (hl : listed = true) (hi : ill = false) (hr : res = false) :
    checkRow (row listed ill res i) = .ok i := by
  subst hl hi hr; rfl

theorem opcode_high {x : BitVec 8} {n : Nat} (h : x.toNat = n) : (x.extractLsb' 4 4).toNat = n / 16 % 16 := by
  simp [BitVec.extractLsb'_toNat, h, Nat.shiftRight_eq_div_pow]

theorem decScalar {f : Fields} {n : Nat} (h : f.opc.toNat = n) (hn : n / 16 % 16 = 0 ∨ n / 16 % 16 = 1) :
    decodeFields f = checkRow (rowsScalar f) := by
  rw [decodeFields, decodeRow, opcode_high h]; rcases hn with hn | hn <;> rw [hn] <;> rfl
theorem decControl {f : Fields} {n : Nat} (h : f.opc.toNat = n) (hn : n / 16 % 16 = 2 ∨ n / 16 % 16 = 3) :
    decodeFields f = checkRow (rowsControl f) := by
  rw [decodeFields, decodeRow, opcode_high h]; rcases hn with hn | hn <;> rw [hn] <;> rfl
theorem decVector {f : Fields} {n : Nat} (h : f.opc.toNat = n) (hn : n / 16 % 16 = 4) : decodeFields f = checkRow (rowsVector f) := by
  rw [decodeFields, decodeRow, opcode_high h, hn]; rfl
theorem decFloat {f : Fields} {n : Nat} (h : f.opc.toNat = n) (hn : n / 16 % 16 = 6) : decodeFields f = checkRow (rowsFloat f) := by
  rw [decodeFields, decodeRow, opcode_high h, hn]; rfl
theorem decCollective {f : Fields} {n : Nat} (h : f.opc.toNat = n) (hn : n / 16 % 16 = 8) :
    decodeFields f = checkRow (rowsCollective f) := by
  rw [decodeFields, decodeRow, opcode_high h, hn]; rfl
theorem decMem {f : Fields} {n : Nat} (h : f.opc.toNat = n) (hn : n / 16 % 16 = 10 ∨ n / 16 % 16 = 11) :
    decodeFields f = checkRow (rowsMem f) := by
  rw [decodeFields, decodeRow, opcode_high h]; rcases hn with hn | hn <;> rw [hn] <;> rfl
theorem decMatrix {f : Fields} {n : Nat} (h : f.opc.toNat = n) (hn : n / 16 % 16 = 12) : decodeFields f = checkRow (rowsMatrix f) := by
  rw [decodeFields, decodeRow, opcode_high h, hn]; rfl
theorem decEngine {f : Fields} {n : Nat} (h : f.opc.toNat = n) (hn : n / 16 % 16 = 13) : decodeFields f = checkRow (rowsEngine f) := by
  rw [decodeFields, decodeRow, opcode_high h, hn]; rfl

/-! ## The MEM extension -/

section Mem
variable (sp : BitVec 2) (h : Hint) (o : Ord) (s : Scope) (disp : BitVec 20)
@[simp] theorem memImm_top : (memImm sp h o s disp).extractLsb' 30 2 = 0#2 := by
  unfold memImm; iterate 5 rw [high_append _ _ _ (by decide) (by decide)]
  rfl
@[simp] theorem memImm_space : (memImm sp h o s disp).extractLsb' 28 2 = sp := by
  unfold memImm; iterate 4 rw [high_append _ _ _ (by decide) (by decide)]
  exact low_append _ _
@[simp] theorem memImm_hint : (memImm sp h o s disp).extractLsb' 25 3 = 0#1 ++ h.code := by
  unfold memImm; iterate 3 rw [high_append _ _ _ (by decide) (by decide)]
  exact low_append _ _
@[simp] theorem memImm_ord : (memImm sp h o s disp).extractLsb' 23 2 = o.code := by
  unfold memImm; iterate 2 rw [high_append _ _ _ (by decide) (by decide)]
  exact low_append _ _
@[simp] theorem memImm_scope : (memImm sp h o s disp).extractLsb' 20 3 = s.code := by
  unfold memImm; rw [high_append _ _ _ (by decide) (by decide)]
  exact low_append _ _
@[simp] theorem memImm_disp : (memImm sp h o s disp).extractLsb' 0 20 = disp := low_append _ _
@[simp] theorem hint_low : (0#1 ++ h.code).extractLsb' 0 2 = h.code := low_append _ _
@[simp] theorem hint_top : (0#1 ++ h.code : BitVec 3)[2] = false := by cases h <;> rfl
@[simp] theorem nz_relaxed : nz Ord.relaxed.code = false := rfl
@[simp] theorem nz_warp : nz Scope.warp.code = false := rfl
@[simp] theorem nz_noHint : nz (0#1 ++ Hint.none.code) = false := rfl
end Mem

/-! ## Joined fields -/

@[simp] theorem slide_top (x : BitVec 8) : (0#2 ++ x : BitVec 10).extractLsb' 8 2 = 0#2 := by
  rw [high_append _ _ _ (by decide) (by decide)]; rfl
@[simp] theorem slide_low (x : BitVec 8) : (0#2 ++ x : BitVec 10).extractLsb' 0 8 = x := by
  exact low_append _ _
@[simp] theorem imm3_top (x : BitVec 3) : (0#29 ++ x : BitVec 32).extractLsb' 3 29 = 0#29 := by
  rw [high_append _ _ _ (by decide) (by decide)]; rfl
@[simp] theorem imm3_low (x : BitVec 3) : (0#29 ++ x : BitVec 32).extractLsb' 0 3 = x := by
  exact low_append _ _
@[simp] theorem imm4_top (x : BitVec 4) : (0#28 ++ x : BitVec 32).extractLsb' 4 28 = 0#28 := by
  rw [high_append _ _ _ (by decide) (by decide)]; rfl
@[simp] theorem imm4_low (x : BitVec 4) : (0#28 ++ x : BitVec 32).extractLsb' 0 4 = x := by
  exact low_append _ _
@[simp] theorem imm16_top (x : BitVec 16) : (0#16 ++ x : BitVec 32).extractLsb' 16 16 = 0#16 := by
  rw [high_append _ _ _ (by decide) (by decide)]; rfl
@[simp] theorem imm16_low (x : BitVec 16) : (0#16 ++ x : BitVec 32).extractLsb' 0 16 = x := by
  exact low_append _ _
@[simp] theorem field_top (x : BitVec 6) (y : BitVec 6) : (0#20 ++ x ++ y : BitVec 32).extractLsb' 12 20 = 0#20 := by
  rw [high_append _ _ _ (by decide) (by decide)]; rw [high_append _ _ _ (by decide) (by decide)]; rfl
@[simp] theorem field_mid (x : BitVec 6) (y : BitVec 6) : (0#20 ++ x ++ y : BitVec 32).extractLsb' 6 6 = x := by
  rw [high_append _ _ _ (by decide) (by decide)]; exact low_append _ _
@[simp] theorem field_low (x : BitVec 6) (y : BitVec 6) : (0#20 ++ x ++ y : BitVec 32).extractLsb' 0 6 = y := by
  exact low_append _ _
@[simp] theorem part_top (x : BitVec 2) (y : BitVec 4) : (0#26 ++ x ++ y : BitVec 32).extractLsb' 6 26 = 0#26 := by
  rw [high_append _ _ _ (by decide) (by decide)]; rw [high_append _ _ _ (by decide) (by decide)]; rfl
@[simp] theorem part_mid (x : BitVec 2) (y : BitVec 4) : (0#26 ++ x ++ y : BitVec 32).extractLsb' 4 2 = x := by
  rw [high_append _ _ _ (by decide) (by decide)]; exact low_append _ _
@[simp] theorem part_low (x : BitVec 2) (y : BitVec 4) : (0#26 ++ x ++ y : BitVec 32).extractLsb' 0 4 = y := by
  exact low_append _ _
@[simp] theorem meta_top (x : BitVec 8) (y : BitVec 4) : (0#20 ++ x ++ y : BitVec 32).extractLsb' 12 20 = 0#20 := by
  rw [high_append _ _ _ (by decide) (by decide)]; rw [high_append _ _ _ (by decide) (by decide)]; rfl
@[simp] theorem meta_mid (x : BitVec 8) (y : BitVec 4) : (0#20 ++ x ++ y : BitVec 32).extractLsb' 4 8 = x := by
  rw [high_append _ _ _ (by decide) (by decide)]; exact low_append _ _
@[simp] theorem meta_low (x : BitVec 8) (y : BitVec 4) : (0#20 ++ x ++ y : BitVec 32).extractLsb' 0 4 = y := by
  exact low_append _ _
@[simp] theorem barId_top (x : BitVec 6) : (0#14 ++ x : BitVec 20).extractLsb' 6 14 = 0#14 := by
  rw [high_append _ _ _ (by decide) (by decide)]; rfl
@[simp] theorem barId_low (x : BitVec 6) : (0#14 ++ x : BitVec 20).extractLsb' 0 6 = x := by
  exact low_append _ _
@[simp] theorem exclusive_top (b : Bool) : (0#31 ++ BitVec.ofBool b : BitVec 32).extractLsb' 1 31 = 0#31 := by cases b <;> rfl
@[simp] theorem exclusive_low (b : Bool) : (0#31 ++ BitVec.ofBool b : BitVec 32)[0] = b := by cases b <;> rfl
@[simp] theorem space_top (b : Bool) : (0#1 ++ BitVec.ofBool b : BitVec 2)[1] = false := by cases b <;> rfl
@[simp] theorem space_low (b : Bool) : (0#1 ++ BitVec.ofBool b : BitVec 2)[0] = b := by cases b <;> rfl
@[simp] theorem relation_low (x : BitVec 3) : (0#1 ++ x : BitVec 4).extractLsb' 0 3 = x := low_append _ _
theorem relation_toNat (x : BitVec 3) : (0#1 ++ x : BitVec 4).toNat = x.toNat := by revert x; decide

/-! ## Words -/

/-- The fields of the word of fields are those fields (R236). -/
theorem ofWord_toWord (f : Fields) : Fields.ofWord f.toWord = f := by
  obtain ⟨opc, sub, ty, msk, mneg, fmt, d, a, b, c, imm⟩ := f
  simp only [Fields.ofWord, Fields.toWord, Fields.mk.injEq]
  refine ⟨?_, ?_, ?_, ?_, ?_, ?_, ?_, ?_, ?_, ?_, ?_⟩
  · exact low_append _ _
  · iterate 1 rw [high_append _ _ _ (by decide) (by decide)]
    exact low_append _ _
  · iterate 2 rw [high_append _ _ _ (by decide) (by decide)]
    exact low_append _ _
  · iterate 3 rw [high_append _ _ _ (by decide) (by decide)]
    exact low_append _ _
  · iterate 4 rw [high_append _ _ _ (by decide) (by decide)]
    exact low_append _ _
  · iterate 5 rw [high_append _ _ _ (by decide) (by decide)]
    exact low_append _ _
  · iterate 6 rw [high_append _ _ _ (by decide) (by decide)]
    exact low_append _ _
  · iterate 7 rw [high_append _ _ _ (by decide) (by decide)]
    exact low_append _ _
  · iterate 8 rw [high_append _ _ _ (by decide) (by decide)]
    exact low_append _ _
  · iterate 9 rw [high_append _ _ _ (by decide) (by decide)]
    exact low_append _ _
  · iterate 10 rw [high_append _ _ _ (by decide) (by decide)]
    exact BitVec.extractLsb'_eq_self

end Sys2Proof.Laws
end

