-- ==== Sys2Proof/Laws/State.lean ====
section
/-!
SUPPORT. What each update of the state and of a warp leaves as it was, field by field: one lemma per field per update.
-/

namespace Sys2Proof.Machine

/-! ## `State.setWarp` -/

@[simp] theorem State.setWarp_plat (s : State) (w : Warp) : (s.setWarp w).plat = s.plat := rfl
@[simp] theorem State.setWarp_wafer (s : State) (w : Warp) : (s.setWarp w).wafer = s.wafer := rfl
@[simp] theorem State.setWarp_parts (s : State) (w : Warp) : (s.setWarp w).parts = s.parts := rfl
@[simp] theorem State.setWarp_cores (s : State) (w : Warp) : (s.setWarp w).cores = s.cores := rfl
@[simp] theorem State.setWarp_cache (s : State) (w : Warp) : (s.setWarp w).cache = s.cache := rfl
@[simp] theorem State.setWarp_gates (s : State) (w : Warp) : (s.setWarp w).gates = s.gates := rfl
@[simp] theorem State.setWarp_hbm (s : State) (w : Warp) : (s.setWarp w).hbm = s.hbm := rfl
@[simp] theorem State.setWarp_dram (s : State) (w : Warp) : (s.setWarp w).dram = s.dram := rfl
@[simp] theorem State.setWarp_tags (s : State) (w : Warp) : (s.setWarp w).tags = s.tags := rfl
@[simp] theorem State.setWarp_ecc (s : State) (w : Warp) : (s.setWarp w).ecc = s.ecc := rfl
@[simp] theorem State.setWarp_mcq (s : State) (w : Warp) : (s.setWarp w).mcq = s.mcq := rfl
@[simp] theorem State.setWarp_stall (s : State) (w : Warp) : (s.setWarp w).stall = s.stall := rfl
@[simp] theorem State.setWarp_host (s : State) (w : Warp) : (s.setWarp w).host = s.host := rfl
@[simp] theorem State.setWarp_pads (s : State) (w : Warp) : (s.setWarp w).pads = s.pads := rfl
@[simp] theorem State.setWarp_ops (s : State) (w : Warp) : (s.setWarp w).ops = s.ops := rfl
@[simp] theorem State.setWarp_copyq (s : State) (w : Warp) : (s.setWarp w).copyq = s.copyq := rfl
@[simp] theorem State.setWarp_colls (s : State) (w : Warp) : (s.setWarp w).colls = s.colls := rfl
@[simp] theorem State.setWarp_groups (s : State) (w : Warp) : (s.setWarp w).groups = s.groups := rfl
@[simp] theorem State.setWarp_pkts (s : State) (w : Warp) : (s.setWarp w).pkts = s.pkts := rfl
@[simp] theorem State.setWarp_bars (s : State) (w : Warp) : (s.setWarp w).bars = s.bars := rfl
@[simp] theorem State.setWarp_barq (s : State) (w : Warp) : (s.setWarp w).barq = s.barq := rfl
@[simp] theorem State.setWarp_ready (s : State) (w : Warp) : (s.setWarp w).ready = s.ready := rfl
@[simp] theorem State.setWarp_launches (s : State) (w : Warp) : (s.setWarp w).launches = s.launches := rfl
@[simp] theorem State.setWarp_queues (s : State) (w : Warp) : (s.setWarp w).queues = s.queues := rfl
@[simp] theorem State.setWarp_chans (s : State) (w : Warp) : (s.setWarp w).chans = s.chans := rfl
@[simp] theorem State.setWarp_ports (s : State) (w : Warp) : (s.setWarp w).ports = s.ports := rfl
@[simp] theorem State.setWarp_stats (s : State) (w : Warp) : (s.setWarp w).stats = s.stats := rfl
@[simp] theorem State.setWarp_cur (s : State) (w : Warp) : (s.setWarp w).cur = s.cur := rfl
@[simp] theorem State.setWarp_agenda (s : State) (w : Warp) : (s.setWarp w).agenda = s.agenda := rfl
@[simp] theorem State.setWarp_free (s : State) (w : Warp) : (s.setWarp w).free = s.free := rfl
@[simp] theorem State.setWarp_fresh (s : State) (w : Warp) : (s.setWarp w).fresh = s.fresh := rfl
@[simp] theorem State.setWarp_hostRd (s : State) (w : Warp) : (s.setWarp w).hostRd = s.hostRd := rfl

/-! ## `State.dropWarp` -/

@[simp] theorem State.dropWarp_plat (s : State) (k : Nat) : (s.dropWarp k).plat = s.plat := rfl
@[simp] theorem State.dropWarp_wafer (s : State) (k : Nat) : (s.dropWarp k).wafer = s.wafer := rfl
@[simp] theorem State.dropWarp_parts (s : State) (k : Nat) : (s.dropWarp k).parts = s.parts := rfl
@[simp] theorem State.dropWarp_cores (s : State) (k : Nat) : (s.dropWarp k).cores = s.cores := rfl
@[simp] theorem State.dropWarp_cache (s : State) (k : Nat) : (s.dropWarp k).cache = s.cache := rfl
@[simp] theorem State.dropWarp_gates (s : State) (k : Nat) : (s.dropWarp k).gates = s.gates := rfl
@[simp] theorem State.dropWarp_hbm (s : State) (k : Nat) : (s.dropWarp k).hbm = s.hbm := rfl
@[simp] theorem State.dropWarp_dram (s : State) (k : Nat) : (s.dropWarp k).dram = s.dram := rfl
@[simp] theorem State.dropWarp_tags (s : State) (k : Nat) : (s.dropWarp k).tags = s.tags := rfl
@[simp] theorem State.dropWarp_ecc (s : State) (k : Nat) : (s.dropWarp k).ecc = s.ecc := rfl
@[simp] theorem State.dropWarp_mcq (s : State) (k : Nat) : (s.dropWarp k).mcq = s.mcq := rfl
@[simp] theorem State.dropWarp_stall (s : State) (k : Nat) : (s.dropWarp k).stall = s.stall := rfl
@[simp] theorem State.dropWarp_host (s : State) (k : Nat) : (s.dropWarp k).host = s.host := rfl
@[simp] theorem State.dropWarp_pads (s : State) (k : Nat) : (s.dropWarp k).pads = s.pads := rfl
@[simp] theorem State.dropWarp_ops (s : State) (k : Nat) : (s.dropWarp k).ops = s.ops := rfl
@[simp] theorem State.dropWarp_copyq (s : State) (k : Nat) : (s.dropWarp k).copyq = s.copyq := rfl
@[simp] theorem State.dropWarp_colls (s : State) (k : Nat) : (s.dropWarp k).colls = s.colls := rfl
@[simp] theorem State.dropWarp_groups (s : State) (k : Nat) : (s.dropWarp k).groups = s.groups := rfl
@[simp] theorem State.dropWarp_pkts (s : State) (k : Nat) : (s.dropWarp k).pkts = s.pkts := rfl
@[simp] theorem State.dropWarp_bars (s : State) (k : Nat) : (s.dropWarp k).bars = s.bars := rfl
@[simp] theorem State.dropWarp_barq (s : State) (k : Nat) : (s.dropWarp k).barq = s.barq := rfl
@[simp] theorem State.dropWarp_ready (s : State) (k : Nat) : (s.dropWarp k).ready = s.ready := rfl
@[simp] theorem State.dropWarp_launches (s : State) (k : Nat) : (s.dropWarp k).launches = s.launches := rfl
@[simp] theorem State.dropWarp_queues (s : State) (k : Nat) : (s.dropWarp k).queues = s.queues := rfl
@[simp] theorem State.dropWarp_chans (s : State) (k : Nat) : (s.dropWarp k).chans = s.chans := rfl
@[simp] theorem State.dropWarp_ports (s : State) (k : Nat) : (s.dropWarp k).ports = s.ports := rfl
@[simp] theorem State.dropWarp_stats (s : State) (k : Nat) : (s.dropWarp k).stats = s.stats := rfl
@[simp] theorem State.dropWarp_cur (s : State) (k : Nat) : (s.dropWarp k).cur = s.cur := rfl
@[simp] theorem State.dropWarp_agenda (s : State) (k : Nat) : (s.dropWarp k).agenda = s.agenda := rfl
@[simp] theorem State.dropWarp_free (s : State) (k : Nat) : (s.dropWarp k).free = s.free := rfl
@[simp] theorem State.dropWarp_fresh (s : State) (k : Nat) : (s.dropWarp k).fresh = s.fresh := rfl
@[simp] theorem State.dropWarp_hostRd (s : State) (k : Nat) : (s.dropWarp k).hostRd = s.hostRd := rfl

/-! ## `State.updWarps` -/

@[simp] theorem State.updWarps_plat (s : State) (p : Warp → Bool) (f : Warp → Warp) : (s.updWarps p f).plat = s.plat := rfl
@[simp] theorem State.updWarps_wafer (s : State) (p : Warp → Bool) (f : Warp → Warp) : (s.updWarps p f).wafer = s.wafer := rfl
@[simp] theorem State.updWarps_parts (s : State) (p : Warp → Bool) (f : Warp → Warp) : (s.updWarps p f).parts = s.parts := rfl
@[simp] theorem State.updWarps_cores (s : State) (p : Warp → Bool) (f : Warp → Warp) : (s.updWarps p f).cores = s.cores := rfl
@[simp] theorem State.updWarps_cache (s : State) (p : Warp → Bool) (f : Warp → Warp) : (s.updWarps p f).cache = s.cache := rfl
@[simp] theorem State.updWarps_gates (s : State) (p : Warp → Bool) (f : Warp → Warp) : (s.updWarps p f).gates = s.gates := rfl
@[simp] theorem State.updWarps_hbm (s : State) (p : Warp → Bool) (f : Warp → Warp) : (s.updWarps p f).hbm = s.hbm := rfl
@[simp] theorem State.updWarps_dram (s : State) (p : Warp → Bool) (f : Warp → Warp) : (s.updWarps p f).dram = s.dram := rfl
@[simp] theorem State.updWarps_tags (s : State) (p : Warp → Bool) (f : Warp → Warp) : (s.updWarps p f).tags = s.tags := rfl
@[simp] theorem State.updWarps_ecc (s : State) (p : Warp → Bool) (f : Warp → Warp) : (s.updWarps p f).ecc = s.ecc := rfl
@[simp] theorem State.updWarps_mcq (s : State) (p : Warp → Bool) (f : Warp → Warp) : (s.updWarps p f).mcq = s.mcq := rfl
@[simp] theorem State.updWarps_stall (s : State) (p : Warp → Bool) (f : Warp → Warp) : (s.updWarps p f).stall = s.stall := rfl
@[simp] theorem State.updWarps_host (s : State) (p : Warp → Bool) (f : Warp → Warp) : (s.updWarps p f).host = s.host := rfl
@[simp] theorem State.updWarps_pads (s : State) (p : Warp → Bool) (f : Warp → Warp) : (s.updWarps p f).pads = s.pads := rfl
@[simp] theorem State.updWarps_ops (s : State) (p : Warp → Bool) (f : Warp → Warp) : (s.updWarps p f).ops = s.ops := rfl
@[simp] theorem State.updWarps_copyq (s : State) (p : Warp → Bool) (f : Warp → Warp) : (s.updWarps p f).copyq = s.copyq := rfl
@[simp] theorem State.updWarps_colls (s : State) (p : Warp → Bool) (f : Warp → Warp) : (s.updWarps p f).colls = s.colls := rfl
@[simp] theorem State.updWarps_groups (s : State) (p : Warp → Bool) (f : Warp → Warp) : (s.updWarps p f).groups = s.groups := rfl
@[simp] theorem State.updWarps_pkts (s : State) (p : Warp → Bool) (f : Warp → Warp) : (s.updWarps p f).pkts = s.pkts := rfl
@[simp] theorem State.updWarps_bars (s : State) (p : Warp → Bool) (f : Warp → Warp) : (s.updWarps p f).bars = s.bars := rfl
@[simp] theorem State.updWarps_barq (s : State) (p : Warp → Bool) (f : Warp → Warp) : (s.updWarps p f).barq = s.barq := rfl
@[simp] theorem State.updWarps_ready (s : State) (p : Warp → Bool) (f : Warp → Warp) : (s.updWarps p f).ready = s.ready := rfl
@[simp] theorem State.updWarps_launches (s : State) (p : Warp → Bool) (f : Warp → Warp) : (s.updWarps p f).launches = s.launches := rfl
@[simp] theorem State.updWarps_queues (s : State) (p : Warp → Bool) (f : Warp → Warp) : (s.updWarps p f).queues = s.queues := rfl
@[simp] theorem State.updWarps_chans (s : State) (p : Warp → Bool) (f : Warp → Warp) : (s.updWarps p f).chans = s.chans := rfl
@[simp] theorem State.updWarps_ports (s : State) (p : Warp → Bool) (f : Warp → Warp) : (s.updWarps p f).ports = s.ports := rfl
@[simp] theorem State.updWarps_stats (s : State) (p : Warp → Bool) (f : Warp → Warp) : (s.updWarps p f).stats = s.stats := rfl
@[simp] theorem State.updWarps_cur (s : State) (p : Warp → Bool) (f : Warp → Warp) : (s.updWarps p f).cur = s.cur := rfl
@[simp] theorem State.updWarps_agenda (s : State) (p : Warp → Bool) (f : Warp → Warp) : (s.updWarps p f).agenda = s.agenda := rfl
@[simp] theorem State.updWarps_free (s : State) (p : Warp → Bool) (f : Warp → Warp) : (s.updWarps p f).free = s.free := rfl
@[simp] theorem State.updWarps_fresh (s : State) (p : Warp → Bool) (f : Warp → Warp) : (s.updWarps p f).fresh = s.fresh := rfl
@[simp] theorem State.updWarps_hostRd (s : State) (p : Warp → Bool) (f : Warp → Warp) : (s.updWarps p f).hostRd = s.hostRd := rfl

/-! ## `State.updCore` -/

@[simp] theorem State.updCore_plat (s : State) (k : Nat) (f : Core → Core) : (s.updCore k f).plat = s.plat := rfl
@[simp] theorem State.updCore_wafer (s : State) (k : Nat) (f : Core → Core) : (s.updCore k f).wafer = s.wafer := rfl
@[simp] theorem State.updCore_parts (s : State) (k : Nat) (f : Core → Core) : (s.updCore k f).parts = s.parts := rfl
@[simp] theorem State.updCore_warps (s : State) (k : Nat) (f : Core → Core) : (s.updCore k f).warps = s.warps := rfl
@[simp] theorem State.updCore_cache (s : State) (k : Nat) (f : Core → Core) : (s.updCore k f).cache = s.cache := rfl
@[simp] theorem State.updCore_gates (s : State) (k : Nat) (f : Core → Core) : (s.updCore k f).gates = s.gates := rfl
@[simp] theorem State.updCore_hbm (s : State) (k : Nat) (f : Core → Core) : (s.updCore k f).hbm = s.hbm := rfl
@[simp] theorem State.updCore_dram (s : State) (k : Nat) (f : Core → Core) : (s.updCore k f).dram = s.dram := rfl
@[simp] theorem State.updCore_tags (s : State) (k : Nat) (f : Core → Core) : (s.updCore k f).tags = s.tags := rfl
@[simp] theorem State.updCore_ecc (s : State) (k : Nat) (f : Core → Core) : (s.updCore k f).ecc = s.ecc := rfl
@[simp] theorem State.updCore_mcq (s : State) (k : Nat) (f : Core → Core) : (s.updCore k f).mcq = s.mcq := rfl
@[simp] theorem State.updCore_stall (s : State) (k : Nat) (f : Core → Core) : (s.updCore k f).stall = s.stall := rfl
@[simp] theorem State.updCore_host (s : State) (k : Nat) (f : Core → Core) : (s.updCore k f).host = s.host := rfl
@[simp] theorem State.updCore_pads (s : State) (k : Nat) (f : Core → Core) : (s.updCore k f).pads = s.pads := rfl
@[simp] theorem State.updCore_ops (s : State) (k : Nat) (f : Core → Core) : (s.updCore k f).ops = s.ops := rfl
@[simp] theorem State.updCore_copyq (s : State) (k : Nat) (f : Core → Core) : (s.updCore k f).copyq = s.copyq := rfl
@[simp] theorem State.updCore_colls (s : State) (k : Nat) (f : Core → Core) : (s.updCore k f).colls = s.colls := rfl
@[simp] theorem State.updCore_groups (s : State) (k : Nat) (f : Core → Core) : (s.updCore k f).groups = s.groups := rfl
@[simp] theorem State.updCore_pkts (s : State) (k : Nat) (f : Core → Core) : (s.updCore k f).pkts = s.pkts := rfl
@[simp] theorem State.updCore_bars (s : State) (k : Nat) (f : Core → Core) : (s.updCore k f).bars = s.bars := rfl
@[simp] theorem State.updCore_barq (s : State) (k : Nat) (f : Core → Core) : (s.updCore k f).barq = s.barq := rfl
@[simp] theorem State.updCore_ready (s : State) (k : Nat) (f : Core → Core) : (s.updCore k f).ready = s.ready := rfl
@[simp] theorem State.updCore_launches (s : State) (k : Nat) (f : Core → Core) : (s.updCore k f).launches = s.launches := rfl
@[simp] theorem State.updCore_queues (s : State) (k : Nat) (f : Core → Core) : (s.updCore k f).queues = s.queues := rfl
@[simp] theorem State.updCore_chans (s : State) (k : Nat) (f : Core → Core) : (s.updCore k f).chans = s.chans := rfl
@[simp] theorem State.updCore_ports (s : State) (k : Nat) (f : Core → Core) : (s.updCore k f).ports = s.ports := rfl
@[simp] theorem State.updCore_stats (s : State) (k : Nat) (f : Core → Core) : (s.updCore k f).stats = s.stats := rfl
@[simp] theorem State.updCore_cur (s : State) (k : Nat) (f : Core → Core) : (s.updCore k f).cur = s.cur := rfl
@[simp] theorem State.updCore_agenda (s : State) (k : Nat) (f : Core → Core) : (s.updCore k f).agenda = s.agenda := rfl
@[simp] theorem State.updCore_free (s : State) (k : Nat) (f : Core → Core) : (s.updCore k f).free = s.free := rfl
@[simp] theorem State.updCore_fresh (s : State) (k : Nat) (f : Core → Core) : (s.updCore k f).fresh = s.fresh := rfl
@[simp] theorem State.updCore_hostRd (s : State) (k : Nat) (f : Core → Core) : (s.updCore k f).hostRd = s.hostRd := rfl

/-! ## `State.updStack` -/

@[simp] theorem State.updStack_plat (s : State) (k : Nat) (f : Stack → Stack) : (s.updStack k f).plat = s.plat := rfl
@[simp] theorem State.updStack_wafer (s : State) (k : Nat) (f : Stack → Stack) : (s.updStack k f).wafer = s.wafer := rfl
@[simp] theorem State.updStack_parts (s : State) (k : Nat) (f : Stack → Stack) : (s.updStack k f).parts = s.parts := rfl
@[simp] theorem State.updStack_cores (s : State) (k : Nat) (f : Stack → Stack) : (s.updStack k f).cores = s.cores := rfl
@[simp] theorem State.updStack_warps (s : State) (k : Nat) (f : Stack → Stack) : (s.updStack k f).warps = s.warps := rfl
@[simp] theorem State.updStack_cache (s : State) (k : Nat) (f : Stack → Stack) : (s.updStack k f).cache = s.cache := rfl
@[simp] theorem State.updStack_gates (s : State) (k : Nat) (f : Stack → Stack) : (s.updStack k f).gates = s.gates := rfl
@[simp] theorem State.updStack_dram (s : State) (k : Nat) (f : Stack → Stack) : (s.updStack k f).dram = s.dram := rfl
@[simp] theorem State.updStack_tags (s : State) (k : Nat) (f : Stack → Stack) : (s.updStack k f).tags = s.tags := rfl
@[simp] theorem State.updStack_ecc (s : State) (k : Nat) (f : Stack → Stack) : (s.updStack k f).ecc = s.ecc := rfl
@[simp] theorem State.updStack_mcq (s : State) (k : Nat) (f : Stack → Stack) : (s.updStack k f).mcq = s.mcq := rfl
@[simp] theorem State.updStack_stall (s : State) (k : Nat) (f : Stack → Stack) : (s.updStack k f).stall = s.stall := rfl
@[simp] theorem State.updStack_host (s : State) (k : Nat) (f : Stack → Stack) : (s.updStack k f).host = s.host := rfl
@[simp] theorem State.updStack_pads (s : State) (k : Nat) (f : Stack → Stack) : (s.updStack k f).pads = s.pads := rfl
@[simp] theorem State.updStack_ops (s : State) (k : Nat) (f : Stack → Stack) : (s.updStack k f).ops = s.ops := rfl
@[simp] theorem State.updStack_copyq (s : State) (k : Nat) (f : Stack → Stack) : (s.updStack k f).copyq = s.copyq := rfl
@[simp] theorem State.updStack_colls (s : State) (k : Nat) (f : Stack → Stack) : (s.updStack k f).colls = s.colls := rfl
@[simp] theorem State.updStack_groups (s : State) (k : Nat) (f : Stack → Stack) : (s.updStack k f).groups = s.groups := rfl
@[simp] theorem State.updStack_pkts (s : State) (k : Nat) (f : Stack → Stack) : (s.updStack k f).pkts = s.pkts := rfl
@[simp] theorem State.updStack_bars (s : State) (k : Nat) (f : Stack → Stack) : (s.updStack k f).bars = s.bars := rfl
@[simp] theorem State.updStack_barq (s : State) (k : Nat) (f : Stack → Stack) : (s.updStack k f).barq = s.barq := rfl
@[simp] theorem State.updStack_ready (s : State) (k : Nat) (f : Stack → Stack) : (s.updStack k f).ready = s.ready := rfl
@[simp] theorem State.updStack_launches (s : State) (k : Nat) (f : Stack → Stack) : (s.updStack k f).launches = s.launches := rfl
@[simp] theorem State.updStack_queues (s : State) (k : Nat) (f : Stack → Stack) : (s.updStack k f).queues = s.queues := rfl
@[simp] theorem State.updStack_chans (s : State) (k : Nat) (f : Stack → Stack) : (s.updStack k f).chans = s.chans := rfl
@[simp] theorem State.updStack_ports (s : State) (k : Nat) (f : Stack → Stack) : (s.updStack k f).ports = s.ports := rfl
@[simp] theorem State.updStack_stats (s : State) (k : Nat) (f : Stack → Stack) : (s.updStack k f).stats = s.stats := rfl
@[simp] theorem State.updStack_cur (s : State) (k : Nat) (f : Stack → Stack) : (s.updStack k f).cur = s.cur := rfl
@[simp] theorem State.updStack_agenda (s : State) (k : Nat) (f : Stack → Stack) : (s.updStack k f).agenda = s.agenda := rfl
@[simp] theorem State.updStack_free (s : State) (k : Nat) (f : Stack → Stack) : (s.updStack k f).free = s.free := rfl
@[simp] theorem State.updStack_fresh (s : State) (k : Nat) (f : Stack → Stack) : (s.updStack k f).fresh = s.fresh := rfl
@[simp] theorem State.updStack_hostRd (s : State) (k : Nat) (f : Stack → Stack) : (s.updStack k f).hostRd = s.hostRd := rfl

/-! ## `State.updPart` -/

@[simp] theorem State.updPart_plat (s : State) (k : Nat) (f : Part → Part) : (s.updPart k f).plat = s.plat := rfl
@[simp] theorem State.updPart_wafer (s : State) (k : Nat) (f : Part → Part) : (s.updPart k f).wafer = s.wafer := rfl
@[simp] theorem State.updPart_cores (s : State) (k : Nat) (f : Part → Part) : (s.updPart k f).cores = s.cores := rfl
@[simp] theorem State.updPart_warps (s : State) (k : Nat) (f : Part → Part) : (s.updPart k f).warps = s.warps := rfl
@[simp] theorem State.updPart_cache (s : State) (k : Nat) (f : Part → Part) : (s.updPart k f).cache = s.cache := rfl
@[simp] theorem State.updPart_gates (s : State) (k : Nat) (f : Part → Part) : (s.updPart k f).gates = s.gates := rfl
@[simp] theorem State.updPart_hbm (s : State) (k : Nat) (f : Part → Part) : (s.updPart k f).hbm = s.hbm := rfl
@[simp] theorem State.updPart_dram (s : State) (k : Nat) (f : Part → Part) : (s.updPart k f).dram = s.dram := rfl
@[simp] theorem State.updPart_tags (s : State) (k : Nat) (f : Part → Part) : (s.updPart k f).tags = s.tags := rfl
@[simp] theorem State.updPart_ecc (s : State) (k : Nat) (f : Part → Part) : (s.updPart k f).ecc = s.ecc := rfl
@[simp] theorem State.updPart_mcq (s : State) (k : Nat) (f : Part → Part) : (s.updPart k f).mcq = s.mcq := rfl
@[simp] theorem State.updPart_stall (s : State) (k : Nat) (f : Part → Part) : (s.updPart k f).stall = s.stall := rfl
@[simp] theorem State.updPart_host (s : State) (k : Nat) (f : Part → Part) : (s.updPart k f).host = s.host := rfl
@[simp] theorem State.updPart_pads (s : State) (k : Nat) (f : Part → Part) : (s.updPart k f).pads = s.pads := rfl
@[simp] theorem State.updPart_ops (s : State) (k : Nat) (f : Part → Part) : (s.updPart k f).ops = s.ops := rfl
@[simp] theorem State.updPart_copyq (s : State) (k : Nat) (f : Part → Part) : (s.updPart k f).copyq = s.copyq := rfl
@[simp] theorem State.updPart_colls (s : State) (k : Nat) (f : Part → Part) : (s.updPart k f).colls = s.colls := rfl
@[simp] theorem State.updPart_groups (s : State) (k : Nat) (f : Part → Part) : (s.updPart k f).groups = s.groups := rfl
@[simp] theorem State.updPart_pkts (s : State) (k : Nat) (f : Part → Part) : (s.updPart k f).pkts = s.pkts := rfl
@[simp] theorem State.updPart_bars (s : State) (k : Nat) (f : Part → Part) : (s.updPart k f).bars = s.bars := rfl
@[simp] theorem State.updPart_barq (s : State) (k : Nat) (f : Part → Part) : (s.updPart k f).barq = s.barq := rfl
@[simp] theorem State.updPart_ready (s : State) (k : Nat) (f : Part → Part) : (s.updPart k f).ready = s.ready := rfl
@[simp] theorem State.updPart_launches (s : State) (k : Nat) (f : Part → Part) : (s.updPart k f).launches = s.launches := rfl
@[simp] theorem State.updPart_queues (s : State) (k : Nat) (f : Part → Part) : (s.updPart k f).queues = s.queues := rfl
@[simp] theorem State.updPart_chans (s : State) (k : Nat) (f : Part → Part) : (s.updPart k f).chans = s.chans := rfl
@[simp] theorem State.updPart_ports (s : State) (k : Nat) (f : Part → Part) : (s.updPart k f).ports = s.ports := rfl
@[simp] theorem State.updPart_stats (s : State) (k : Nat) (f : Part → Part) : (s.updPart k f).stats = s.stats := rfl
@[simp] theorem State.updPart_cur (s : State) (k : Nat) (f : Part → Part) : (s.updPart k f).cur = s.cur := rfl
@[simp] theorem State.updPart_agenda (s : State) (k : Nat) (f : Part → Part) : (s.updPart k f).agenda = s.agenda := rfl
@[simp] theorem State.updPart_free (s : State) (k : Nat) (f : Part → Part) : (s.updPart k f).free = s.free := rfl
@[simp] theorem State.updPart_fresh (s : State) (k : Nat) (f : Part → Part) : (s.updPart k f).fresh = s.fresh := rfl
@[simp] theorem State.updPart_hostRd (s : State) (k : Nat) (f : Part → Part) : (s.updPart k f).hostRd = s.hostRd := rfl

/-! ## `State.updCtx` -/

@[simp] theorem State.updCtx_plat (s : State) (p c : Nat) (f : Ctx → Ctx) : (s.updCtx p c f).plat = s.plat := rfl
@[simp] theorem State.updCtx_wafer (s : State) (p c : Nat) (f : Ctx → Ctx) : (s.updCtx p c f).wafer = s.wafer := rfl
@[simp] theorem State.updCtx_cores (s : State) (p c : Nat) (f : Ctx → Ctx) : (s.updCtx p c f).cores = s.cores := rfl
@[simp] theorem State.updCtx_warps (s : State) (p c : Nat) (f : Ctx → Ctx) : (s.updCtx p c f).warps = s.warps := rfl
@[simp] theorem State.updCtx_cache (s : State) (p c : Nat) (f : Ctx → Ctx) : (s.updCtx p c f).cache = s.cache := rfl
@[simp] theorem State.updCtx_gates (s : State) (p c : Nat) (f : Ctx → Ctx) : (s.updCtx p c f).gates = s.gates := rfl
@[simp] theorem State.updCtx_hbm (s : State) (p c : Nat) (f : Ctx → Ctx) : (s.updCtx p c f).hbm = s.hbm := rfl
@[simp] theorem State.updCtx_dram (s : State) (p c : Nat) (f : Ctx → Ctx) : (s.updCtx p c f).dram = s.dram := rfl
@[simp] theorem State.updCtx_tags (s : State) (p c : Nat) (f : Ctx → Ctx) : (s.updCtx p c f).tags = s.tags := rfl
@[simp] theorem State.updCtx_ecc (s : State) (p c : Nat) (f : Ctx → Ctx) : (s.updCtx p c f).ecc = s.ecc := rfl
@[simp] theorem State.updCtx_mcq (s : State) (p c : Nat) (f : Ctx → Ctx) : (s.updCtx p c f).mcq = s.mcq := rfl
@[simp] theorem State.updCtx_stall (s : State) (p c : Nat) (f : Ctx → Ctx) : (s.updCtx p c f).stall = s.stall := rfl
@[simp] theorem State.updCtx_host (s : State) (p c : Nat) (f : Ctx → Ctx) : (s.updCtx p c f).host = s.host := rfl
@[simp] theorem State.updCtx_pads (s : State) (p c : Nat) (f : Ctx → Ctx) : (s.updCtx p c f).pads = s.pads := rfl
@[simp] theorem State.updCtx_ops (s : State) (p c : Nat) (f : Ctx → Ctx) : (s.updCtx p c f).ops = s.ops := rfl
@[simp] theorem State.updCtx_copyq (s : State) (p c : Nat) (f : Ctx → Ctx) : (s.updCtx p c f).copyq = s.copyq := rfl
@[simp] theorem State.updCtx_colls (s : State) (p c : Nat) (f : Ctx → Ctx) : (s.updCtx p c f).colls = s.colls := rfl
@[simp] theorem State.updCtx_groups (s : State) (p c : Nat) (f : Ctx → Ctx) : (s.updCtx p c f).groups = s.groups := rfl
@[simp] theorem State.updCtx_pkts (s : State) (p c : Nat) (f : Ctx → Ctx) : (s.updCtx p c f).pkts = s.pkts := rfl
@[simp] theorem State.updCtx_bars (s : State) (p c : Nat) (f : Ctx → Ctx) : (s.updCtx p c f).bars = s.bars := rfl
@[simp] theorem State.updCtx_barq (s : State) (p c : Nat) (f : Ctx → Ctx) : (s.updCtx p c f).barq = s.barq := rfl
@[simp] theorem State.updCtx_ready (s : State) (p c : Nat) (f : Ctx → Ctx) : (s.updCtx p c f).ready = s.ready := rfl
@[simp] theorem State.updCtx_launches (s : State) (p c : Nat) (f : Ctx → Ctx) : (s.updCtx p c f).launches = s.launches := rfl
@[simp] theorem State.updCtx_queues (s : State) (p c : Nat) (f : Ctx → Ctx) : (s.updCtx p c f).queues = s.queues := rfl
@[simp] theorem State.updCtx_chans (s : State) (p c : Nat) (f : Ctx → Ctx) : (s.updCtx p c f).chans = s.chans := rfl
@[simp] theorem State.updCtx_ports (s : State) (p c : Nat) (f : Ctx → Ctx) : (s.updCtx p c f).ports = s.ports := rfl
@[simp] theorem State.updCtx_stats (s : State) (p c : Nat) (f : Ctx → Ctx) : (s.updCtx p c f).stats = s.stats := rfl
@[simp] theorem State.updCtx_cur (s : State) (p c : Nat) (f : Ctx → Ctx) : (s.updCtx p c f).cur = s.cur := rfl
@[simp] theorem State.updCtx_agenda (s : State) (p c : Nat) (f : Ctx → Ctx) : (s.updCtx p c f).agenda = s.agenda := rfl
@[simp] theorem State.updCtx_free (s : State) (p c : Nat) (f : Ctx → Ctx) : (s.updCtx p c f).free = s.free := rfl
@[simp] theorem State.updCtx_fresh (s : State) (p c : Nat) (f : Ctx → Ctx) : (s.updCtx p c f).fresh = s.fresh := rfl
@[simp] theorem State.updCtx_hostRd (s : State) (p c : Nat) (f : Ctx → Ctx) : (s.updCtx p c f).hostRd = s.hostRd := rfl

/-! ## `State.updQueue` -/

@[simp] theorem State.updQueue_plat (s : State) (k : Nat) (f : WorkQ → WorkQ) : (s.updQueue k f).plat = s.plat := rfl
@[simp] theorem State.updQueue_wafer (s : State) (k : Nat) (f : WorkQ → WorkQ) : (s.updQueue k f).wafer = s.wafer := rfl
@[simp] theorem State.updQueue_parts (s : State) (k : Nat) (f : WorkQ → WorkQ) : (s.updQueue k f).parts = s.parts := rfl
@[simp] theorem State.updQueue_cores (s : State) (k : Nat) (f : WorkQ → WorkQ) : (s.updQueue k f).cores = s.cores := rfl
@[simp] theorem State.updQueue_warps (s : State) (k : Nat) (f : WorkQ → WorkQ) : (s.updQueue k f).warps = s.warps := rfl
@[simp] theorem State.updQueue_cache (s : State) (k : Nat) (f : WorkQ → WorkQ) : (s.updQueue k f).cache = s.cache := rfl
@[simp] theorem State.updQueue_gates (s : State) (k : Nat) (f : WorkQ → WorkQ) : (s.updQueue k f).gates = s.gates := rfl
@[simp] theorem State.updQueue_hbm (s : State) (k : Nat) (f : WorkQ → WorkQ) : (s.updQueue k f).hbm = s.hbm := rfl
@[simp] theorem State.updQueue_dram (s : State) (k : Nat) (f : WorkQ → WorkQ) : (s.updQueue k f).dram = s.dram := rfl
@[simp] theorem State.updQueue_tags (s : State) (k : Nat) (f : WorkQ → WorkQ) : (s.updQueue k f).tags = s.tags := rfl
@[simp] theorem State.updQueue_ecc (s : State) (k : Nat) (f : WorkQ → WorkQ) : (s.updQueue k f).ecc = s.ecc := rfl
@[simp] theorem State.updQueue_mcq (s : State) (k : Nat) (f : WorkQ → WorkQ) : (s.updQueue k f).mcq = s.mcq := rfl
@[simp] theorem State.updQueue_stall (s : State) (k : Nat) (f : WorkQ → WorkQ) : (s.updQueue k f).stall = s.stall := rfl
@[simp] theorem State.updQueue_host (s : State) (k : Nat) (f : WorkQ → WorkQ) : (s.updQueue k f).host = s.host := rfl
@[simp] theorem State.updQueue_pads (s : State) (k : Nat) (f : WorkQ → WorkQ) : (s.updQueue k f).pads = s.pads := rfl
@[simp] theorem State.updQueue_ops (s : State) (k : Nat) (f : WorkQ → WorkQ) : (s.updQueue k f).ops = s.ops := rfl
@[simp] theorem State.updQueue_copyq (s : State) (k : Nat) (f : WorkQ → WorkQ) : (s.updQueue k f).copyq = s.copyq := rfl
@[simp] theorem State.updQueue_colls (s : State) (k : Nat) (f : WorkQ → WorkQ) : (s.updQueue k f).colls = s.colls := rfl
@[simp] theorem State.updQueue_groups (s : State) (k : Nat) (f : WorkQ → WorkQ) : (s.updQueue k f).groups = s.groups := rfl
@[simp] theorem State.updQueue_pkts (s : State) (k : Nat) (f : WorkQ → WorkQ) : (s.updQueue k f).pkts = s.pkts := rfl
@[simp] theorem State.updQueue_bars (s : State) (k : Nat) (f : WorkQ → WorkQ) : (s.updQueue k f).bars = s.bars := rfl
@[simp] theorem State.updQueue_barq (s : State) (k : Nat) (f : WorkQ → WorkQ) : (s.updQueue k f).barq = s.barq := rfl
@[simp] theorem State.updQueue_ready (s : State) (k : Nat) (f : WorkQ → WorkQ) : (s.updQueue k f).ready = s.ready := rfl
@[simp] theorem State.updQueue_launches (s : State) (k : Nat) (f : WorkQ → WorkQ) : (s.updQueue k f).launches = s.launches := rfl
@[simp] theorem State.updQueue_chans (s : State) (k : Nat) (f : WorkQ → WorkQ) : (s.updQueue k f).chans = s.chans := rfl
@[simp] theorem State.updQueue_ports (s : State) (k : Nat) (f : WorkQ → WorkQ) : (s.updQueue k f).ports = s.ports := rfl
@[simp] theorem State.updQueue_stats (s : State) (k : Nat) (f : WorkQ → WorkQ) : (s.updQueue k f).stats = s.stats := rfl
@[simp] theorem State.updQueue_cur (s : State) (k : Nat) (f : WorkQ → WorkQ) : (s.updQueue k f).cur = s.cur := rfl
@[simp] theorem State.updQueue_agenda (s : State) (k : Nat) (f : WorkQ → WorkQ) : (s.updQueue k f).agenda = s.agenda := rfl
@[simp] theorem State.updQueue_free (s : State) (k : Nat) (f : WorkQ → WorkQ) : (s.updQueue k f).free = s.free := rfl
@[simp] theorem State.updQueue_fresh (s : State) (k : Nat) (f : WorkQ → WorkQ) : (s.updQueue k f).fresh = s.fresh := rfl
@[simp] theorem State.updQueue_hostRd (s : State) (k : Nat) (f : WorkQ → WorkQ) : (s.updQueue k f).hostRd = s.hostRd := rfl

/-! ## `State.updChan` -/

@[simp] theorem State.updChan_plat (s : State) (k : Nat) (f : Chan → Chan) : (s.updChan k f).plat = s.plat := rfl
@[simp] theorem State.updChan_wafer (s : State) (k : Nat) (f : Chan → Chan) : (s.updChan k f).wafer = s.wafer := rfl
@[simp] theorem State.updChan_parts (s : State) (k : Nat) (f : Chan → Chan) : (s.updChan k f).parts = s.parts := rfl
@[simp] theorem State.updChan_cores (s : State) (k : Nat) (f : Chan → Chan) : (s.updChan k f).cores = s.cores := rfl
@[simp] theorem State.updChan_warps (s : State) (k : Nat) (f : Chan → Chan) : (s.updChan k f).warps = s.warps := rfl
@[simp] theorem State.updChan_cache (s : State) (k : Nat) (f : Chan → Chan) : (s.updChan k f).cache = s.cache := rfl
@[simp] theorem State.updChan_gates (s : State) (k : Nat) (f : Chan → Chan) : (s.updChan k f).gates = s.gates := rfl
@[simp] theorem State.updChan_hbm (s : State) (k : Nat) (f : Chan → Chan) : (s.updChan k f).hbm = s.hbm := rfl
@[simp] theorem State.updChan_dram (s : State) (k : Nat) (f : Chan → Chan) : (s.updChan k f).dram = s.dram := rfl
@[simp] theorem State.updChan_tags (s : State) (k : Nat) (f : Chan → Chan) : (s.updChan k f).tags = s.tags := rfl
@[simp] theorem State.updChan_ecc (s : State) (k : Nat) (f : Chan → Chan) : (s.updChan k f).ecc = s.ecc := rfl
@[simp] theorem State.updChan_mcq (s : State) (k : Nat) (f : Chan → Chan) : (s.updChan k f).mcq = s.mcq := rfl
@[simp] theorem State.updChan_stall (s : State) (k : Nat) (f : Chan → Chan) : (s.updChan k f).stall = s.stall := rfl
@[simp] theorem State.updChan_host (s : State) (k : Nat) (f : Chan → Chan) : (s.updChan k f).host = s.host := rfl
@[simp] theorem State.updChan_pads (s : State) (k : Nat) (f : Chan → Chan) : (s.updChan k f).pads = s.pads := rfl
@[simp] theorem State.updChan_ops (s : State) (k : Nat) (f : Chan → Chan) : (s.updChan k f).ops = s.ops := rfl
@[simp] theorem State.updChan_copyq (s : State) (k : Nat) (f : Chan → Chan) : (s.updChan k f).copyq = s.copyq := rfl
@[simp] theorem State.updChan_colls (s : State) (k : Nat) (f : Chan → Chan) : (s.updChan k f).colls = s.colls := rfl
@[simp] theorem State.updChan_groups (s : State) (k : Nat) (f : Chan → Chan) : (s.updChan k f).groups = s.groups := rfl
@[simp] theorem State.updChan_pkts (s : State) (k : Nat) (f : Chan → Chan) : (s.updChan k f).pkts = s.pkts := rfl
@[simp] theorem State.updChan_bars (s : State) (k : Nat) (f : Chan → Chan) : (s.updChan k f).bars = s.bars := rfl
@[simp] theorem State.updChan_barq (s : State) (k : Nat) (f : Chan → Chan) : (s.updChan k f).barq = s.barq := rfl
@[simp] theorem State.updChan_ready (s : State) (k : Nat) (f : Chan → Chan) : (s.updChan k f).ready = s.ready := rfl
@[simp] theorem State.updChan_launches (s : State) (k : Nat) (f : Chan → Chan) : (s.updChan k f).launches = s.launches := rfl
@[simp] theorem State.updChan_queues (s : State) (k : Nat) (f : Chan → Chan) : (s.updChan k f).queues = s.queues := rfl
@[simp] theorem State.updChan_ports (s : State) (k : Nat) (f : Chan → Chan) : (s.updChan k f).ports = s.ports := rfl
@[simp] theorem State.updChan_stats (s : State) (k : Nat) (f : Chan → Chan) : (s.updChan k f).stats = s.stats := rfl
@[simp] theorem State.updChan_cur (s : State) (k : Nat) (f : Chan → Chan) : (s.updChan k f).cur = s.cur := rfl
@[simp] theorem State.updChan_agenda (s : State) (k : Nat) (f : Chan → Chan) : (s.updChan k f).agenda = s.agenda := rfl
@[simp] theorem State.updChan_free (s : State) (k : Nat) (f : Chan → Chan) : (s.updChan k f).free = s.free := rfl
@[simp] theorem State.updChan_fresh (s : State) (k : Nat) (f : Chan → Chan) : (s.updChan k f).fresh = s.fresh := rfl
@[simp] theorem State.updChan_hostRd (s : State) (k : Nat) (f : Chan → Chan) : (s.updChan k f).hostRd = s.hostRd := rfl

/-! ## `State.updPort` -/

@[simp] theorem State.updPort_plat (s : State) (k : Nat) (f : Port → Port) : (s.updPort k f).plat = s.plat := rfl
@[simp] theorem State.updPort_wafer (s : State) (k : Nat) (f : Port → Port) : (s.updPort k f).wafer = s.wafer := rfl
@[simp] theorem State.updPort_parts (s : State) (k : Nat) (f : Port → Port) : (s.updPort k f).parts = s.parts := rfl
@[simp] theorem State.updPort_cores (s : State) (k : Nat) (f : Port → Port) : (s.updPort k f).cores = s.cores := rfl
@[simp] theorem State.updPort_warps (s : State) (k : Nat) (f : Port → Port) : (s.updPort k f).warps = s.warps := rfl
@[simp] theorem State.updPort_cache (s : State) (k : Nat) (f : Port → Port) : (s.updPort k f).cache = s.cache := rfl
@[simp] theorem State.updPort_gates (s : State) (k : Nat) (f : Port → Port) : (s.updPort k f).gates = s.gates := rfl
@[simp] theorem State.updPort_hbm (s : State) (k : Nat) (f : Port → Port) : (s.updPort k f).hbm = s.hbm := rfl
@[simp] theorem State.updPort_dram (s : State) (k : Nat) (f : Port → Port) : (s.updPort k f).dram = s.dram := rfl
@[simp] theorem State.updPort_tags (s : State) (k : Nat) (f : Port → Port) : (s.updPort k f).tags = s.tags := rfl
@[simp] theorem State.updPort_ecc (s : State) (k : Nat) (f : Port → Port) : (s.updPort k f).ecc = s.ecc := rfl
@[simp] theorem State.updPort_mcq (s : State) (k : Nat) (f : Port → Port) : (s.updPort k f).mcq = s.mcq := rfl
@[simp] theorem State.updPort_stall (s : State) (k : Nat) (f : Port → Port) : (s.updPort k f).stall = s.stall := rfl
@[simp] theorem State.updPort_host (s : State) (k : Nat) (f : Port → Port) : (s.updPort k f).host = s.host := rfl
@[simp] theorem State.updPort_pads (s : State) (k : Nat) (f : Port → Port) : (s.updPort k f).pads = s.pads := rfl
@[simp] theorem State.updPort_ops (s : State) (k : Nat) (f : Port → Port) : (s.updPort k f).ops = s.ops := rfl
@[simp] theorem State.updPort_copyq (s : State) (k : Nat) (f : Port → Port) : (s.updPort k f).copyq = s.copyq := rfl
@[simp] theorem State.updPort_colls (s : State) (k : Nat) (f : Port → Port) : (s.updPort k f).colls = s.colls := rfl
@[simp] theorem State.updPort_groups (s : State) (k : Nat) (f : Port → Port) : (s.updPort k f).groups = s.groups := rfl
@[simp] theorem State.updPort_pkts (s : State) (k : Nat) (f : Port → Port) : (s.updPort k f).pkts = s.pkts := rfl
@[simp] theorem State.updPort_bars (s : State) (k : Nat) (f : Port → Port) : (s.updPort k f).bars = s.bars := rfl
@[simp] theorem State.updPort_barq (s : State) (k : Nat) (f : Port → Port) : (s.updPort k f).barq = s.barq := rfl
@[simp] theorem State.updPort_ready (s : State) (k : Nat) (f : Port → Port) : (s.updPort k f).ready = s.ready := rfl
@[simp] theorem State.updPort_launches (s : State) (k : Nat) (f : Port → Port) : (s.updPort k f).launches = s.launches := rfl
@[simp] theorem State.updPort_queues (s : State) (k : Nat) (f : Port → Port) : (s.updPort k f).queues = s.queues := rfl
@[simp] theorem State.updPort_chans (s : State) (k : Nat) (f : Port → Port) : (s.updPort k f).chans = s.chans := rfl
@[simp] theorem State.updPort_stats (s : State) (k : Nat) (f : Port → Port) : (s.updPort k f).stats = s.stats := rfl
@[simp] theorem State.updPort_cur (s : State) (k : Nat) (f : Port → Port) : (s.updPort k f).cur = s.cur := rfl
@[simp] theorem State.updPort_agenda (s : State) (k : Nat) (f : Port → Port) : (s.updPort k f).agenda = s.agenda := rfl
@[simp] theorem State.updPort_free (s : State) (k : Nat) (f : Port → Port) : (s.updPort k f).free = s.free := rfl
@[simp] theorem State.updPort_fresh (s : State) (k : Nat) (f : Port → Port) : (s.updPort k f).fresh = s.fresh := rfl
@[simp] theorem State.updPort_hostRd (s : State) (k : Nat) (f : Port → Port) : (s.updPort k f).hostRd = s.hostRd := rfl

/-! ## `State.updLaunch` -/

@[simp] theorem State.updLaunch_plat (s : State) (k : Nat) (f : Launch → Launch) : (s.updLaunch k f).plat = s.plat := rfl
@[simp] theorem State.updLaunch_wafer (s : State) (k : Nat) (f : Launch → Launch) : (s.updLaunch k f).wafer = s.wafer := rfl
@[simp] theorem State.updLaunch_parts (s : State) (k : Nat) (f : Launch → Launch) : (s.updLaunch k f).parts = s.parts := rfl
@[simp] theorem State.updLaunch_cores (s : State) (k : Nat) (f : Launch → Launch) : (s.updLaunch k f).cores = s.cores := rfl
@[simp] theorem State.updLaunch_warps (s : State) (k : Nat) (f : Launch → Launch) : (s.updLaunch k f).warps = s.warps := rfl
@[simp] theorem State.updLaunch_cache (s : State) (k : Nat) (f : Launch → Launch) : (s.updLaunch k f).cache = s.cache := rfl
@[simp] theorem State.updLaunch_gates (s : State) (k : Nat) (f : Launch → Launch) : (s.updLaunch k f).gates = s.gates := rfl
@[simp] theorem State.updLaunch_hbm (s : State) (k : Nat) (f : Launch → Launch) : (s.updLaunch k f).hbm = s.hbm := rfl
@[simp] theorem State.updLaunch_dram (s : State) (k : Nat) (f : Launch → Launch) : (s.updLaunch k f).dram = s.dram := rfl
@[simp] theorem State.updLaunch_tags (s : State) (k : Nat) (f : Launch → Launch) : (s.updLaunch k f).tags = s.tags := rfl
@[simp] theorem State.updLaunch_ecc (s : State) (k : Nat) (f : Launch → Launch) : (s.updLaunch k f).ecc = s.ecc := rfl
@[simp] theorem State.updLaunch_mcq (s : State) (k : Nat) (f : Launch → Launch) : (s.updLaunch k f).mcq = s.mcq := rfl
@[simp] theorem State.updLaunch_stall (s : State) (k : Nat) (f : Launch → Launch) : (s.updLaunch k f).stall = s.stall := rfl
@[simp] theorem State.updLaunch_host (s : State) (k : Nat) (f : Launch → Launch) : (s.updLaunch k f).host = s.host := rfl
@[simp] theorem State.updLaunch_pads (s : State) (k : Nat) (f : Launch → Launch) : (s.updLaunch k f).pads = s.pads := rfl
@[simp] theorem State.updLaunch_ops (s : State) (k : Nat) (f : Launch → Launch) : (s.updLaunch k f).ops = s.ops := rfl
@[simp] theorem State.updLaunch_copyq (s : State) (k : Nat) (f : Launch → Launch) : (s.updLaunch k f).copyq = s.copyq := rfl
@[simp] theorem State.updLaunch_colls (s : State) (k : Nat) (f : Launch → Launch) : (s.updLaunch k f).colls = s.colls := rfl
@[simp] theorem State.updLaunch_groups (s : State) (k : Nat) (f : Launch → Launch) : (s.updLaunch k f).groups = s.groups := rfl
@[simp] theorem State.updLaunch_pkts (s : State) (k : Nat) (f : Launch → Launch) : (s.updLaunch k f).pkts = s.pkts := rfl
@[simp] theorem State.updLaunch_bars (s : State) (k : Nat) (f : Launch → Launch) : (s.updLaunch k f).bars = s.bars := rfl
@[simp] theorem State.updLaunch_barq (s : State) (k : Nat) (f : Launch → Launch) : (s.updLaunch k f).barq = s.barq := rfl
@[simp] theorem State.updLaunch_ready (s : State) (k : Nat) (f : Launch → Launch) : (s.updLaunch k f).ready = s.ready := rfl
@[simp] theorem State.updLaunch_queues (s : State) (k : Nat) (f : Launch → Launch) : (s.updLaunch k f).queues = s.queues := rfl
@[simp] theorem State.updLaunch_chans (s : State) (k : Nat) (f : Launch → Launch) : (s.updLaunch k f).chans = s.chans := rfl
@[simp] theorem State.updLaunch_ports (s : State) (k : Nat) (f : Launch → Launch) : (s.updLaunch k f).ports = s.ports := rfl
@[simp] theorem State.updLaunch_stats (s : State) (k : Nat) (f : Launch → Launch) : (s.updLaunch k f).stats = s.stats := rfl
@[simp] theorem State.updLaunch_cur (s : State) (k : Nat) (f : Launch → Launch) : (s.updLaunch k f).cur = s.cur := rfl
@[simp] theorem State.updLaunch_agenda (s : State) (k : Nat) (f : Launch → Launch) : (s.updLaunch k f).agenda = s.agenda := rfl
@[simp] theorem State.updLaunch_free (s : State) (k : Nat) (f : Launch → Launch) : (s.updLaunch k f).free = s.free := rfl
@[simp] theorem State.updLaunch_fresh (s : State) (k : Nat) (f : Launch → Launch) : (s.updLaunch k f).fresh = s.fresh := rfl
@[simp] theorem State.updLaunch_hostRd (s : State) (k : Nat) (f : Launch → Launch) : (s.updLaunch k f).hostRd = s.hostRd := rfl

/-! ## `State.updOp` -/

@[simp] theorem State.updOp_plat (s : State) (k : Nat) (f : EngOp → EngOp) : (s.updOp k f).plat = s.plat := rfl
@[simp] theorem State.updOp_wafer (s : State) (k : Nat) (f : EngOp → EngOp) : (s.updOp k f).wafer = s.wafer := rfl
@[simp] theorem State.updOp_parts (s : State) (k : Nat) (f : EngOp → EngOp) : (s.updOp k f).parts = s.parts := rfl
@[simp] theorem State.updOp_cores (s : State) (k : Nat) (f : EngOp → EngOp) : (s.updOp k f).cores = s.cores := rfl
@[simp] theorem State.updOp_warps (s : State) (k : Nat) (f : EngOp → EngOp) : (s.updOp k f).warps = s.warps := rfl
@[simp] theorem State.updOp_cache (s : State) (k : Nat) (f : EngOp → EngOp) : (s.updOp k f).cache = s.cache := rfl
@[simp] theorem State.updOp_gates (s : State) (k : Nat) (f : EngOp → EngOp) : (s.updOp k f).gates = s.gates := rfl
@[simp] theorem State.updOp_hbm (s : State) (k : Nat) (f : EngOp → EngOp) : (s.updOp k f).hbm = s.hbm := rfl
@[simp] theorem State.updOp_dram (s : State) (k : Nat) (f : EngOp → EngOp) : (s.updOp k f).dram = s.dram := rfl
@[simp] theorem State.updOp_tags (s : State) (k : Nat) (f : EngOp → EngOp) : (s.updOp k f).tags = s.tags := rfl
@[simp] theorem State.updOp_ecc (s : State) (k : Nat) (f : EngOp → EngOp) : (s.updOp k f).ecc = s.ecc := rfl
@[simp] theorem State.updOp_mcq (s : State) (k : Nat) (f : EngOp → EngOp) : (s.updOp k f).mcq = s.mcq := rfl
@[simp] theorem State.updOp_stall (s : State) (k : Nat) (f : EngOp → EngOp) : (s.updOp k f).stall = s.stall := rfl
@[simp] theorem State.updOp_host (s : State) (k : Nat) (f : EngOp → EngOp) : (s.updOp k f).host = s.host := rfl
@[simp] theorem State.updOp_pads (s : State) (k : Nat) (f : EngOp → EngOp) : (s.updOp k f).pads = s.pads := rfl
@[simp] theorem State.updOp_copyq (s : State) (k : Nat) (f : EngOp → EngOp) : (s.updOp k f).copyq = s.copyq := rfl
@[simp] theorem State.updOp_colls (s : State) (k : Nat) (f : EngOp → EngOp) : (s.updOp k f).colls = s.colls := rfl
@[simp] theorem State.updOp_groups (s : State) (k : Nat) (f : EngOp → EngOp) : (s.updOp k f).groups = s.groups := rfl
@[simp] theorem State.updOp_pkts (s : State) (k : Nat) (f : EngOp → EngOp) : (s.updOp k f).pkts = s.pkts := rfl
@[simp] theorem State.updOp_bars (s : State) (k : Nat) (f : EngOp → EngOp) : (s.updOp k f).bars = s.bars := rfl
@[simp] theorem State.updOp_barq (s : State) (k : Nat) (f : EngOp → EngOp) : (s.updOp k f).barq = s.barq := rfl
@[simp] theorem State.updOp_ready (s : State) (k : Nat) (f : EngOp → EngOp) : (s.updOp k f).ready = s.ready := rfl
@[simp] theorem State.updOp_launches (s : State) (k : Nat) (f : EngOp → EngOp) : (s.updOp k f).launches = s.launches := rfl
@[simp] theorem State.updOp_queues (s : State) (k : Nat) (f : EngOp → EngOp) : (s.updOp k f).queues = s.queues := rfl
@[simp] theorem State.updOp_chans (s : State) (k : Nat) (f : EngOp → EngOp) : (s.updOp k f).chans = s.chans := rfl
@[simp] theorem State.updOp_ports (s : State) (k : Nat) (f : EngOp → EngOp) : (s.updOp k f).ports = s.ports := rfl
@[simp] theorem State.updOp_stats (s : State) (k : Nat) (f : EngOp → EngOp) : (s.updOp k f).stats = s.stats := rfl
@[simp] theorem State.updOp_cur (s : State) (k : Nat) (f : EngOp → EngOp) : (s.updOp k f).cur = s.cur := rfl
@[simp] theorem State.updOp_agenda (s : State) (k : Nat) (f : EngOp → EngOp) : (s.updOp k f).agenda = s.agenda := rfl
@[simp] theorem State.updOp_free (s : State) (k : Nat) (f : EngOp → EngOp) : (s.updOp k f).free = s.free := rfl
@[simp] theorem State.updOp_fresh (s : State) (k : Nat) (f : EngOp → EngOp) : (s.updOp k f).fresh = s.fresh := rfl
@[simp] theorem State.updOp_hostRd (s : State) (k : Nat) (f : EngOp → EngOp) : (s.updOp k f).hostRd = s.hostRd := rfl

/-! ## `State.updGroup` -/

@[simp] theorem State.updGroup_plat (s : State) (p g : Nat) (f : Group → Group) : (s.updGroup p g f).plat = s.plat := rfl
@[simp] theorem State.updGroup_wafer (s : State) (p g : Nat) (f : Group → Group) : (s.updGroup p g f).wafer = s.wafer := rfl
@[simp] theorem State.updGroup_parts (s : State) (p g : Nat) (f : Group → Group) : (s.updGroup p g f).parts = s.parts := rfl
@[simp] theorem State.updGroup_cores (s : State) (p g : Nat) (f : Group → Group) : (s.updGroup p g f).cores = s.cores := rfl
@[simp] theorem State.updGroup_warps (s : State) (p g : Nat) (f : Group → Group) : (s.updGroup p g f).warps = s.warps := rfl
@[simp] theorem State.updGroup_cache (s : State) (p g : Nat) (f : Group → Group) : (s.updGroup p g f).cache = s.cache := rfl
@[simp] theorem State.updGroup_gates (s : State) (p g : Nat) (f : Group → Group) : (s.updGroup p g f).gates = s.gates := rfl
@[simp] theorem State.updGroup_hbm (s : State) (p g : Nat) (f : Group → Group) : (s.updGroup p g f).hbm = s.hbm := rfl
@[simp] theorem State.updGroup_dram (s : State) (p g : Nat) (f : Group → Group) : (s.updGroup p g f).dram = s.dram := rfl
@[simp] theorem State.updGroup_tags (s : State) (p g : Nat) (f : Group → Group) : (s.updGroup p g f).tags = s.tags := rfl
@[simp] theorem State.updGroup_ecc (s : State) (p g : Nat) (f : Group → Group) : (s.updGroup p g f).ecc = s.ecc := rfl
@[simp] theorem State.updGroup_mcq (s : State) (p g : Nat) (f : Group → Group) : (s.updGroup p g f).mcq = s.mcq := rfl
@[simp] theorem State.updGroup_stall (s : State) (p g : Nat) (f : Group → Group) : (s.updGroup p g f).stall = s.stall := rfl
@[simp] theorem State.updGroup_host (s : State) (p g : Nat) (f : Group → Group) : (s.updGroup p g f).host = s.host := rfl
@[simp] theorem State.updGroup_pads (s : State) (p g : Nat) (f : Group → Group) : (s.updGroup p g f).pads = s.pads := rfl
@[simp] theorem State.updGroup_ops (s : State) (p g : Nat) (f : Group → Group) : (s.updGroup p g f).ops = s.ops := rfl
@[simp] theorem State.updGroup_copyq (s : State) (p g : Nat) (f : Group → Group) : (s.updGroup p g f).copyq = s.copyq := rfl
@[simp] theorem State.updGroup_colls (s : State) (p g : Nat) (f : Group → Group) : (s.updGroup p g f).colls = s.colls := rfl
@[simp] theorem State.updGroup_pkts (s : State) (p g : Nat) (f : Group → Group) : (s.updGroup p g f).pkts = s.pkts := rfl
@[simp] theorem State.updGroup_bars (s : State) (p g : Nat) (f : Group → Group) : (s.updGroup p g f).bars = s.bars := rfl
@[simp] theorem State.updGroup_barq (s : State) (p g : Nat) (f : Group → Group) : (s.updGroup p g f).barq = s.barq := rfl
@[simp] theorem State.updGroup_ready (s : State) (p g : Nat) (f : Group → Group) : (s.updGroup p g f).ready = s.ready := rfl
@[simp] theorem State.updGroup_launches (s : State) (p g : Nat) (f : Group → Group) : (s.updGroup p g f).launches = s.launches := rfl
@[simp] theorem State.updGroup_queues (s : State) (p g : Nat) (f : Group → Group) : (s.updGroup p g f).queues = s.queues := rfl
@[simp] theorem State.updGroup_chans (s : State) (p g : Nat) (f : Group → Group) : (s.updGroup p g f).chans = s.chans := rfl
@[simp] theorem State.updGroup_ports (s : State) (p g : Nat) (f : Group → Group) : (s.updGroup p g f).ports = s.ports := rfl
@[simp] theorem State.updGroup_stats (s : State) (p g : Nat) (f : Group → Group) : (s.updGroup p g f).stats = s.stats := rfl
@[simp] theorem State.updGroup_cur (s : State) (p g : Nat) (f : Group → Group) : (s.updGroup p g f).cur = s.cur := rfl
@[simp] theorem State.updGroup_agenda (s : State) (p g : Nat) (f : Group → Group) : (s.updGroup p g f).agenda = s.agenda := rfl
@[simp] theorem State.updGroup_free (s : State) (p g : Nat) (f : Group → Group) : (s.updGroup p g f).free = s.free := rfl
@[simp] theorem State.updGroup_fresh (s : State) (p g : Nat) (f : Group → Group) : (s.updGroup p g f).fresh = s.fresh := rfl
@[simp] theorem State.updGroup_hostRd (s : State) (p g : Nat) (f : Group → Group) : (s.updGroup p g f).hostRd = s.hostRd := rfl

/-! ## `Warp.goTo` -/

@[simp] theorem Warp.goTo_wid (w : Warp) (x : Word) : (w.goTo x).wid = w.wid := rfl
@[simp] theorem Warp.goTo_st (w : Warp) (x : Word) : (w.goTo x).st = w.st := rfl
@[simp] theorem Warp.goTo_back (w : Warp) (x : Word) : (w.goTo x).back = w.back := rfl
@[simp] theorem Warp.goTo_sback (w : Warp) (x : Word) : (w.goTo x).sback = w.sback := rfl
@[simp] theorem Warp.goTo_part (w : Warp) (x : Word) : (w.goTo x).part = w.part := rfl
@[simp] theorem Warp.goTo_ctx (w : Warp) (x : Word) : (w.goTo x).ctx = w.ctx := rfl
@[simp] theorem Warp.goTo_asid (w : Warp) (x : Word) : (w.goTo x).asid = w.asid := rfl
@[simp] theorem Warp.goTo_core (w : Warp) (x : Word) : (w.goTo x).core = w.core := rfl
@[simp] theorem Warp.goTo_sub (w : Warp) (x : Word) : (w.goTo x).sub = w.sub := rfl
@[simp] theorem Warp.goTo_slot (w : Warp) (x : Word) : (w.goTo x).slot = w.slot := rfl
@[simp] theorem Warp.goTo_launch (w : Warp) (x : Word) : (w.goTo x).launch = w.launch := rfl
@[simp] theorem Warp.goTo_posted (w : Warp) (x : Word) : (w.goTo x).posted = w.posted := rfl
@[simp] theorem Warp.goTo_wgid (w : Warp) (x : Word) : (w.goTo x).wgid = w.wgid := rfl
@[simp] theorem Warp.goTo_widx (w : Warp) (x : Word) : (w.goTo x).widx = w.widx := rfl
@[simp] theorem Warp.goTo_harvest (w : Warp) (x : Word) : (w.goTo x).harvest = w.harvest := rfl
@[simp] theorem Warp.goTo_cls (w : Warp) (x : Word) : (w.goTo x).cls = w.cls := rfl
@[simp] theorem Warp.goTo_age (w : Warp) (x : Word) : (w.goTo x).age = w.age := rfl
@[simp] theorem Warp.goTo_since (w : Warp) (x : Word) : (w.goTo x).since = w.since := rfl
@[simp] theorem Warp.goTo_g16 (w : Warp) (x : Word) : (w.goTo x).g16 = w.g16 := rfl
@[simp] theorem Warp.goTo_chk (w : Warp) (x : Word) : (w.goTo x).chk = w.chk := rfl
@[simp] theorem Warp.goTo_tvec (w : Warp) (x : Word) : (w.goTo x).tvec = w.tvec := rfl
@[simp] theorem Warp.goTo_ten (w : Warp) (x : Word) : (w.goTo x).ten = w.ten := rfl
@[simp] theorem Warp.goTo_prog (w : Warp) (x : Word) : (w.goTo x).prog = w.prog := rfl
@[simp] theorem Warp.goTo_blv (w : Warp) (x : Word) : (w.goTo x).blv = w.blv := rfl
@[simp] theorem Warp.goTo_warps (w : Warp) (x : Word) : (w.goTo x).warps = w.warps := rfl
@[simp] theorem Warp.goTo_sr (w : Warp) (x : Word) : (w.goTo x).sr = w.sr := rfl
@[simp] theorem Warp.goTo_mr (w : Warp) (x : Word) : (w.goTo x).mr = w.mr := rfl
@[simp] theorem Warp.goTo_qr (w : Warp) (x : Word) : (w.goTo x).qr = w.qr := rfl
@[simp] theorem Warp.goTo_z (w : Warp) (x : Word) : (w.goTo x).z = w.z := rfl
@[simp] theorem Warp.goTo_n (w : Warp) (x : Word) : (w.goTo x).n = w.n := rfl
@[simp] theorem Warp.goTo_c (w : Warp) (x : Word) : (w.goTo x).c = w.c := rfl
@[simp] theorem Warp.goTo_v (w : Warp) (x : Word) : (w.goTo x).v = w.v := rfl
@[simp] theorem Warp.goTo_img (w : Warp) (x : Word) : (w.goTo x).img = w.img := rfl
@[simp] theorem Warp.goTo_imgIx (w : Warp) (x : Word) : (w.goTo x).imgIx = w.imgIx := rfl
@[simp] theorem Warp.goTo_wres (w : Warp) (x : Word) : (w.goTo x).wres = w.wres := rfl
@[simp] theorem Warp.goTo_depth (w : Warp) (x : Word) : (w.goTo x).depth = w.depth := rfl
@[simp] theorem Warp.goTo_wbo (w : Warp) (x : Word) : (w.goTo x).wbo = w.wbo := rfl
@[simp] theorem Warp.goTo_vv (w : Warp) (x : Word) : (w.goTo x).vv = w.vv := rfl
@[simp] theorem Warp.goTo_vt (w : Warp) (x : Word) : (w.goTo x).vt = w.vt := rfl
@[simp] theorem Warp.goTo_va (w : Warp) (x : Word) : (w.goTo x).va = w.va := rfl
@[simp] theorem Warp.goTo_ql (w : Warp) (x : Word) : (w.goTo x).ql = w.ql := rfl
@[simp] theorem Warp.goTo_shed (w : Warp) (x : Word) : (w.goTo x).shed = w.shed := rfl
@[simp] theorem Warp.goTo_lines (w : Warp) (x : Word) : (w.goTo x).lines = w.lines := rfl
@[simp] theorem Warp.goTo_kennel (w : Warp) (x : Word) : (w.goTo x).kennel = w.kennel := rfl
@[simp] theorem Warp.goTo_fmode (w : Warp) (x : Word) : (w.goTo x).fmode = w.fmode := rfl
@[simp] theorem Warp.goTo_trpPc (w : Warp) (x : Word) : (w.goTo x).trpPc = w.trpPc := rfl
@[simp] theorem Warp.goTo_trpCause (w : Warp) (x : Word) : (w.goTo x).trpCause = w.trpCause := rfl
@[simp] theorem Warp.goTo_trpAddr (w : Warp) (x : Word) : (w.goTo x).trpAddr = w.trpAddr := rfl
@[simp] theorem Warp.goTo_trpLanes (w : Warp) (x : Word) : (w.goTo x).trpLanes = w.trpLanes := rfl
@[simp] theorem Warp.goTo_tl (w : Warp) (x : Word) : (w.goTo x).tl = w.tl := rfl
@[simp] theorem Warp.goTo_regpc (w : Warp) (x : Word) : (w.goTo x).regpc = w.regpc := rfl
@[simp] theorem Warp.goTo_rcnt (w : Warp) (x : Word) : (w.goTo x).rcnt = w.rcnt := rfl
@[simp] theorem Warp.goTo_pend (w : Warp) (x : Word) : (w.goTo x).pend = w.pend := rfl
@[simp] theorem Warp.goTo_batches (w : Warp) (x : Word) : (w.goTo x).batches = w.batches := rfl
@[simp] theorem Warp.goTo_nbatch (w : Warp) (x : Word) : (w.goTo x).nbatch = w.nbatch := rfl
@[simp] theorem Warp.goTo_fseq (w : Warp) (x : Word) : (w.goTo x).fseq = w.fseq := rfl
@[simp] theorem Warp.goTo_fnext (w : Warp) (x : Word) : (w.goTo x).fnext = w.fnext := rfl
@[simp] theorem Warp.goTo_fcause (w : Warp) (x : Word) : (w.goTo x).fcause = w.fcause := rfl
@[simp] theorem Warp.goTo_reply (w : Warp) (x : Word) : (w.goTo x).reply = w.reply := rfl
@[simp] theorem Warp.goTo_bars (w : Warp) (x : Word) : (w.goTo x).bars = w.bars := rfl
@[simp] theorem Warp.goTo_rob (w : Warp) (x : Word) : (w.goTo x).rob = w.rob := rfl
@[simp] theorem Warp.goTo_fpc (w : Warp) (x : Word) : (w.goTo x).fpc = w.fpc := rfl

/-! ## `Warp.retire` -/

@[simp] theorem Warp.retire_wid (w : Warp) : w.retire.wid = w.wid := rfl
@[simp] theorem Warp.retire_st (w : Warp) : w.retire.st = w.st := rfl
@[simp] theorem Warp.retire_back (w : Warp) : w.retire.back = w.back := rfl
@[simp] theorem Warp.retire_sback (w : Warp) : w.retire.sback = w.sback := rfl
@[simp] theorem Warp.retire_part (w : Warp) : w.retire.part = w.part := rfl
@[simp] theorem Warp.retire_ctx (w : Warp) : w.retire.ctx = w.ctx := rfl
@[simp] theorem Warp.retire_asid (w : Warp) : w.retire.asid = w.asid := rfl
@[simp] theorem Warp.retire_core (w : Warp) : w.retire.core = w.core := rfl
@[simp] theorem Warp.retire_sub (w : Warp) : w.retire.sub = w.sub := rfl
@[simp] theorem Warp.retire_slot (w : Warp) : w.retire.slot = w.slot := rfl
@[simp] theorem Warp.retire_launch (w : Warp) : w.retire.launch = w.launch := rfl
@[simp] theorem Warp.retire_posted (w : Warp) : w.retire.posted = w.posted := rfl
@[simp] theorem Warp.retire_wgid (w : Warp) : w.retire.wgid = w.wgid := rfl
@[simp] theorem Warp.retire_widx (w : Warp) : w.retire.widx = w.widx := rfl
@[simp] theorem Warp.retire_harvest (w : Warp) : w.retire.harvest = w.harvest := rfl
@[simp] theorem Warp.retire_cls (w : Warp) : w.retire.cls = w.cls := rfl
@[simp] theorem Warp.retire_age (w : Warp) : w.retire.age = w.age := rfl
@[simp] theorem Warp.retire_since (w : Warp) : w.retire.since = w.since := rfl
@[simp] theorem Warp.retire_g16 (w : Warp) : w.retire.g16 = w.g16 := rfl
@[simp] theorem Warp.retire_chk (w : Warp) : w.retire.chk = w.chk := rfl
@[simp] theorem Warp.retire_tvec (w : Warp) : w.retire.tvec = w.tvec := rfl
@[simp] theorem Warp.retire_ten (w : Warp) : w.retire.ten = w.ten := rfl
@[simp] theorem Warp.retire_prog (w : Warp) : w.retire.prog = w.prog := rfl
@[simp] theorem Warp.retire_blv (w : Warp) : w.retire.blv = w.blv := rfl
@[simp] theorem Warp.retire_warps (w : Warp) : w.retire.warps = w.warps := rfl
@[simp] theorem Warp.retire_sr (w : Warp) : w.retire.sr = w.sr := rfl
@[simp] theorem Warp.retire_mr (w : Warp) : w.retire.mr = w.mr := rfl
@[simp] theorem Warp.retire_qr (w : Warp) : w.retire.qr = w.qr := rfl
@[simp] theorem Warp.retire_z (w : Warp) : w.retire.z = w.z := rfl
@[simp] theorem Warp.retire_n (w : Warp) : w.retire.n = w.n := rfl
@[simp] theorem Warp.retire_c (w : Warp) : w.retire.c = w.c := rfl
@[simp] theorem Warp.retire_v (w : Warp) : w.retire.v = w.v := rfl
@[simp] theorem Warp.retire_img (w : Warp) : w.retire.img = w.img := rfl
@[simp] theorem Warp.retire_imgIx (w : Warp) : w.retire.imgIx = w.imgIx := rfl
@[simp] theorem Warp.retire_wres (w : Warp) : w.retire.wres = w.wres := rfl
@[simp] theorem Warp.retire_depth (w : Warp) : w.retire.depth = w.depth := rfl
@[simp] theorem Warp.retire_wbo (w : Warp) : w.retire.wbo = w.wbo := rfl
@[simp] theorem Warp.retire_vv (w : Warp) : w.retire.vv = w.vv := rfl
@[simp] theorem Warp.retire_vt (w : Warp) : w.retire.vt = w.vt := rfl
@[simp] theorem Warp.retire_va (w : Warp) : w.retire.va = w.va := rfl
@[simp] theorem Warp.retire_ql (w : Warp) : w.retire.ql = w.ql := rfl
@[simp] theorem Warp.retire_shed (w : Warp) : w.retire.shed = w.shed := rfl
@[simp] theorem Warp.retire_lines (w : Warp) : w.retire.lines = w.lines := rfl
@[simp] theorem Warp.retire_kennel (w : Warp) : w.retire.kennel = w.kennel := rfl
@[simp] theorem Warp.retire_fmode (w : Warp) : w.retire.fmode = w.fmode := rfl
@[simp] theorem Warp.retire_trpPc (w : Warp) : w.retire.trpPc = w.trpPc := rfl
@[simp] theorem Warp.retire_trpCause (w : Warp) : w.retire.trpCause = w.trpCause := rfl
@[simp] theorem Warp.retire_trpAddr (w : Warp) : w.retire.trpAddr = w.trpAddr := rfl
@[simp] theorem Warp.retire_trpLanes (w : Warp) : w.retire.trpLanes = w.trpLanes := rfl
@[simp] theorem Warp.retire_tl (w : Warp) : w.retire.tl = w.tl := rfl
@[simp] theorem Warp.retire_regpc (w : Warp) : w.retire.regpc = w.regpc := rfl
@[simp] theorem Warp.retire_rcnt (w : Warp) : w.retire.rcnt = w.rcnt := rfl
@[simp] theorem Warp.retire_pend (w : Warp) : w.retire.pend = w.pend := rfl
@[simp] theorem Warp.retire_batches (w : Warp) : w.retire.batches = w.batches := rfl
@[simp] theorem Warp.retire_nbatch (w : Warp) : w.retire.nbatch = w.nbatch := rfl
@[simp] theorem Warp.retire_fseq (w : Warp) : w.retire.fseq = w.fseq := rfl
@[simp] theorem Warp.retire_fnext (w : Warp) : w.retire.fnext = w.fnext := rfl
@[simp] theorem Warp.retire_fcause (w : Warp) : w.retire.fcause = w.fcause := rfl
@[simp] theorem Warp.retire_reply (w : Warp) : w.retire.reply = w.reply := rfl
@[simp] theorem Warp.retire_bars (w : Warp) : w.retire.bars = w.bars := rfl
@[simp] theorem Warp.retire_rob (w : Warp) : w.retire.rob = w.rob := rfl
@[simp] theorem Warp.retire_fpc (w : Warp) : w.retire.fpc = w.fpc := rfl

/-! ## `Warp.retireRegion` -/

@[simp] theorem Warp.retireRegion_wid (w : Warp) (x : Word) : (w.retireRegion x).wid = w.wid := rfl
@[simp] theorem Warp.retireRegion_st (w : Warp) (x : Word) : (w.retireRegion x).st = w.st := rfl
@[simp] theorem Warp.retireRegion_back (w : Warp) (x : Word) : (w.retireRegion x).back = w.back := rfl
@[simp] theorem Warp.retireRegion_sback (w : Warp) (x : Word) : (w.retireRegion x).sback = w.sback := rfl
@[simp] theorem Warp.retireRegion_part (w : Warp) (x : Word) : (w.retireRegion x).part = w.part := rfl
@[simp] theorem Warp.retireRegion_ctx (w : Warp) (x : Word) : (w.retireRegion x).ctx = w.ctx := rfl
@[simp] theorem Warp.retireRegion_asid (w : Warp) (x : Word) : (w.retireRegion x).asid = w.asid := rfl
@[simp] theorem Warp.retireRegion_core (w : Warp) (x : Word) : (w.retireRegion x).core = w.core := rfl
@[simp] theorem Warp.retireRegion_sub (w : Warp) (x : Word) : (w.retireRegion x).sub = w.sub := rfl
@[simp] theorem Warp.retireRegion_slot (w : Warp) (x : Word) : (w.retireRegion x).slot = w.slot := rfl
@[simp] theorem Warp.retireRegion_launch (w : Warp) (x : Word) : (w.retireRegion x).launch = w.launch := rfl
@[simp] theorem Warp.retireRegion_posted (w : Warp) (x : Word) : (w.retireRegion x).posted = w.posted := rfl
@[simp] theorem Warp.retireRegion_wgid (w : Warp) (x : Word) : (w.retireRegion x).wgid = w.wgid := rfl
@[simp] theorem Warp.retireRegion_widx (w : Warp) (x : Word) : (w.retireRegion x).widx = w.widx := rfl
@[simp] theorem Warp.retireRegion_harvest (w : Warp) (x : Word) : (w.retireRegion x).harvest = w.harvest := rfl
@[simp] theorem Warp.retireRegion_cls (w : Warp) (x : Word) : (w.retireRegion x).cls = w.cls := rfl
@[simp] theorem Warp.retireRegion_age (w : Warp) (x : Word) : (w.retireRegion x).age = w.age := rfl
@[simp] theorem Warp.retireRegion_since (w : Warp) (x : Word) : (w.retireRegion x).since = w.since := rfl
@[simp] theorem Warp.retireRegion_g16 (w : Warp) (x : Word) : (w.retireRegion x).g16 = w.g16 := rfl
@[simp] theorem Warp.retireRegion_chk (w : Warp) (x : Word) : (w.retireRegion x).chk = w.chk := rfl
@[simp] theorem Warp.retireRegion_tvec (w : Warp) (x : Word) : (w.retireRegion x).tvec = w.tvec := rfl
@[simp] theorem Warp.retireRegion_ten (w : Warp) (x : Word) : (w.retireRegion x).ten = w.ten := rfl
@[simp] theorem Warp.retireRegion_prog (w : Warp) (x : Word) : (w.retireRegion x).prog = w.prog := rfl
@[simp] theorem Warp.retireRegion_blv (w : Warp) (x : Word) : (w.retireRegion x).blv = w.blv := rfl
@[simp] theorem Warp.retireRegion_warps (w : Warp) (x : Word) : (w.retireRegion x).warps = w.warps := rfl
@[simp] theorem Warp.retireRegion_sr (w : Warp) (x : Word) : (w.retireRegion x).sr = w.sr := rfl
@[simp] theorem Warp.retireRegion_mr (w : Warp) (x : Word) : (w.retireRegion x).mr = w.mr := rfl
@[simp] theorem Warp.retireRegion_qr (w : Warp) (x : Word) : (w.retireRegion x).qr = w.qr := rfl
@[simp] theorem Warp.retireRegion_z (w : Warp) (x : Word) : (w.retireRegion x).z = w.z := rfl
@[simp] theorem Warp.retireRegion_n (w : Warp) (x : Word) : (w.retireRegion x).n = w.n := rfl
@[simp] theorem Warp.retireRegion_c (w : Warp) (x : Word) : (w.retireRegion x).c = w.c := rfl
@[simp] theorem Warp.retireRegion_v (w : Warp) (x : Word) : (w.retireRegion x).v = w.v := rfl
@[simp] theorem Warp.retireRegion_img (w : Warp) (x : Word) : (w.retireRegion x).img = w.img := rfl
@[simp] theorem Warp.retireRegion_imgIx (w : Warp) (x : Word) : (w.retireRegion x).imgIx = w.imgIx := rfl
@[simp] theorem Warp.retireRegion_wres (w : Warp) (x : Word) : (w.retireRegion x).wres = w.wres := rfl
@[simp] theorem Warp.retireRegion_depth (w : Warp) (x : Word) : (w.retireRegion x).depth = w.depth := rfl
@[simp] theorem Warp.retireRegion_wbo (w : Warp) (x : Word) : (w.retireRegion x).wbo = w.wbo := rfl
@[simp] theorem Warp.retireRegion_vv (w : Warp) (x : Word) : (w.retireRegion x).vv = w.vv := rfl
@[simp] theorem Warp.retireRegion_vt (w : Warp) (x : Word) : (w.retireRegion x).vt = w.vt := rfl
@[simp] theorem Warp.retireRegion_va (w : Warp) (x : Word) : (w.retireRegion x).va = w.va := rfl
@[simp] theorem Warp.retireRegion_ql (w : Warp) (x : Word) : (w.retireRegion x).ql = w.ql := rfl
@[simp] theorem Warp.retireRegion_shed (w : Warp) (x : Word) : (w.retireRegion x).shed = w.shed := rfl
@[simp] theorem Warp.retireRegion_lines (w : Warp) (x : Word) : (w.retireRegion x).lines = w.lines := rfl
@[simp] theorem Warp.retireRegion_kennel (w : Warp) (x : Word) : (w.retireRegion x).kennel = w.kennel := rfl
@[simp] theorem Warp.retireRegion_fmode (w : Warp) (x : Word) : (w.retireRegion x).fmode = w.fmode := rfl
@[simp] theorem Warp.retireRegion_trpPc (w : Warp) (x : Word) : (w.retireRegion x).trpPc = w.trpPc := rfl
@[simp] theorem Warp.retireRegion_trpCause (w : Warp) (x : Word) : (w.retireRegion x).trpCause = w.trpCause := rfl
@[simp] theorem Warp.retireRegion_trpAddr (w : Warp) (x : Word) : (w.retireRegion x).trpAddr = w.trpAddr := rfl
@[simp] theorem Warp.retireRegion_trpLanes (w : Warp) (x : Word) : (w.retireRegion x).trpLanes = w.trpLanes := rfl
@[simp] theorem Warp.retireRegion_tl (w : Warp) (x : Word) : (w.retireRegion x).tl = w.tl := rfl
@[simp] theorem Warp.retireRegion_pend (w : Warp) (x : Word) : (w.retireRegion x).pend = w.pend := rfl
@[simp] theorem Warp.retireRegion_batches (w : Warp) (x : Word) : (w.retireRegion x).batches = w.batches := rfl
@[simp] theorem Warp.retireRegion_nbatch (w : Warp) (x : Word) : (w.retireRegion x).nbatch = w.nbatch := rfl
@[simp] theorem Warp.retireRegion_fseq (w : Warp) (x : Word) : (w.retireRegion x).fseq = w.fseq := rfl
@[simp] theorem Warp.retireRegion_fnext (w : Warp) (x : Word) : (w.retireRegion x).fnext = w.fnext := rfl
@[simp] theorem Warp.retireRegion_fcause (w : Warp) (x : Word) : (w.retireRegion x).fcause = w.fcause := rfl
@[simp] theorem Warp.retireRegion_reply (w : Warp) (x : Word) : (w.retireRegion x).reply = w.reply := rfl
@[simp] theorem Warp.retireRegion_bars (w : Warp) (x : Word) : (w.retireRegion x).bars = w.bars := rfl
@[simp] theorem Warp.retireRegion_rob (w : Warp) (x : Word) : (w.retireRegion x).rob = w.rob := rfl
@[simp] theorem Warp.retireRegion_fpc (w : Warp) (x : Word) : (w.retireRegion x).fpc = w.fpc := rfl

/-! ## `Warp.waiting` -/

@[simp] theorem Warp.waiting_wid (w : Warp) (x : Nat) : (w.waiting x).wid = w.wid := rfl
@[simp] theorem Warp.waiting_st (w : Warp) (x : Nat) : (w.waiting x).st = w.st := rfl
@[simp] theorem Warp.waiting_back (w : Warp) (x : Nat) : (w.waiting x).back = w.back := rfl
@[simp] theorem Warp.waiting_sback (w : Warp) (x : Nat) : (w.waiting x).sback = w.sback := rfl
@[simp] theorem Warp.waiting_part (w : Warp) (x : Nat) : (w.waiting x).part = w.part := rfl
@[simp] theorem Warp.waiting_ctx (w : Warp) (x : Nat) : (w.waiting x).ctx = w.ctx := rfl
@[simp] theorem Warp.waiting_asid (w : Warp) (x : Nat) : (w.waiting x).asid = w.asid := rfl
@[simp] theorem Warp.waiting_core (w : Warp) (x : Nat) : (w.waiting x).core = w.core := rfl
@[simp] theorem Warp.waiting_sub (w : Warp) (x : Nat) : (w.waiting x).sub = w.sub := rfl
@[simp] theorem Warp.waiting_slot (w : Warp) (x : Nat) : (w.waiting x).slot = w.slot := rfl
@[simp] theorem Warp.waiting_launch (w : Warp) (x : Nat) : (w.waiting x).launch = w.launch := rfl
@[simp] theorem Warp.waiting_posted (w : Warp) (x : Nat) : (w.waiting x).posted = w.posted := rfl
@[simp] theorem Warp.waiting_wgid (w : Warp) (x : Nat) : (w.waiting x).wgid = w.wgid := rfl
@[simp] theorem Warp.waiting_widx (w : Warp) (x : Nat) : (w.waiting x).widx = w.widx := rfl
@[simp] theorem Warp.waiting_harvest (w : Warp) (x : Nat) : (w.waiting x).harvest = w.harvest := rfl
@[simp] theorem Warp.waiting_cls (w : Warp) (x : Nat) : (w.waiting x).cls = w.cls := rfl
@[simp] theorem Warp.waiting_age (w : Warp) (x : Nat) : (w.waiting x).age = w.age := rfl
@[simp] theorem Warp.waiting_since (w : Warp) (x : Nat) : (w.waiting x).since = w.since := rfl
@[simp] theorem Warp.waiting_promo (w : Warp) (x : Nat) : (w.waiting x).promo = w.promo := rfl
@[simp] theorem Warp.waiting_g16 (w : Warp) (x : Nat) : (w.waiting x).g16 = w.g16 := rfl
@[simp] theorem Warp.waiting_chk (w : Warp) (x : Nat) : (w.waiting x).chk = w.chk := rfl
@[simp] theorem Warp.waiting_tvec (w : Warp) (x : Nat) : (w.waiting x).tvec = w.tvec := rfl
@[simp] theorem Warp.waiting_ten (w : Warp) (x : Nat) : (w.waiting x).ten = w.ten := rfl
@[simp] theorem Warp.waiting_prog (w : Warp) (x : Nat) : (w.waiting x).prog = w.prog := rfl
@[simp] theorem Warp.waiting_blv (w : Warp) (x : Nat) : (w.waiting x).blv = w.blv := rfl
@[simp] theorem Warp.waiting_warps (w : Warp) (x : Nat) : (w.waiting x).warps = w.warps := rfl
@[simp] theorem Warp.waiting_pc (w : Warp) (x : Nat) : (w.waiting x).pc = w.pc := rfl
@[simp] theorem Warp.waiting_sr (w : Warp) (x : Nat) : (w.waiting x).sr = w.sr := rfl
@[simp] theorem Warp.waiting_mr (w : Warp) (x : Nat) : (w.waiting x).mr = w.mr := rfl
@[simp] theorem Warp.waiting_qr (w : Warp) (x : Nat) : (w.waiting x).qr = w.qr := rfl
@[simp] theorem Warp.waiting_z (w : Warp) (x : Nat) : (w.waiting x).z = w.z := rfl
@[simp] theorem Warp.waiting_n (w : Warp) (x : Nat) : (w.waiting x).n = w.n := rfl
@[simp] theorem Warp.waiting_c (w : Warp) (x : Nat) : (w.waiting x).c = w.c := rfl
@[simp] theorem Warp.waiting_v (w : Warp) (x : Nat) : (w.waiting x).v = w.v := rfl
@[simp] theorem Warp.waiting_img (w : Warp) (x : Nat) : (w.waiting x).img = w.img := rfl
@[simp] theorem Warp.waiting_imgIx (w : Warp) (x : Nat) : (w.waiting x).imgIx = w.imgIx := rfl
@[simp] theorem Warp.waiting_wres (w : Warp) (x : Nat) : (w.waiting x).wres = w.wres := rfl
@[simp] theorem Warp.waiting_depth (w : Warp) (x : Nat) : (w.waiting x).depth = w.depth := rfl
@[simp] theorem Warp.waiting_wbo (w : Warp) (x : Nat) : (w.waiting x).wbo = w.wbo := rfl
@[simp] theorem Warp.waiting_vv (w : Warp) (x : Nat) : (w.waiting x).vv = w.vv := rfl
@[simp] theorem Warp.waiting_vt (w : Warp) (x : Nat) : (w.waiting x).vt = w.vt := rfl
@[simp] theorem Warp.waiting_va (w : Warp) (x : Nat) : (w.waiting x).va = w.va := rfl
@[simp] theorem Warp.waiting_ql (w : Warp) (x : Nat) : (w.waiting x).ql = w.ql := rfl
@[simp] theorem Warp.waiting_shed (w : Warp) (x : Nat) : (w.waiting x).shed = w.shed := rfl
@[simp] theorem Warp.waiting_lines (w : Warp) (x : Nat) : (w.waiting x).lines = w.lines := rfl
@[simp] theorem Warp.waiting_kennel (w : Warp) (x : Nat) : (w.waiting x).kennel = w.kennel := rfl
@[simp] theorem Warp.waiting_fmode (w : Warp) (x : Nat) : (w.waiting x).fmode = w.fmode := rfl
@[simp] theorem Warp.waiting_trpPc (w : Warp) (x : Nat) : (w.waiting x).trpPc = w.trpPc := rfl
@[simp] theorem Warp.waiting_trpCause (w : Warp) (x : Nat) : (w.waiting x).trpCause = w.trpCause := rfl
@[simp] theorem Warp.waiting_trpAddr (w : Warp) (x : Nat) : (w.waiting x).trpAddr = w.trpAddr := rfl
@[simp] theorem Warp.waiting_trpLanes (w : Warp) (x : Nat) : (w.waiting x).trpLanes = w.trpLanes := rfl
@[simp] theorem Warp.waiting_tl (w : Warp) (x : Nat) : (w.waiting x).tl = w.tl := rfl
@[simp] theorem Warp.waiting_regpc (w : Warp) (x : Nat) : (w.waiting x).regpc = w.regpc := rfl
@[simp] theorem Warp.waiting_rcnt (w : Warp) (x : Nat) : (w.waiting x).rcnt = w.rcnt := rfl
@[simp] theorem Warp.waiting_pend (w : Warp) (x : Nat) : (w.waiting x).pend = w.pend := rfl
@[simp] theorem Warp.waiting_batches (w : Warp) (x : Nat) : (w.waiting x).batches = w.batches := rfl
@[simp] theorem Warp.waiting_nbatch (w : Warp) (x : Nat) : (w.waiting x).nbatch = w.nbatch := rfl
@[simp] theorem Warp.waiting_fseq (w : Warp) (x : Nat) : (w.waiting x).fseq = w.fseq := rfl
@[simp] theorem Warp.waiting_fnext (w : Warp) (x : Nat) : (w.waiting x).fnext = w.fnext := rfl
@[simp] theorem Warp.waiting_fcause (w : Warp) (x : Nat) : (w.waiting x).fcause = w.fcause := rfl
@[simp] theorem Warp.waiting_pause (w : Warp) (x : Nat) : (w.waiting x).pause = w.pause := rfl
@[simp] theorem Warp.waiting_hold (w : Warp) (x : Nat) : (w.waiting x).hold = w.hold := rfl
@[simp] theorem Warp.waiting_reply (w : Warp) (x : Nat) : (w.waiting x).reply = w.reply := rfl
@[simp] theorem Warp.waiting_bars (w : Warp) (x : Nat) : (w.waiting x).bars = w.bars := rfl
@[simp] theorem Warp.waiting_rob (w : Warp) (x : Nat) : (w.waiting x).rob = w.rob := rfl
@[simp] theorem Warp.waiting_fpc (w : Warp) (x : Nat) : (w.waiting x).fpc = w.fpc := rfl

/-! ## `Warp.setFlags` -/

@[simp] theorem Warp.setFlags_wid (w : Warp) (x : BitVec 4) : (w.setFlags x).wid = w.wid := rfl
@[simp] theorem Warp.setFlags_st (w : Warp) (x : BitVec 4) : (w.setFlags x).st = w.st := rfl
@[simp] theorem Warp.setFlags_back (w : Warp) (x : BitVec 4) : (w.setFlags x).back = w.back := rfl
@[simp] theorem Warp.setFlags_sback (w : Warp) (x : BitVec 4) : (w.setFlags x).sback = w.sback := rfl
@[simp] theorem Warp.setFlags_part (w : Warp) (x : BitVec 4) : (w.setFlags x).part = w.part := rfl
@[simp] theorem Warp.setFlags_ctx (w : Warp) (x : BitVec 4) : (w.setFlags x).ctx = w.ctx := rfl
@[simp] theorem Warp.setFlags_asid (w : Warp) (x : BitVec 4) : (w.setFlags x).asid = w.asid := rfl
@[simp] theorem Warp.setFlags_core (w : Warp) (x : BitVec 4) : (w.setFlags x).core = w.core := rfl
@[simp] theorem Warp.setFlags_sub (w : Warp) (x : BitVec 4) : (w.setFlags x).sub = w.sub := rfl
@[simp] theorem Warp.setFlags_slot (w : Warp) (x : BitVec 4) : (w.setFlags x).slot = w.slot := rfl
@[simp] theorem Warp.setFlags_launch (w : Warp) (x : BitVec 4) : (w.setFlags x).launch = w.launch := rfl
@[simp] theorem Warp.setFlags_posted (w : Warp) (x : BitVec 4) : (w.setFlags x).posted = w.posted := rfl
@[simp] theorem Warp.setFlags_wgid (w : Warp) (x : BitVec 4) : (w.setFlags x).wgid = w.wgid := rfl
@[simp] theorem Warp.setFlags_widx (w : Warp) (x : BitVec 4) : (w.setFlags x).widx = w.widx := rfl
@[simp] theorem Warp.setFlags_harvest (w : Warp) (x : BitVec 4) : (w.setFlags x).harvest = w.harvest := rfl
@[simp] theorem Warp.setFlags_cls (w : Warp) (x : BitVec 4) : (w.setFlags x).cls = w.cls := rfl
@[simp] theorem Warp.setFlags_age (w : Warp) (x : BitVec 4) : (w.setFlags x).age = w.age := rfl
@[simp] theorem Warp.setFlags_since (w : Warp) (x : BitVec 4) : (w.setFlags x).since = w.since := rfl
@[simp] theorem Warp.setFlags_promo (w : Warp) (x : BitVec 4) : (w.setFlags x).promo = w.promo := rfl
@[simp] theorem Warp.setFlags_g16 (w : Warp) (x : BitVec 4) : (w.setFlags x).g16 = w.g16 := rfl
@[simp] theorem Warp.setFlags_chk (w : Warp) (x : BitVec 4) : (w.setFlags x).chk = w.chk := rfl
@[simp] theorem Warp.setFlags_tvec (w : Warp) (x : BitVec 4) : (w.setFlags x).tvec = w.tvec := rfl
@[simp] theorem Warp.setFlags_ten (w : Warp) (x : BitVec 4) : (w.setFlags x).ten = w.ten := rfl
@[simp] theorem Warp.setFlags_prog (w : Warp) (x : BitVec 4) : (w.setFlags x).prog = w.prog := rfl
@[simp] theorem Warp.setFlags_blv (w : Warp) (x : BitVec 4) : (w.setFlags x).blv = w.blv := rfl
@[simp] theorem Warp.setFlags_warps (w : Warp) (x : BitVec 4) : (w.setFlags x).warps = w.warps := rfl
@[simp] theorem Warp.setFlags_pc (w : Warp) (x : BitVec 4) : (w.setFlags x).pc = w.pc := rfl
@[simp] theorem Warp.setFlags_sr (w : Warp) (x : BitVec 4) : (w.setFlags x).sr = w.sr := rfl
@[simp] theorem Warp.setFlags_mr (w : Warp) (x : BitVec 4) : (w.setFlags x).mr = w.mr := rfl
@[simp] theorem Warp.setFlags_qr (w : Warp) (x : BitVec 4) : (w.setFlags x).qr = w.qr := rfl
@[simp] theorem Warp.setFlags_img (w : Warp) (x : BitVec 4) : (w.setFlags x).img = w.img := rfl
@[simp] theorem Warp.setFlags_imgIx (w : Warp) (x : BitVec 4) : (w.setFlags x).imgIx = w.imgIx := rfl
@[simp] theorem Warp.setFlags_wres (w : Warp) (x : BitVec 4) : (w.setFlags x).wres = w.wres := rfl
@[simp] theorem Warp.setFlags_depth (w : Warp) (x : BitVec 4) : (w.setFlags x).depth = w.depth := rfl
@[simp] theorem Warp.setFlags_wbo (w : Warp) (x : BitVec 4) : (w.setFlags x).wbo = w.wbo := rfl
@[simp] theorem Warp.setFlags_vv (w : Warp) (x : BitVec 4) : (w.setFlags x).vv = w.vv := rfl
@[simp] theorem Warp.setFlags_vt (w : Warp) (x : BitVec 4) : (w.setFlags x).vt = w.vt := rfl
@[simp] theorem Warp.setFlags_va (w : Warp) (x : BitVec 4) : (w.setFlags x).va = w.va := rfl
@[simp] theorem Warp.setFlags_ql (w : Warp) (x : BitVec 4) : (w.setFlags x).ql = w.ql := rfl
@[simp] theorem Warp.setFlags_shed (w : Warp) (x : BitVec 4) : (w.setFlags x).shed = w.shed := rfl
@[simp] theorem Warp.setFlags_lines (w : Warp) (x : BitVec 4) : (w.setFlags x).lines = w.lines := rfl
@[simp] theorem Warp.setFlags_kennel (w : Warp) (x : BitVec 4) : (w.setFlags x).kennel = w.kennel := rfl
@[simp] theorem Warp.setFlags_fmode (w : Warp) (x : BitVec 4) : (w.setFlags x).fmode = w.fmode := rfl
@[simp] theorem Warp.setFlags_trpPc (w : Warp) (x : BitVec 4) : (w.setFlags x).trpPc = w.trpPc := rfl
@[simp] theorem Warp.setFlags_trpCause (w : Warp) (x : BitVec 4) : (w.setFlags x).trpCause = w.trpCause := rfl
@[simp] theorem Warp.setFlags_trpAddr (w : Warp) (x : BitVec 4) : (w.setFlags x).trpAddr = w.trpAddr := rfl
@[simp] theorem Warp.setFlags_trpLanes (w : Warp) (x : BitVec 4) : (w.setFlags x).trpLanes = w.trpLanes := rfl
@[simp] theorem Warp.setFlags_tl (w : Warp) (x : BitVec 4) : (w.setFlags x).tl = w.tl := rfl
@[simp] theorem Warp.setFlags_regpc (w : Warp) (x : BitVec 4) : (w.setFlags x).regpc = w.regpc := rfl
@[simp] theorem Warp.setFlags_rcnt (w : Warp) (x : BitVec 4) : (w.setFlags x).rcnt = w.rcnt := rfl
@[simp] theorem Warp.setFlags_pend (w : Warp) (x : BitVec 4) : (w.setFlags x).pend = w.pend := rfl
@[simp] theorem Warp.setFlags_batches (w : Warp) (x : BitVec 4) : (w.setFlags x).batches = w.batches := rfl
@[simp] theorem Warp.setFlags_nbatch (w : Warp) (x : BitVec 4) : (w.setFlags x).nbatch = w.nbatch := rfl
@[simp] theorem Warp.setFlags_fseq (w : Warp) (x : BitVec 4) : (w.setFlags x).fseq = w.fseq := rfl
@[simp] theorem Warp.setFlags_fnext (w : Warp) (x : BitVec 4) : (w.setFlags x).fnext = w.fnext := rfl
@[simp] theorem Warp.setFlags_fcause (w : Warp) (x : BitVec 4) : (w.setFlags x).fcause = w.fcause := rfl
@[simp] theorem Warp.setFlags_pause (w : Warp) (x : BitVec 4) : (w.setFlags x).pause = w.pause := rfl
@[simp] theorem Warp.setFlags_wait (w : Warp) (x : BitVec 4) : (w.setFlags x).wait = w.wait := rfl
@[simp] theorem Warp.setFlags_mid (w : Warp) (x : BitVec 4) : (w.setFlags x).mid = w.mid := rfl
@[simp] theorem Warp.setFlags_hold (w : Warp) (x : BitVec 4) : (w.setFlags x).hold = w.hold := rfl
@[simp] theorem Warp.setFlags_reply (w : Warp) (x : BitVec 4) : (w.setFlags x).reply = w.reply := rfl
@[simp] theorem Warp.setFlags_bars (w : Warp) (x : BitVec 4) : (w.setFlags x).bars = w.bars := rfl
@[simp] theorem Warp.setFlags_rob (w : Warp) (x : BitVec 4) : (w.setFlags x).rob = w.rob := rfl
@[simp] theorem Warp.setFlags_fpc (w : Warp) (x : BitVec 4) : (w.setFlags x).fpc = w.fpc := rfl

/-! ## `Warp.putLine` -/

@[simp] theorem Warp.putLine_wid (w : Warp) (i : Nat) (d : LineData) : (w.putLine i d).wid = w.wid := rfl
@[simp] theorem Warp.putLine_st (w : Warp) (i : Nat) (d : LineData) : (w.putLine i d).st = w.st := rfl
@[simp] theorem Warp.putLine_back (w : Warp) (i : Nat) (d : LineData) : (w.putLine i d).back = w.back := rfl
@[simp] theorem Warp.putLine_sback (w : Warp) (i : Nat) (d : LineData) : (w.putLine i d).sback = w.sback := rfl
@[simp] theorem Warp.putLine_part (w : Warp) (i : Nat) (d : LineData) : (w.putLine i d).part = w.part := rfl
@[simp] theorem Warp.putLine_ctx (w : Warp) (i : Nat) (d : LineData) : (w.putLine i d).ctx = w.ctx := rfl
@[simp] theorem Warp.putLine_asid (w : Warp) (i : Nat) (d : LineData) : (w.putLine i d).asid = w.asid := rfl
@[simp] theorem Warp.putLine_core (w : Warp) (i : Nat) (d : LineData) : (w.putLine i d).core = w.core := rfl
@[simp] theorem Warp.putLine_sub (w : Warp) (i : Nat) (d : LineData) : (w.putLine i d).sub = w.sub := rfl
@[simp] theorem Warp.putLine_slot (w : Warp) (i : Nat) (d : LineData) : (w.putLine i d).slot = w.slot := rfl
@[simp] theorem Warp.putLine_launch (w : Warp) (i : Nat) (d : LineData) : (w.putLine i d).launch = w.launch := rfl
@[simp] theorem Warp.putLine_posted (w : Warp) (i : Nat) (d : LineData) : (w.putLine i d).posted = w.posted := rfl
@[simp] theorem Warp.putLine_wgid (w : Warp) (i : Nat) (d : LineData) : (w.putLine i d).wgid = w.wgid := rfl
@[simp] theorem Warp.putLine_widx (w : Warp) (i : Nat) (d : LineData) : (w.putLine i d).widx = w.widx := rfl
@[simp] theorem Warp.putLine_harvest (w : Warp) (i : Nat) (d : LineData) : (w.putLine i d).harvest = w.harvest := rfl
@[simp] theorem Warp.putLine_cls (w : Warp) (i : Nat) (d : LineData) : (w.putLine i d).cls = w.cls := rfl
@[simp] theorem Warp.putLine_age (w : Warp) (i : Nat) (d : LineData) : (w.putLine i d).age = w.age := rfl
@[simp] theorem Warp.putLine_since (w : Warp) (i : Nat) (d : LineData) : (w.putLine i d).since = w.since := rfl
@[simp] theorem Warp.putLine_promo (w : Warp) (i : Nat) (d : LineData) : (w.putLine i d).promo = w.promo := rfl
@[simp] theorem Warp.putLine_g16 (w : Warp) (i : Nat) (d : LineData) : (w.putLine i d).g16 = w.g16 := rfl
@[simp] theorem Warp.putLine_chk (w : Warp) (i : Nat) (d : LineData) : (w.putLine i d).chk = w.chk := rfl
@[simp] theorem Warp.putLine_tvec (w : Warp) (i : Nat) (d : LineData) : (w.putLine i d).tvec = w.tvec := rfl
@[simp] theorem Warp.putLine_ten (w : Warp) (i : Nat) (d : LineData) : (w.putLine i d).ten = w.ten := rfl
@[simp] theorem Warp.putLine_prog (w : Warp) (i : Nat) (d : LineData) : (w.putLine i d).prog = w.prog := rfl
@[simp] theorem Warp.putLine_blv (w : Warp) (i : Nat) (d : LineData) : (w.putLine i d).blv = w.blv := rfl
@[simp] theorem Warp.putLine_warps (w : Warp) (i : Nat) (d : LineData) : (w.putLine i d).warps = w.warps := rfl
@[simp] theorem Warp.putLine_pc (w : Warp) (i : Nat) (d : LineData) : (w.putLine i d).pc = w.pc := rfl
@[simp] theorem Warp.putLine_sr (w : Warp) (i : Nat) (d : LineData) : (w.putLine i d).sr = w.sr := rfl
@[simp] theorem Warp.putLine_mr (w : Warp) (i : Nat) (d : LineData) : (w.putLine i d).mr = w.mr := rfl
@[simp] theorem Warp.putLine_qr (w : Warp) (i : Nat) (d : LineData) : (w.putLine i d).qr = w.qr := rfl
@[simp] theorem Warp.putLine_z (w : Warp) (i : Nat) (d : LineData) : (w.putLine i d).z = w.z := rfl
@[simp] theorem Warp.putLine_n (w : Warp) (i : Nat) (d : LineData) : (w.putLine i d).n = w.n := rfl
@[simp] theorem Warp.putLine_c (w : Warp) (i : Nat) (d : LineData) : (w.putLine i d).c = w.c := rfl
@[simp] theorem Warp.putLine_v (w : Warp) (i : Nat) (d : LineData) : (w.putLine i d).v = w.v := rfl
@[simp] theorem Warp.putLine_img (w : Warp) (i : Nat) (d : LineData) : (w.putLine i d).img = w.img := rfl
@[simp] theorem Warp.putLine_imgIx (w : Warp) (i : Nat) (d : LineData) : (w.putLine i d).imgIx = w.imgIx := rfl
@[simp] theorem Warp.putLine_wres (w : Warp) (i : Nat) (d : LineData) : (w.putLine i d).wres = w.wres := rfl
@[simp] theorem Warp.putLine_depth (w : Warp) (i : Nat) (d : LineData) : (w.putLine i d).depth = w.depth := rfl
@[simp] theorem Warp.putLine_wbo (w : Warp) (i : Nat) (d : LineData) : (w.putLine i d).wbo = w.wbo := rfl
@[simp] theorem Warp.putLine_vv (w : Warp) (i : Nat) (d : LineData) : (w.putLine i d).vv = w.vv := rfl
@[simp] theorem Warp.putLine_vt (w : Warp) (i : Nat) (d : LineData) : (w.putLine i d).vt = w.vt := rfl
@[simp] theorem Warp.putLine_va (w : Warp) (i : Nat) (d : LineData) : (w.putLine i d).va = w.va := rfl
@[simp] theorem Warp.putLine_ql (w : Warp) (i : Nat) (d : LineData) : (w.putLine i d).ql = w.ql := rfl
@[simp] theorem Warp.putLine_shed (w : Warp) (i : Nat) (d : LineData) : (w.putLine i d).shed = w.shed := rfl
@[simp] theorem Warp.putLine_kennel (w : Warp) (i : Nat) (d : LineData) : (w.putLine i d).kennel = w.kennel := rfl
@[simp] theorem Warp.putLine_fmode (w : Warp) (i : Nat) (d : LineData) : (w.putLine i d).fmode = w.fmode := rfl
@[simp] theorem Warp.putLine_trpPc (w : Warp) (i : Nat) (d : LineData) : (w.putLine i d).trpPc = w.trpPc := rfl
@[simp] theorem Warp.putLine_trpCause (w : Warp) (i : Nat) (d : LineData) : (w.putLine i d).trpCause = w.trpCause := rfl
@[simp] theorem Warp.putLine_trpAddr (w : Warp) (i : Nat) (d : LineData) : (w.putLine i d).trpAddr = w.trpAddr := rfl
@[simp] theorem Warp.putLine_trpLanes (w : Warp) (i : Nat) (d : LineData) : (w.putLine i d).trpLanes = w.trpLanes := rfl
@[simp] theorem Warp.putLine_tl (w : Warp) (i : Nat) (d : LineData) : (w.putLine i d).tl = w.tl := rfl
@[simp] theorem Warp.putLine_regpc (w : Warp) (i : Nat) (d : LineData) : (w.putLine i d).regpc = w.regpc := rfl
@[simp] theorem Warp.putLine_rcnt (w : Warp) (i : Nat) (d : LineData) : (w.putLine i d).rcnt = w.rcnt := rfl
@[simp] theorem Warp.putLine_pend (w : Warp) (i : Nat) (d : LineData) : (w.putLine i d).pend = w.pend := rfl
@[simp] theorem Warp.putLine_batches (w : Warp) (i : Nat) (d : LineData) : (w.putLine i d).batches = w.batches := rfl
@[simp] theorem Warp.putLine_nbatch (w : Warp) (i : Nat) (d : LineData) : (w.putLine i d).nbatch = w.nbatch := rfl
@[simp] theorem Warp.putLine_fseq (w : Warp) (i : Nat) (d : LineData) : (w.putLine i d).fseq = w.fseq := rfl
@[simp] theorem Warp.putLine_fnext (w : Warp) (i : Nat) (d : LineData) : (w.putLine i d).fnext = w.fnext := rfl
@[simp] theorem Warp.putLine_fcause (w : Warp) (i : Nat) (d : LineData) : (w.putLine i d).fcause = w.fcause := rfl
@[simp] theorem Warp.putLine_pause (w : Warp) (i : Nat) (d : LineData) : (w.putLine i d).pause = w.pause := rfl
@[simp] theorem Warp.putLine_wait (w : Warp) (i : Nat) (d : LineData) : (w.putLine i d).wait = w.wait := rfl
@[simp] theorem Warp.putLine_mid (w : Warp) (i : Nat) (d : LineData) : (w.putLine i d).mid = w.mid := rfl
@[simp] theorem Warp.putLine_hold (w : Warp) (i : Nat) (d : LineData) : (w.putLine i d).hold = w.hold := rfl
@[simp] theorem Warp.putLine_reply (w : Warp) (i : Nat) (d : LineData) : (w.putLine i d).reply = w.reply := rfl
@[simp] theorem Warp.putLine_bars (w : Warp) (i : Nat) (d : LineData) : (w.putLine i d).bars = w.bars := rfl
@[simp] theorem Warp.putLine_rob (w : Warp) (i : Nat) (d : LineData) : (w.putLine i d).rob = w.rob := rfl
@[simp] theorem Warp.putLine_fpc (w : Warp) (i : Nat) (d : LineData) : (w.putLine i d).fpc = w.fpc := rfl

/-! ## `Warp.touch` -/

@[simp] theorem Warp.touch_wid (w : Warp) (i : Nat) : (w.touch i).wid = w.wid := by unfold Warp.touch; split <;> rfl
@[simp] theorem Warp.touch_st (w : Warp) (i : Nat) : (w.touch i).st = w.st := by unfold Warp.touch; split <;> rfl
@[simp] theorem Warp.touch_back (w : Warp) (i : Nat) : (w.touch i).back = w.back := by unfold Warp.touch; split <;> rfl
@[simp] theorem Warp.touch_sback (w : Warp) (i : Nat) : (w.touch i).sback = w.sback := by unfold Warp.touch; split <;> rfl
@[simp] theorem Warp.touch_part (w : Warp) (i : Nat) : (w.touch i).part = w.part := by unfold Warp.touch; split <;> rfl
@[simp] theorem Warp.touch_ctx (w : Warp) (i : Nat) : (w.touch i).ctx = w.ctx := by unfold Warp.touch; split <;> rfl
@[simp] theorem Warp.touch_asid (w : Warp) (i : Nat) : (w.touch i).asid = w.asid := by unfold Warp.touch; split <;> rfl
@[simp] theorem Warp.touch_core (w : Warp) (i : Nat) : (w.touch i).core = w.core := by unfold Warp.touch; split <;> rfl
@[simp] theorem Warp.touch_sub (w : Warp) (i : Nat) : (w.touch i).sub = w.sub := by unfold Warp.touch; split <;> rfl
@[simp] theorem Warp.touch_slot (w : Warp) (i : Nat) : (w.touch i).slot = w.slot := by unfold Warp.touch; split <;> rfl
@[simp] theorem Warp.touch_launch (w : Warp) (i : Nat) : (w.touch i).launch = w.launch := by unfold Warp.touch; split <;> rfl
@[simp] theorem Warp.touch_posted (w : Warp) (i : Nat) : (w.touch i).posted = w.posted := by unfold Warp.touch; split <;> rfl
@[simp] theorem Warp.touch_wgid (w : Warp) (i : Nat) : (w.touch i).wgid = w.wgid := by unfold Warp.touch; split <;> rfl
@[simp] theorem Warp.touch_widx (w : Warp) (i : Nat) : (w.touch i).widx = w.widx := by unfold Warp.touch; split <;> rfl
@[simp] theorem Warp.touch_harvest (w : Warp) (i : Nat) : (w.touch i).harvest = w.harvest := by unfold Warp.touch; split <;> rfl
@[simp] theorem Warp.touch_cls (w : Warp) (i : Nat) : (w.touch i).cls = w.cls := by unfold Warp.touch; split <;> rfl
@[simp] theorem Warp.touch_age (w : Warp) (i : Nat) : (w.touch i).age = w.age := by unfold Warp.touch; split <;> rfl
@[simp] theorem Warp.touch_since (w : Warp) (i : Nat) : (w.touch i).since = w.since := by unfold Warp.touch; split <;> rfl
@[simp] theorem Warp.touch_promo (w : Warp) (i : Nat) : (w.touch i).promo = w.promo := by unfold Warp.touch; split <;> rfl
@[simp] theorem Warp.touch_g16 (w : Warp) (i : Nat) : (w.touch i).g16 = w.g16 := by unfold Warp.touch; split <;> rfl
@[simp] theorem Warp.touch_chk (w : Warp) (i : Nat) : (w.touch i).chk = w.chk := by unfold Warp.touch; split <;> rfl
@[simp] theorem Warp.touch_tvec (w : Warp) (i : Nat) : (w.touch i).tvec = w.tvec := by unfold Warp.touch; split <;> rfl
@[simp] theorem Warp.touch_ten (w : Warp) (i : Nat) : (w.touch i).ten = w.ten := by unfold Warp.touch; split <;> rfl
@[simp] theorem Warp.touch_prog (w : Warp) (i : Nat) : (w.touch i).prog = w.prog := by unfold Warp.touch; split <;> rfl
@[simp] theorem Warp.touch_blv (w : Warp) (i : Nat) : (w.touch i).blv = w.blv := by unfold Warp.touch; split <;> rfl
@[simp] theorem Warp.touch_warps (w : Warp) (i : Nat) : (w.touch i).warps = w.warps := by unfold Warp.touch; split <;> rfl
@[simp] theorem Warp.touch_pc (w : Warp) (i : Nat) : (w.touch i).pc = w.pc := by unfold Warp.touch; split <;> rfl
@[simp] theorem Warp.touch_sr (w : Warp) (i : Nat) : (w.touch i).sr = w.sr := by unfold Warp.touch; split <;> rfl
@[simp] theorem Warp.touch_mr (w : Warp) (i : Nat) : (w.touch i).mr = w.mr := by unfold Warp.touch; split <;> rfl
@[simp] theorem Warp.touch_qr (w : Warp) (i : Nat) : (w.touch i).qr = w.qr := by unfold Warp.touch; split <;> rfl
@[simp] theorem Warp.touch_z (w : Warp) (i : Nat) : (w.touch i).z = w.z := by unfold Warp.touch; split <;> rfl
@[simp] theorem Warp.touch_n (w : Warp) (i : Nat) : (w.touch i).n = w.n := by unfold Warp.touch; split <;> rfl
@[simp] theorem Warp.touch_c (w : Warp) (i : Nat) : (w.touch i).c = w.c := by unfold Warp.touch; split <;> rfl
@[simp] theorem Warp.touch_v (w : Warp) (i : Nat) : (w.touch i).v = w.v := by unfold Warp.touch; split <;> rfl
@[simp] theorem Warp.touch_img (w : Warp) (i : Nat) : (w.touch i).img = w.img := by unfold Warp.touch; split <;> rfl
@[simp] theorem Warp.touch_imgIx (w : Warp) (i : Nat) : (w.touch i).imgIx = w.imgIx := by unfold Warp.touch; split <;> rfl
@[simp] theorem Warp.touch_wres (w : Warp) (i : Nat) : (w.touch i).wres = w.wres := by unfold Warp.touch; split <;> rfl
@[simp] theorem Warp.touch_depth (w : Warp) (i : Nat) : (w.touch i).depth = w.depth := by unfold Warp.touch; split <;> rfl
@[simp] theorem Warp.touch_wbo (w : Warp) (i : Nat) : (w.touch i).wbo = w.wbo := by unfold Warp.touch; split <;> rfl
@[simp] theorem Warp.touch_vv (w : Warp) (i : Nat) : (w.touch i).vv = w.vv := by unfold Warp.touch; split <;> rfl
@[simp] theorem Warp.touch_vt (w : Warp) (i : Nat) : (w.touch i).vt = w.vt := by unfold Warp.touch; split <;> rfl
@[simp] theorem Warp.touch_va (w : Warp) (i : Nat) : (w.touch i).va = w.va := by unfold Warp.touch; split <;> rfl
@[simp] theorem Warp.touch_ql (w : Warp) (i : Nat) : (w.touch i).ql = w.ql := by unfold Warp.touch; split <;> rfl
@[simp] theorem Warp.touch_shed (w : Warp) (i : Nat) : (w.touch i).shed = w.shed := by unfold Warp.touch; split <;> rfl
@[simp] theorem Warp.touch_kennel (w : Warp) (i : Nat) : (w.touch i).kennel = w.kennel := by unfold Warp.touch; split <;> rfl
@[simp] theorem Warp.touch_fmode (w : Warp) (i : Nat) : (w.touch i).fmode = w.fmode := by unfold Warp.touch; split <;> rfl
@[simp] theorem Warp.touch_trpPc (w : Warp) (i : Nat) : (w.touch i).trpPc = w.trpPc := by unfold Warp.touch; split <;> rfl
@[simp] theorem Warp.touch_trpCause (w : Warp) (i : Nat) : (w.touch i).trpCause = w.trpCause := by unfold Warp.touch; split <;> rfl
@[simp] theorem Warp.touch_trpAddr (w : Warp) (i : Nat) : (w.touch i).trpAddr = w.trpAddr := by unfold Warp.touch; split <;> rfl
@[simp] theorem Warp.touch_trpLanes (w : Warp) (i : Nat) : (w.touch i).trpLanes = w.trpLanes := by unfold Warp.touch; split <;> rfl
@[simp] theorem Warp.touch_tl (w : Warp) (i : Nat) : (w.touch i).tl = w.tl := by unfold Warp.touch; split <;> rfl
@[simp] theorem Warp.touch_regpc (w : Warp) (i : Nat) : (w.touch i).regpc = w.regpc := by unfold Warp.touch; split <;> rfl
@[simp] theorem Warp.touch_rcnt (w : Warp) (i : Nat) : (w.touch i).rcnt = w.rcnt := by unfold Warp.touch; split <;> rfl
@[simp] theorem Warp.touch_pend (w : Warp) (i : Nat) : (w.touch i).pend = w.pend := by unfold Warp.touch; split <;> rfl
@[simp] theorem Warp.touch_batches (w : Warp) (i : Nat) : (w.touch i).batches = w.batches := by unfold Warp.touch; split <;> rfl
@[simp] theorem Warp.touch_nbatch (w : Warp) (i : Nat) : (w.touch i).nbatch = w.nbatch := by unfold Warp.touch; split <;> rfl
@[simp] theorem Warp.touch_fseq (w : Warp) (i : Nat) : (w.touch i).fseq = w.fseq := by unfold Warp.touch; split <;> rfl
@[simp] theorem Warp.touch_fnext (w : Warp) (i : Nat) : (w.touch i).fnext = w.fnext := by unfold Warp.touch; split <;> rfl
@[simp] theorem Warp.touch_fcause (w : Warp) (i : Nat) : (w.touch i).fcause = w.fcause := by unfold Warp.touch; split <;> rfl
@[simp] theorem Warp.touch_pause (w : Warp) (i : Nat) : (w.touch i).pause = w.pause := by unfold Warp.touch; split <;> rfl
@[simp] theorem Warp.touch_wait (w : Warp) (i : Nat) : (w.touch i).wait = w.wait := by unfold Warp.touch; split <;> rfl
@[simp] theorem Warp.touch_mid (w : Warp) (i : Nat) : (w.touch i).mid = w.mid := by unfold Warp.touch; split <;> rfl
@[simp] theorem Warp.touch_hold (w : Warp) (i : Nat) : (w.touch i).hold = w.hold := by unfold Warp.touch; split <;> rfl
@[simp] theorem Warp.touch_reply (w : Warp) (i : Nat) : (w.touch i).reply = w.reply := by unfold Warp.touch; split <;> rfl
@[simp] theorem Warp.touch_bars (w : Warp) (i : Nat) : (w.touch i).bars = w.bars := by unfold Warp.touch; split <;> rfl
@[simp] theorem Warp.touch_rob (w : Warp) (i : Nat) : (w.touch i).rob = w.rob := by unfold Warp.touch; split <;> rfl
@[simp] theorem Warp.touch_fpc (w : Warp) (i : Nat) : (w.touch i).fpc = w.fpc := by unfold Warp.touch; split <;> rfl

/-! ## `Warp.fromKennel` -/

@[simp] theorem Warp.fromKennel_wid (w : Warp) (i : Nat) : (w.fromKennel i).wid = w.wid := by unfold Warp.fromKennel; split <;> rfl
@[simp] theorem Warp.fromKennel_st (w : Warp) (i : Nat) : (w.fromKennel i).st = w.st := by unfold Warp.fromKennel; split <;> rfl
@[simp] theorem Warp.fromKennel_back (w : Warp) (i : Nat) : (w.fromKennel i).back = w.back := by unfold Warp.fromKennel; split <;> rfl
@[simp] theorem Warp.fromKennel_sback (w : Warp) (i : Nat) : (w.fromKennel i).sback = w.sback := by unfold Warp.fromKennel; split <;> rfl
@[simp] theorem Warp.fromKennel_part (w : Warp) (i : Nat) : (w.fromKennel i).part = w.part := by unfold Warp.fromKennel; split <;> rfl
@[simp] theorem Warp.fromKennel_ctx (w : Warp) (i : Nat) : (w.fromKennel i).ctx = w.ctx := by unfold Warp.fromKennel; split <;> rfl
@[simp] theorem Warp.fromKennel_asid (w : Warp) (i : Nat) : (w.fromKennel i).asid = w.asid := by unfold Warp.fromKennel; split <;> rfl
@[simp] theorem Warp.fromKennel_core (w : Warp) (i : Nat) : (w.fromKennel i).core = w.core := by unfold Warp.fromKennel; split <;> rfl
@[simp] theorem Warp.fromKennel_sub (w : Warp) (i : Nat) : (w.fromKennel i).sub = w.sub := by unfold Warp.fromKennel; split <;> rfl
@[simp] theorem Warp.fromKennel_slot (w : Warp) (i : Nat) : (w.fromKennel i).slot = w.slot := by unfold Warp.fromKennel; split <;> rfl
@[simp] theorem Warp.fromKennel_launch (w : Warp) (i : Nat) : (w.fromKennel i).launch = w.launch := by unfold Warp.fromKennel; split <;> rfl
@[simp] theorem Warp.fromKennel_posted (w : Warp) (i : Nat) : (w.fromKennel i).posted = w.posted := by unfold Warp.fromKennel; split <;> rfl
@[simp] theorem Warp.fromKennel_wgid (w : Warp) (i : Nat) : (w.fromKennel i).wgid = w.wgid := by unfold Warp.fromKennel; split <;> rfl
@[simp] theorem Warp.fromKennel_widx (w : Warp) (i : Nat) : (w.fromKennel i).widx = w.widx := by unfold Warp.fromKennel; split <;> rfl
@[simp] theorem Warp.fromKennel_harvest (w : Warp) (i : Nat) : (w.fromKennel i).harvest = w.harvest := by unfold Warp.fromKennel; split <;> rfl
@[simp] theorem Warp.fromKennel_cls (w : Warp) (i : Nat) : (w.fromKennel i).cls = w.cls := by unfold Warp.fromKennel; split <;> rfl
@[simp] theorem Warp.fromKennel_age (w : Warp) (i : Nat) : (w.fromKennel i).age = w.age := by unfold Warp.fromKennel; split <;> rfl
@[simp] theorem Warp.fromKennel_since (w : Warp) (i : Nat) : (w.fromKennel i).since = w.since := by unfold Warp.fromKennel; split <;> rfl
@[simp] theorem Warp.fromKennel_promo (w : Warp) (i : Nat) : (w.fromKennel i).promo = w.promo := by unfold Warp.fromKennel; split <;> rfl
@[simp] theorem Warp.fromKennel_g16 (w : Warp) (i : Nat) : (w.fromKennel i).g16 = w.g16 := by unfold Warp.fromKennel; split <;> rfl
@[simp] theorem Warp.fromKennel_chk (w : Warp) (i : Nat) : (w.fromKennel i).chk = w.chk := by unfold Warp.fromKennel; split <;> rfl
@[simp] theorem Warp.fromKennel_tvec (w : Warp) (i : Nat) : (w.fromKennel i).tvec = w.tvec := by unfold Warp.fromKennel; split <;> rfl
@[simp] theorem Warp.fromKennel_ten (w : Warp) (i : Nat) : (w.fromKennel i).ten = w.ten := by unfold Warp.fromKennel; split <;> rfl
@[simp] theorem Warp.fromKennel_prog (w : Warp) (i : Nat) : (w.fromKennel i).prog = w.prog := by unfold Warp.fromKennel; split <;> rfl
@[simp] theorem Warp.fromKennel_blv (w : Warp) (i : Nat) : (w.fromKennel i).blv = w.blv := by unfold Warp.fromKennel; split <;> rfl
@[simp] theorem Warp.fromKennel_warps (w : Warp) (i : Nat) : (w.fromKennel i).warps = w.warps := by unfold Warp.fromKennel; split <;> rfl
@[simp] theorem Warp.fromKennel_pc (w : Warp) (i : Nat) : (w.fromKennel i).pc = w.pc := by unfold Warp.fromKennel; split <;> rfl
@[simp] theorem Warp.fromKennel_sr (w : Warp) (i : Nat) : (w.fromKennel i).sr = w.sr := by unfold Warp.fromKennel; split <;> rfl
@[simp] theorem Warp.fromKennel_mr (w : Warp) (i : Nat) : (w.fromKennel i).mr = w.mr := by unfold Warp.fromKennel; split <;> rfl
@[simp] theorem Warp.fromKennel_qr (w : Warp) (i : Nat) : (w.fromKennel i).qr = w.qr := by unfold Warp.fromKennel; split <;> rfl
@[simp] theorem Warp.fromKennel_z (w : Warp) (i : Nat) : (w.fromKennel i).z = w.z := by unfold Warp.fromKennel; split <;> rfl
@[simp] theorem Warp.fromKennel_n (w : Warp) (i : Nat) : (w.fromKennel i).n = w.n := by unfold Warp.fromKennel; split <;> rfl
@[simp] theorem Warp.fromKennel_c (w : Warp) (i : Nat) : (w.fromKennel i).c = w.c := by unfold Warp.fromKennel; split <;> rfl
@[simp] theorem Warp.fromKennel_v (w : Warp) (i : Nat) : (w.fromKennel i).v = w.v := by unfold Warp.fromKennel; split <;> rfl
@[simp] theorem Warp.fromKennel_img (w : Warp) (i : Nat) : (w.fromKennel i).img = w.img := by unfold Warp.fromKennel; split <;> rfl
@[simp] theorem Warp.fromKennel_imgIx (w : Warp) (i : Nat) : (w.fromKennel i).imgIx = w.imgIx := by unfold Warp.fromKennel; split <;> rfl
@[simp] theorem Warp.fromKennel_wres (w : Warp) (i : Nat) : (w.fromKennel i).wres = w.wres := by unfold Warp.fromKennel; split <;> rfl
@[simp] theorem Warp.fromKennel_depth (w : Warp) (i : Nat) : (w.fromKennel i).depth = w.depth := by unfold Warp.fromKennel; split <;> rfl
@[simp] theorem Warp.fromKennel_wbo (w : Warp) (i : Nat) : (w.fromKennel i).wbo = w.wbo := by unfold Warp.fromKennel; split <;> rfl
@[simp] theorem Warp.fromKennel_vv (w : Warp) (i : Nat) : (w.fromKennel i).vv = w.vv := by unfold Warp.fromKennel; split <;> rfl
@[simp] theorem Warp.fromKennel_vt (w : Warp) (i : Nat) : (w.fromKennel i).vt = w.vt := by unfold Warp.fromKennel; split <;> rfl
@[simp] theorem Warp.fromKennel_va (w : Warp) (i : Nat) : (w.fromKennel i).va = w.va := by unfold Warp.fromKennel; split <;> rfl
@[simp] theorem Warp.fromKennel_ql (w : Warp) (i : Nat) : (w.fromKennel i).ql = w.ql := by unfold Warp.fromKennel; split <;> rfl
@[simp] theorem Warp.fromKennel_shed (w : Warp) (i : Nat) : (w.fromKennel i).shed = w.shed := by unfold Warp.fromKennel; split <;> rfl
@[simp] theorem Warp.fromKennel_fmode (w : Warp) (i : Nat) : (w.fromKennel i).fmode = w.fmode := by unfold Warp.fromKennel; split <;> rfl
@[simp] theorem Warp.fromKennel_trpPc (w : Warp) (i : Nat) : (w.fromKennel i).trpPc = w.trpPc := by unfold Warp.fromKennel; split <;> rfl
@[simp] theorem Warp.fromKennel_trpCause (w : Warp) (i : Nat) : (w.fromKennel i).trpCause = w.trpCause := by unfold Warp.fromKennel; split <;> rfl
@[simp] theorem Warp.fromKennel_trpAddr (w : Warp) (i : Nat) : (w.fromKennel i).trpAddr = w.trpAddr := by unfold Warp.fromKennel; split <;> rfl
@[simp] theorem Warp.fromKennel_trpLanes (w : Warp) (i : Nat) : (w.fromKennel i).trpLanes = w.trpLanes := by unfold Warp.fromKennel; split <;> rfl
@[simp] theorem Warp.fromKennel_tl (w : Warp) (i : Nat) : (w.fromKennel i).tl = w.tl := by unfold Warp.fromKennel; split <;> rfl
@[simp] theorem Warp.fromKennel_regpc (w : Warp) (i : Nat) : (w.fromKennel i).regpc = w.regpc := by unfold Warp.fromKennel; split <;> rfl
@[simp] theorem Warp.fromKennel_rcnt (w : Warp) (i : Nat) : (w.fromKennel i).rcnt = w.rcnt := by unfold Warp.fromKennel; split <;> rfl
@[simp] theorem Warp.fromKennel_pend (w : Warp) (i : Nat) : (w.fromKennel i).pend = w.pend := by unfold Warp.fromKennel; split <;> rfl
@[simp] theorem Warp.fromKennel_batches (w : Warp) (i : Nat) : (w.fromKennel i).batches = w.batches := by unfold Warp.fromKennel; split <;> rfl
@[simp] theorem Warp.fromKennel_nbatch (w : Warp) (i : Nat) : (w.fromKennel i).nbatch = w.nbatch := by unfold Warp.fromKennel; split <;> rfl
@[simp] theorem Warp.fromKennel_fseq (w : Warp) (i : Nat) : (w.fromKennel i).fseq = w.fseq := by unfold Warp.fromKennel; split <;> rfl
@[simp] theorem Warp.fromKennel_fnext (w : Warp) (i : Nat) : (w.fromKennel i).fnext = w.fnext := by unfold Warp.fromKennel; split <;> rfl
@[simp] theorem Warp.fromKennel_fcause (w : Warp) (i : Nat) : (w.fromKennel i).fcause = w.fcause := by unfold Warp.fromKennel; split <;> rfl
@[simp] theorem Warp.fromKennel_pause (w : Warp) (i : Nat) : (w.fromKennel i).pause = w.pause := by unfold Warp.fromKennel; split <;> rfl
@[simp] theorem Warp.fromKennel_wait (w : Warp) (i : Nat) : (w.fromKennel i).wait = w.wait := by unfold Warp.fromKennel; split <;> rfl
@[simp] theorem Warp.fromKennel_mid (w : Warp) (i : Nat) : (w.fromKennel i).mid = w.mid := by unfold Warp.fromKennel; split <;> rfl
@[simp] theorem Warp.fromKennel_hold (w : Warp) (i : Nat) : (w.fromKennel i).hold = w.hold := by unfold Warp.fromKennel; split <;> rfl
@[simp] theorem Warp.fromKennel_reply (w : Warp) (i : Nat) : (w.fromKennel i).reply = w.reply := by unfold Warp.fromKennel; split <;> rfl
@[simp] theorem Warp.fromKennel_bars (w : Warp) (i : Nat) : (w.fromKennel i).bars = w.bars := by unfold Warp.fromKennel; split <;> rfl
@[simp] theorem Warp.fromKennel_rob (w : Warp) (i : Nat) : (w.fromKennel i).rob = w.rob := by unfold Warp.fromKennel; split <;> rfl
@[simp] theorem Warp.fromKennel_fpc (w : Warp) (i : Nat) : (w.fromKennel i).fpc = w.fpc := by unfold Warp.fromKennel; split <;> rfl

/-! ## `Warp.enter` -/

@[simp] theorem Warp.enter_wid (w : Warp) (t : Trap) : (w.enter t).wid = w.wid := rfl
@[simp] theorem Warp.enter_st (w : Warp) (t : Trap) : (w.enter t).st = w.st := rfl
@[simp] theorem Warp.enter_back (w : Warp) (t : Trap) : (w.enter t).back = w.back := rfl
@[simp] theorem Warp.enter_sback (w : Warp) (t : Trap) : (w.enter t).sback = w.sback := rfl
@[simp] theorem Warp.enter_part (w : Warp) (t : Trap) : (w.enter t).part = w.part := rfl
@[simp] theorem Warp.enter_ctx (w : Warp) (t : Trap) : (w.enter t).ctx = w.ctx := rfl
@[simp] theorem Warp.enter_asid (w : Warp) (t : Trap) : (w.enter t).asid = w.asid := rfl
@[simp] theorem Warp.enter_core (w : Warp) (t : Trap) : (w.enter t).core = w.core := rfl
@[simp] theorem Warp.enter_sub (w : Warp) (t : Trap) : (w.enter t).sub = w.sub := rfl
@[simp] theorem Warp.enter_slot (w : Warp) (t : Trap) : (w.enter t).slot = w.slot := rfl
@[simp] theorem Warp.enter_launch (w : Warp) (t : Trap) : (w.enter t).launch = w.launch := rfl
@[simp] theorem Warp.enter_posted (w : Warp) (t : Trap) : (w.enter t).posted = w.posted := rfl
@[simp] theorem Warp.enter_wgid (w : Warp) (t : Trap) : (w.enter t).wgid = w.wgid := rfl
@[simp] theorem Warp.enter_widx (w : Warp) (t : Trap) : (w.enter t).widx = w.widx := rfl
@[simp] theorem Warp.enter_harvest (w : Warp) (t : Trap) : (w.enter t).harvest = w.harvest := rfl
@[simp] theorem Warp.enter_cls (w : Warp) (t : Trap) : (w.enter t).cls = w.cls := rfl
@[simp] theorem Warp.enter_age (w : Warp) (t : Trap) : (w.enter t).age = w.age := rfl
@[simp] theorem Warp.enter_since (w : Warp) (t : Trap) : (w.enter t).since = w.since := rfl
@[simp] theorem Warp.enter_g16 (w : Warp) (t : Trap) : (w.enter t).g16 = w.g16 := rfl
@[simp] theorem Warp.enter_chk (w : Warp) (t : Trap) : (w.enter t).chk = w.chk := rfl
@[simp] theorem Warp.enter_tvec (w : Warp) (t : Trap) : (w.enter t).tvec = w.tvec := rfl
@[simp] theorem Warp.enter_ten (w : Warp) (t : Trap) : (w.enter t).ten = w.ten := rfl
@[simp] theorem Warp.enter_prog (w : Warp) (t : Trap) : (w.enter t).prog = w.prog := rfl
@[simp] theorem Warp.enter_blv (w : Warp) (t : Trap) : (w.enter t).blv = w.blv := rfl
@[simp] theorem Warp.enter_warps (w : Warp) (t : Trap) : (w.enter t).warps = w.warps := rfl
@[simp] theorem Warp.enter_sr (w : Warp) (t : Trap) : (w.enter t).sr = w.sr := rfl
@[simp] theorem Warp.enter_mr (w : Warp) (t : Trap) : (w.enter t).mr = w.mr := rfl
@[simp] theorem Warp.enter_qr (w : Warp) (t : Trap) : (w.enter t).qr = w.qr := rfl
@[simp] theorem Warp.enter_z (w : Warp) (t : Trap) : (w.enter t).z = w.z := rfl
@[simp] theorem Warp.enter_n (w : Warp) (t : Trap) : (w.enter t).n = w.n := rfl
@[simp] theorem Warp.enter_c (w : Warp) (t : Trap) : (w.enter t).c = w.c := rfl
@[simp] theorem Warp.enter_v (w : Warp) (t : Trap) : (w.enter t).v = w.v := rfl
@[simp] theorem Warp.enter_img (w : Warp) (t : Trap) : (w.enter t).img = w.img := rfl
@[simp] theorem Warp.enter_imgIx (w : Warp) (t : Trap) : (w.enter t).imgIx = w.imgIx := rfl
@[simp] theorem Warp.enter_wres (w : Warp) (t : Trap) : (w.enter t).wres = w.wres := rfl
@[simp] theorem Warp.enter_depth (w : Warp) (t : Trap) : (w.enter t).depth = w.depth := rfl
@[simp] theorem Warp.enter_wbo (w : Warp) (t : Trap) : (w.enter t).wbo = w.wbo := rfl
@[simp] theorem Warp.enter_vv (w : Warp) (t : Trap) : (w.enter t).vv = w.vv := rfl
@[simp] theorem Warp.enter_vt (w : Warp) (t : Trap) : (w.enter t).vt = w.vt := rfl
@[simp] theorem Warp.enter_va (w : Warp) (t : Trap) : (w.enter t).va = w.va := rfl
@[simp] theorem Warp.enter_ql (w : Warp) (t : Trap) : (w.enter t).ql = w.ql := rfl
@[simp] theorem Warp.enter_shed (w : Warp) (t : Trap) : (w.enter t).shed = w.shed := rfl
@[simp] theorem Warp.enter_lines (w : Warp) (t : Trap) : (w.enter t).lines = w.lines := rfl
@[simp] theorem Warp.enter_kennel (w : Warp) (t : Trap) : (w.enter t).kennel = w.kennel := rfl
@[simp] theorem Warp.enter_fmode (w : Warp) (t : Trap) : (w.enter t).fmode = w.fmode := rfl
@[simp] theorem Warp.enter_pend (w : Warp) (t : Trap) : (w.enter t).pend = w.pend := rfl
@[simp] theorem Warp.enter_batches (w : Warp) (t : Trap) : (w.enter t).batches = w.batches := rfl
@[simp] theorem Warp.enter_nbatch (w : Warp) (t : Trap) : (w.enter t).nbatch = w.nbatch := rfl
@[simp] theorem Warp.enter_fseq (w : Warp) (t : Trap) : (w.enter t).fseq = w.fseq := rfl
@[simp] theorem Warp.enter_fnext (w : Warp) (t : Trap) : (w.enter t).fnext = w.fnext := rfl
@[simp] theorem Warp.enter_fcause (w : Warp) (t : Trap) : (w.enter t).fcause = w.fcause := rfl
@[simp] theorem Warp.enter_reply (w : Warp) (t : Trap) : (w.enter t).reply = w.reply := rfl
@[simp] theorem Warp.enter_bars (w : Warp) (t : Trap) : (w.enter t).bars = w.bars := rfl
@[simp] theorem Warp.enter_rob (w : Warp) (t : Trap) : (w.enter t).rob = w.rob := rfl
@[simp] theorem Warp.enter_fpc (w : Warp) (t : Trap) : (w.enter t).fpc = w.fpc := rfl

/-! ## `Warp.setS` -/

@[simp] theorem Warp.setS_wid (w : Warp) (r : SReg) (v : Word) : (w.setS r v).wid = w.wid := by unfold Warp.setS; split <;> rfl
@[simp] theorem Warp.setS_st (w : Warp) (r : SReg) (v : Word) : (w.setS r v).st = w.st := by unfold Warp.setS; split <;> rfl
@[simp] theorem Warp.setS_back (w : Warp) (r : SReg) (v : Word) : (w.setS r v).back = w.back := by unfold Warp.setS; split <;> rfl
@[simp] theorem Warp.setS_sback (w : Warp) (r : SReg) (v : Word) : (w.setS r v).sback = w.sback := by unfold Warp.setS; split <;> rfl
@[simp] theorem Warp.setS_part (w : Warp) (r : SReg) (v : Word) : (w.setS r v).part = w.part := by unfold Warp.setS; split <;> rfl
@[simp] theorem Warp.setS_ctx (w : Warp) (r : SReg) (v : Word) : (w.setS r v).ctx = w.ctx := by unfold Warp.setS; split <;> rfl
@[simp] theorem Warp.setS_asid (w : Warp) (r : SReg) (v : Word) : (w.setS r v).asid = w.asid := by unfold Warp.setS; split <;> rfl
@[simp] theorem Warp.setS_core (w : Warp) (r : SReg) (v : Word) : (w.setS r v).core = w.core := by unfold Warp.setS; split <;> rfl
@[simp] theorem Warp.setS_sub (w : Warp) (r : SReg) (v : Word) : (w.setS r v).sub = w.sub := by unfold Warp.setS; split <;> rfl
@[simp] theorem Warp.setS_slot (w : Warp) (r : SReg) (v : Word) : (w.setS r v).slot = w.slot := by unfold Warp.setS; split <;> rfl
@[simp] theorem Warp.setS_launch (w : Warp) (r : SReg) (v : Word) : (w.setS r v).launch = w.launch := by unfold Warp.setS; split <;> rfl
@[simp] theorem Warp.setS_posted (w : Warp) (r : SReg) (v : Word) : (w.setS r v).posted = w.posted := by unfold Warp.setS; split <;> rfl
@[simp] theorem Warp.setS_wgid (w : Warp) (r : SReg) (v : Word) : (w.setS r v).wgid = w.wgid := by unfold Warp.setS; split <;> rfl
@[simp] theorem Warp.setS_widx (w : Warp) (r : SReg) (v : Word) : (w.setS r v).widx = w.widx := by unfold Warp.setS; split <;> rfl
@[simp] theorem Warp.setS_harvest (w : Warp) (r : SReg) (v : Word) : (w.setS r v).harvest = w.harvest := by unfold Warp.setS; split <;> rfl
@[simp] theorem Warp.setS_cls (w : Warp) (r : SReg) (v : Word) : (w.setS r v).cls = w.cls := by unfold Warp.setS; split <;> rfl
@[simp] theorem Warp.setS_age (w : Warp) (r : SReg) (v : Word) : (w.setS r v).age = w.age := by unfold Warp.setS; split <;> rfl
@[simp] theorem Warp.setS_since (w : Warp) (r : SReg) (v : Word) : (w.setS r v).since = w.since := by unfold Warp.setS; split <;> rfl
@[simp] theorem Warp.setS_promo (w : Warp) (r : SReg) (v : Word) : (w.setS r v).promo = w.promo := by unfold Warp.setS; split <;> rfl
@[simp] theorem Warp.setS_g16 (w : Warp) (r : SReg) (v : Word) : (w.setS r v).g16 = w.g16 := by unfold Warp.setS; split <;> rfl
@[simp] theorem Warp.setS_chk (w : Warp) (r : SReg) (v : Word) : (w.setS r v).chk = w.chk := by unfold Warp.setS; split <;> rfl
@[simp] theorem Warp.setS_tvec (w : Warp) (r : SReg) (v : Word) : (w.setS r v).tvec = w.tvec := by unfold Warp.setS; split <;> rfl
@[simp] theorem Warp.setS_ten (w : Warp) (r : SReg) (v : Word) : (w.setS r v).ten = w.ten := by unfold Warp.setS; split <;> rfl
@[simp] theorem Warp.setS_prog (w : Warp) (r : SReg) (v : Word) : (w.setS r v).prog = w.prog := by unfold Warp.setS; split <;> rfl
@[simp] theorem Warp.setS_blv (w : Warp) (r : SReg) (v : Word) : (w.setS r v).blv = w.blv := by unfold Warp.setS; split <;> rfl
@[simp] theorem Warp.setS_warps (w : Warp) (r : SReg) (v : Word) : (w.setS r v).warps = w.warps := by unfold Warp.setS; split <;> rfl
@[simp] theorem Warp.setS_pc (w : Warp) (r : SReg) (v : Word) : (w.setS r v).pc = w.pc := by unfold Warp.setS; split <;> rfl
@[simp] theorem Warp.setS_mr (w : Warp) (r : SReg) (v : Word) : (w.setS r v).mr = w.mr := by unfold Warp.setS; split <;> rfl
@[simp] theorem Warp.setS_qr (w : Warp) (r : SReg) (v : Word) : (w.setS r v).qr = w.qr := by unfold Warp.setS; split <;> rfl
@[simp] theorem Warp.setS_z (w : Warp) (r : SReg) (v : Word) : (w.setS r v).z = w.z := by unfold Warp.setS; split <;> rfl
@[simp] theorem Warp.setS_n (w : Warp) (r : SReg) (v : Word) : (w.setS r v).n = w.n := by unfold Warp.setS; split <;> rfl
@[simp] theorem Warp.setS_c (w : Warp) (r : SReg) (v : Word) : (w.setS r v).c = w.c := by unfold Warp.setS; split <;> rfl
@[simp] theorem Warp.setS_v (w : Warp) (r : SReg) (v : Word) : (w.setS r v).v = w.v := by unfold Warp.setS; split <;> rfl
@[simp] theorem Warp.setS_img (w : Warp) (r : SReg) (v : Word) : (w.setS r v).img = w.img := by unfold Warp.setS; split <;> rfl
@[simp] theorem Warp.setS_imgIx (w : Warp) (r : SReg) (v : Word) : (w.setS r v).imgIx = w.imgIx := by unfold Warp.setS; split <;> rfl
@[simp] theorem Warp.setS_wres (w : Warp) (r : SReg) (v : Word) : (w.setS r v).wres = w.wres := by unfold Warp.setS; split <;> rfl
@[simp] theorem Warp.setS_depth (w : Warp) (r : SReg) (v : Word) : (w.setS r v).depth = w.depth := by unfold Warp.setS; split <;> rfl
@[simp] theorem Warp.setS_wbo (w : Warp) (r : SReg) (v : Word) : (w.setS r v).wbo = w.wbo := by unfold Warp.setS; split <;> rfl
@[simp] theorem Warp.setS_vv (w : Warp) (r : SReg) (v : Word) : (w.setS r v).vv = w.vv := by unfold Warp.setS; split <;> rfl
@[simp] theorem Warp.setS_vt (w : Warp) (r : SReg) (v : Word) : (w.setS r v).vt = w.vt := by unfold Warp.setS; split <;> rfl
@[simp] theorem Warp.setS_va (w : Warp) (r : SReg) (v : Word) : (w.setS r v).va = w.va := by unfold Warp.setS; split <;> rfl
@[simp] theorem Warp.setS_ql (w : Warp) (r : SReg) (v : Word) : (w.setS r v).ql = w.ql := by unfold Warp.setS; split <;> rfl
@[simp] theorem Warp.setS_shed (w : Warp) (r : SReg) (v : Word) : (w.setS r v).shed = w.shed := by unfold Warp.setS; split <;> rfl
@[simp] theorem Warp.setS_lines (w : Warp) (r : SReg) (v : Word) : (w.setS r v).lines = w.lines := by unfold Warp.setS; split <;> rfl
@[simp] theorem Warp.setS_kennel (w : Warp) (r : SReg) (v : Word) : (w.setS r v).kennel = w.kennel := by unfold Warp.setS; split <;> rfl
@[simp] theorem Warp.setS_fmode (w : Warp) (r : SReg) (v : Word) : (w.setS r v).fmode = w.fmode := by unfold Warp.setS; split <;> rfl
@[simp] theorem Warp.setS_trpPc (w : Warp) (r : SReg) (v : Word) : (w.setS r v).trpPc = w.trpPc := by unfold Warp.setS; split <;> rfl
@[simp] theorem Warp.setS_trpCause (w : Warp) (r : SReg) (v : Word) : (w.setS r v).trpCause = w.trpCause := by unfold Warp.setS; split <;> rfl
@[simp] theorem Warp.setS_trpAddr (w : Warp) (r : SReg) (v : Word) : (w.setS r v).trpAddr = w.trpAddr := by unfold Warp.setS; split <;> rfl
@[simp] theorem Warp.setS_trpLanes (w : Warp) (r : SReg) (v : Word) : (w.setS r v).trpLanes = w.trpLanes := by unfold Warp.setS; split <;> rfl
@[simp] theorem Warp.setS_tl (w : Warp) (r : SReg) (v : Word) : (w.setS r v).tl = w.tl := by unfold Warp.setS; split <;> rfl
@[simp] theorem Warp.setS_regpc (w : Warp) (r : SReg) (v : Word) : (w.setS r v).regpc = w.regpc := by unfold Warp.setS; split <;> rfl
@[simp] theorem Warp.setS_rcnt (w : Warp) (r : SReg) (v : Word) : (w.setS r v).rcnt = w.rcnt := by unfold Warp.setS; split <;> rfl
@[simp] theorem Warp.setS_pend (w : Warp) (r : SReg) (v : Word) : (w.setS r v).pend = w.pend := by unfold Warp.setS; split <;> rfl
@[simp] theorem Warp.setS_batches (w : Warp) (r : SReg) (v : Word) : (w.setS r v).batches = w.batches := by unfold Warp.setS; split <;> rfl
@[simp] theorem Warp.setS_nbatch (w : Warp) (r : SReg) (v : Word) : (w.setS r v).nbatch = w.nbatch := by unfold Warp.setS; split <;> rfl
@[simp] theorem Warp.setS_fseq (w : Warp) (r : SReg) (v : Word) : (w.setS r v).fseq = w.fseq := by unfold Warp.setS; split <;> rfl
@[simp] theorem Warp.setS_fnext (w : Warp) (r : SReg) (v : Word) : (w.setS r v).fnext = w.fnext := by unfold Warp.setS; split <;> rfl
@[simp] theorem Warp.setS_fcause (w : Warp) (r : SReg) (v : Word) : (w.setS r v).fcause = w.fcause := by unfold Warp.setS; split <;> rfl
@[simp] theorem Warp.setS_pause (w : Warp) (r : SReg) (v : Word) : (w.setS r v).pause = w.pause := by unfold Warp.setS; split <;> rfl
@[simp] theorem Warp.setS_wait (w : Warp) (r : SReg) (v : Word) : (w.setS r v).wait = w.wait := by unfold Warp.setS; split <;> rfl
@[simp] theorem Warp.setS_mid (w : Warp) (r : SReg) (v : Word) : (w.setS r v).mid = w.mid := by unfold Warp.setS; split <;> rfl
@[simp] theorem Warp.setS_hold (w : Warp) (r : SReg) (v : Word) : (w.setS r v).hold = w.hold := by unfold Warp.setS; split <;> rfl
@[simp] theorem Warp.setS_reply (w : Warp) (r : SReg) (v : Word) : (w.setS r v).reply = w.reply := by unfold Warp.setS; split <;> rfl
@[simp] theorem Warp.setS_bars (w : Warp) (r : SReg) (v : Word) : (w.setS r v).bars = w.bars := by unfold Warp.setS; split <;> rfl
@[simp] theorem Warp.setS_rob (w : Warp) (r : SReg) (v : Word) : (w.setS r v).rob = w.rob := by unfold Warp.setS; split <;> rfl
@[simp] theorem Warp.setS_fpc (w : Warp) (r : SReg) (v : Word) : (w.setS r v).fpc = w.fpc := by unfold Warp.setS; split <;> rfl

/-! ## `Warp.setM` -/

@[simp] theorem Warp.setM_wid (w : Warp) (r : MReg) (v : Word32) : (w.setM r v).wid = w.wid := by unfold Warp.setM; split <;> rfl
@[simp] theorem Warp.setM_st (w : Warp) (r : MReg) (v : Word32) : (w.setM r v).st = w.st := by unfold Warp.setM; split <;> rfl
@[simp] theorem Warp.setM_back (w : Warp) (r : MReg) (v : Word32) : (w.setM r v).back = w.back := by unfold Warp.setM; split <;> rfl
@[simp] theorem Warp.setM_sback (w : Warp) (r : MReg) (v : Word32) : (w.setM r v).sback = w.sback := by unfold Warp.setM; split <;> rfl
@[simp] theorem Warp.setM_part (w : Warp) (r : MReg) (v : Word32) : (w.setM r v).part = w.part := by unfold Warp.setM; split <;> rfl
@[simp] theorem Warp.setM_ctx (w : Warp) (r : MReg) (v : Word32) : (w.setM r v).ctx = w.ctx := by unfold Warp.setM; split <;> rfl
@[simp] theorem Warp.setM_asid (w : Warp) (r : MReg) (v : Word32) : (w.setM r v).asid = w.asid := by unfold Warp.setM; split <;> rfl
@[simp] theorem Warp.setM_core (w : Warp) (r : MReg) (v : Word32) : (w.setM r v).core = w.core := by unfold Warp.setM; split <;> rfl
@[simp] theorem Warp.setM_sub (w : Warp) (r : MReg) (v : Word32) : (w.setM r v).sub = w.sub := by unfold Warp.setM; split <;> rfl
@[simp] theorem Warp.setM_slot (w : Warp) (r : MReg) (v : Word32) : (w.setM r v).slot = w.slot := by unfold Warp.setM; split <;> rfl
@[simp] theorem Warp.setM_launch (w : Warp) (r : MReg) (v : Word32) : (w.setM r v).launch = w.launch := by unfold Warp.setM; split <;> rfl
@[simp] theorem Warp.setM_posted (w : Warp) (r : MReg) (v : Word32) : (w.setM r v).posted = w.posted := by unfold Warp.setM; split <;> rfl
@[simp] theorem Warp.setM_wgid (w : Warp) (r : MReg) (v : Word32) : (w.setM r v).wgid = w.wgid := by unfold Warp.setM; split <;> rfl
@[simp] theorem Warp.setM_widx (w : Warp) (r : MReg) (v : Word32) : (w.setM r v).widx = w.widx := by unfold Warp.setM; split <;> rfl
@[simp] theorem Warp.setM_harvest (w : Warp) (r : MReg) (v : Word32) : (w.setM r v).harvest = w.harvest := by unfold Warp.setM; split <;> rfl
@[simp] theorem Warp.setM_cls (w : Warp) (r : MReg) (v : Word32) : (w.setM r v).cls = w.cls := by unfold Warp.setM; split <;> rfl
@[simp] theorem Warp.setM_age (w : Warp) (r : MReg) (v : Word32) : (w.setM r v).age = w.age := by unfold Warp.setM; split <;> rfl
@[simp] theorem Warp.setM_since (w : Warp) (r : MReg) (v : Word32) : (w.setM r v).since = w.since := by unfold Warp.setM; split <;> rfl
@[simp] theorem Warp.setM_promo (w : Warp) (r : MReg) (v : Word32) : (w.setM r v).promo = w.promo := by unfold Warp.setM; split <;> rfl
@[simp] theorem Warp.setM_g16 (w : Warp) (r : MReg) (v : Word32) : (w.setM r v).g16 = w.g16 := by unfold Warp.setM; split <;> rfl
@[simp] theorem Warp.setM_chk (w : Warp) (r : MReg) (v : Word32) : (w.setM r v).chk = w.chk := by unfold Warp.setM; split <;> rfl
@[simp] theorem Warp.setM_tvec (w : Warp) (r : MReg) (v : Word32) : (w.setM r v).tvec = w.tvec := by unfold Warp.setM; split <;> rfl
@[simp] theorem Warp.setM_ten (w : Warp) (r : MReg) (v : Word32) : (w.setM r v).ten = w.ten := by unfold Warp.setM; split <;> rfl
@[simp] theorem Warp.setM_prog (w : Warp) (r : MReg) (v : Word32) : (w.setM r v).prog = w.prog := by unfold Warp.setM; split <;> rfl
@[simp] theorem Warp.setM_blv (w : Warp) (r : MReg) (v : Word32) : (w.setM r v).blv = w.blv := by unfold Warp.setM; split <;> rfl
@[simp] theorem Warp.setM_warps (w : Warp) (r : MReg) (v : Word32) : (w.setM r v).warps = w.warps := by unfold Warp.setM; split <;> rfl
@[simp] theorem Warp.setM_pc (w : Warp) (r : MReg) (v : Word32) : (w.setM r v).pc = w.pc := by unfold Warp.setM; split <;> rfl
@[simp] theorem Warp.setM_sr (w : Warp) (r : MReg) (v : Word32) : (w.setM r v).sr = w.sr := by unfold Warp.setM; split <;> rfl
@[simp] theorem Warp.setM_qr (w : Warp) (r : MReg) (v : Word32) : (w.setM r v).qr = w.qr := by unfold Warp.setM; split <;> rfl
@[simp] theorem Warp.setM_z (w : Warp) (r : MReg) (v : Word32) : (w.setM r v).z = w.z := by unfold Warp.setM; split <;> rfl
@[simp] theorem Warp.setM_n (w : Warp) (r : MReg) (v : Word32) : (w.setM r v).n = w.n := by unfold Warp.setM; split <;> rfl
@[simp] theorem Warp.setM_c (w : Warp) (r : MReg) (v : Word32) : (w.setM r v).c = w.c := by unfold Warp.setM; split <;> rfl
@[simp] theorem Warp.setM_v (w : Warp) (r : MReg) (v : Word32) : (w.setM r v).v = w.v := by unfold Warp.setM; split <;> rfl
@[simp] theorem Warp.setM_img (w : Warp) (r : MReg) (v : Word32) : (w.setM r v).img = w.img := by unfold Warp.setM; split <;> rfl
@[simp] theorem Warp.setM_imgIx (w : Warp) (r : MReg) (v : Word32) : (w.setM r v).imgIx = w.imgIx := by unfold Warp.setM; split <;> rfl
@[simp] theorem Warp.setM_wres (w : Warp) (r : MReg) (v : Word32) : (w.setM r v).wres = w.wres := by unfold Warp.setM; split <;> rfl
@[simp] theorem Warp.setM_depth (w : Warp) (r : MReg) (v : Word32) : (w.setM r v).depth = w.depth := by unfold Warp.setM; split <;> rfl
@[simp] theorem Warp.setM_wbo (w : Warp) (r : MReg) (v : Word32) : (w.setM r v).wbo = w.wbo := by unfold Warp.setM; split <;> rfl
@[simp] theorem Warp.setM_vv (w : Warp) (r : MReg) (v : Word32) : (w.setM r v).vv = w.vv := by unfold Warp.setM; split <;> rfl
@[simp] theorem Warp.setM_vt (w : Warp) (r : MReg) (v : Word32) : (w.setM r v).vt = w.vt := by unfold Warp.setM; split <;> rfl
@[simp] theorem Warp.setM_va (w : Warp) (r : MReg) (v : Word32) : (w.setM r v).va = w.va := by unfold Warp.setM; split <;> rfl
@[simp] theorem Warp.setM_ql (w : Warp) (r : MReg) (v : Word32) : (w.setM r v).ql = w.ql := by unfold Warp.setM; split <;> rfl
@[simp] theorem Warp.setM_shed (w : Warp) (r : MReg) (v : Word32) : (w.setM r v).shed = w.shed := by unfold Warp.setM; split <;> rfl
@[simp] theorem Warp.setM_lines (w : Warp) (r : MReg) (v : Word32) : (w.setM r v).lines = w.lines := by unfold Warp.setM; split <;> rfl
@[simp] theorem Warp.setM_kennel (w : Warp) (r : MReg) (v : Word32) : (w.setM r v).kennel = w.kennel := by unfold Warp.setM; split <;> rfl
@[simp] theorem Warp.setM_fmode (w : Warp) (r : MReg) (v : Word32) : (w.setM r v).fmode = w.fmode := by unfold Warp.setM; split <;> rfl
@[simp] theorem Warp.setM_trpPc (w : Warp) (r : MReg) (v : Word32) : (w.setM r v).trpPc = w.trpPc := by unfold Warp.setM; split <;> rfl
@[simp] theorem Warp.setM_trpCause (w : Warp) (r : MReg) (v : Word32) : (w.setM r v).trpCause = w.trpCause := by unfold Warp.setM; split <;> rfl
@[simp] theorem Warp.setM_trpAddr (w : Warp) (r : MReg) (v : Word32) : (w.setM r v).trpAddr = w.trpAddr := by unfold Warp.setM; split <;> rfl
@[simp] theorem Warp.setM_trpLanes (w : Warp) (r : MReg) (v : Word32) : (w.setM r v).trpLanes = w.trpLanes := by unfold Warp.setM; split <;> rfl
@[simp] theorem Warp.setM_tl (w : Warp) (r : MReg) (v : Word32) : (w.setM r v).tl = w.tl := by unfold Warp.setM; split <;> rfl
@[simp] theorem Warp.setM_regpc (w : Warp) (r : MReg) (v : Word32) : (w.setM r v).regpc = w.regpc := by unfold Warp.setM; split <;> rfl
@[simp] theorem Warp.setM_rcnt (w : Warp) (r : MReg) (v : Word32) : (w.setM r v).rcnt = w.rcnt := by unfold Warp.setM; split <;> rfl
@[simp] theorem Warp.setM_pend (w : Warp) (r : MReg) (v : Word32) : (w.setM r v).pend = w.pend := by unfold Warp.setM; split <;> rfl
@[simp] theorem Warp.setM_batches (w : Warp) (r : MReg) (v : Word32) : (w.setM r v).batches = w.batches := by unfold Warp.setM; split <;> rfl
@[simp] theorem Warp.setM_nbatch (w : Warp) (r : MReg) (v : Word32) : (w.setM r v).nbatch = w.nbatch := by unfold Warp.setM; split <;> rfl
@[simp] theorem Warp.setM_fseq (w : Warp) (r : MReg) (v : Word32) : (w.setM r v).fseq = w.fseq := by unfold Warp.setM; split <;> rfl
@[simp] theorem Warp.setM_fnext (w : Warp) (r : MReg) (v : Word32) : (w.setM r v).fnext = w.fnext := by unfold Warp.setM; split <;> rfl
@[simp] theorem Warp.setM_fcause (w : Warp) (r : MReg) (v : Word32) : (w.setM r v).fcause = w.fcause := by unfold Warp.setM; split <;> rfl
@[simp] theorem Warp.setM_pause (w : Warp) (r : MReg) (v : Word32) : (w.setM r v).pause = w.pause := by unfold Warp.setM; split <;> rfl
@[simp] theorem Warp.setM_wait (w : Warp) (r : MReg) (v : Word32) : (w.setM r v).wait = w.wait := by unfold Warp.setM; split <;> rfl
@[simp] theorem Warp.setM_mid (w : Warp) (r : MReg) (v : Word32) : (w.setM r v).mid = w.mid := by unfold Warp.setM; split <;> rfl
@[simp] theorem Warp.setM_hold (w : Warp) (r : MReg) (v : Word32) : (w.setM r v).hold = w.hold := by unfold Warp.setM; split <;> rfl
@[simp] theorem Warp.setM_reply (w : Warp) (r : MReg) (v : Word32) : (w.setM r v).reply = w.reply := by unfold Warp.setM; split <;> rfl
@[simp] theorem Warp.setM_bars (w : Warp) (r : MReg) (v : Word32) : (w.setM r v).bars = w.bars := by unfold Warp.setM; split <;> rfl
@[simp] theorem Warp.setM_rob (w : Warp) (r : MReg) (v : Word32) : (w.setM r v).rob = w.rob := by unfold Warp.setM; split <;> rfl
@[simp] theorem Warp.setM_fpc (w : Warp) (r : MReg) (v : Word32) : (w.setM r v).fpc = w.fpc := by unfold Warp.setM; split <;> rfl

/-! ## `Warp.flagsOf` -/

@[simp] theorem Warp.flagsOf_wid {k : Nat} (w : Warp) (r : SRes k) : (w.flagsOf r).wid = w.wid := rfl
@[simp] theorem Warp.flagsOf_st {k : Nat} (w : Warp) (r : SRes k) : (w.flagsOf r).st = w.st := rfl
@[simp] theorem Warp.flagsOf_back {k : Nat} (w : Warp) (r : SRes k) : (w.flagsOf r).back = w.back := rfl
@[simp] theorem Warp.flagsOf_sback {k : Nat} (w : Warp) (r : SRes k) : (w.flagsOf r).sback = w.sback := rfl
@[simp] theorem Warp.flagsOf_part {k : Nat} (w : Warp) (r : SRes k) : (w.flagsOf r).part = w.part := rfl
@[simp] theorem Warp.flagsOf_ctx {k : Nat} (w : Warp) (r : SRes k) : (w.flagsOf r).ctx = w.ctx := rfl
@[simp] theorem Warp.flagsOf_asid {k : Nat} (w : Warp) (r : SRes k) : (w.flagsOf r).asid = w.asid := rfl
@[simp] theorem Warp.flagsOf_core {k : Nat} (w : Warp) (r : SRes k) : (w.flagsOf r).core = w.core := rfl
@[simp] theorem Warp.flagsOf_sub {k : Nat} (w : Warp) (r : SRes k) : (w.flagsOf r).sub = w.sub := rfl
@[simp] theorem Warp.flagsOf_slot {k : Nat} (w : Warp) (r : SRes k) : (w.flagsOf r).slot = w.slot := rfl
@[simp] theorem Warp.flagsOf_launch {k : Nat} (w : Warp) (r : SRes k) : (w.flagsOf r).launch = w.launch := rfl
@[simp] theorem Warp.flagsOf_posted {k : Nat} (w : Warp) (r : SRes k) : (w.flagsOf r).posted = w.posted := rfl
@[simp] theorem Warp.flagsOf_wgid {k : Nat} (w : Warp) (r : SRes k) : (w.flagsOf r).wgid = w.wgid := rfl
@[simp] theorem Warp.flagsOf_widx {k : Nat} (w : Warp) (r : SRes k) : (w.flagsOf r).widx = w.widx := rfl
@[simp] theorem Warp.flagsOf_harvest {k : Nat} (w : Warp) (r : SRes k) : (w.flagsOf r).harvest = w.harvest := rfl
@[simp] theorem Warp.flagsOf_cls {k : Nat} (w : Warp) (r : SRes k) : (w.flagsOf r).cls = w.cls := rfl
@[simp] theorem Warp.flagsOf_age {k : Nat} (w : Warp) (r : SRes k) : (w.flagsOf r).age = w.age := rfl
@[simp] theorem Warp.flagsOf_since {k : Nat} (w : Warp) (r : SRes k) : (w.flagsOf r).since = w.since := rfl
@[simp] theorem Warp.flagsOf_promo {k : Nat} (w : Warp) (r : SRes k) : (w.flagsOf r).promo = w.promo := rfl
@[simp] theorem Warp.flagsOf_g16 {k : Nat} (w : Warp) (r : SRes k) : (w.flagsOf r).g16 = w.g16 := rfl
@[simp] theorem Warp.flagsOf_chk {k : Nat} (w : Warp) (r : SRes k) : (w.flagsOf r).chk = w.chk := rfl
@[simp] theorem Warp.flagsOf_tvec {k : Nat} (w : Warp) (r : SRes k) : (w.flagsOf r).tvec = w.tvec := rfl
@[simp] theorem Warp.flagsOf_ten {k : Nat} (w : Warp) (r : SRes k) : (w.flagsOf r).ten = w.ten := rfl
@[simp] theorem Warp.flagsOf_prog {k : Nat} (w : Warp) (r : SRes k) : (w.flagsOf r).prog = w.prog := rfl
@[simp] theorem Warp.flagsOf_blv {k : Nat} (w : Warp) (r : SRes k) : (w.flagsOf r).blv = w.blv := rfl
@[simp] theorem Warp.flagsOf_warps {k : Nat} (w : Warp) (r : SRes k) : (w.flagsOf r).warps = w.warps := rfl
@[simp] theorem Warp.flagsOf_pc {k : Nat} (w : Warp) (r : SRes k) : (w.flagsOf r).pc = w.pc := rfl
@[simp] theorem Warp.flagsOf_sr {k : Nat} (w : Warp) (r : SRes k) : (w.flagsOf r).sr = w.sr := rfl
@[simp] theorem Warp.flagsOf_mr {k : Nat} (w : Warp) (r : SRes k) : (w.flagsOf r).mr = w.mr := rfl
@[simp] theorem Warp.flagsOf_qr {k : Nat} (w : Warp) (r : SRes k) : (w.flagsOf r).qr = w.qr := rfl
@[simp] theorem Warp.flagsOf_img {k : Nat} (w : Warp) (r : SRes k) : (w.flagsOf r).img = w.img := rfl
@[simp] theorem Warp.flagsOf_imgIx {k : Nat} (w : Warp) (r : SRes k) : (w.flagsOf r).imgIx = w.imgIx := rfl
@[simp] theorem Warp.flagsOf_wres {k : Nat} (w : Warp) (r : SRes k) : (w.flagsOf r).wres = w.wres := rfl
@[simp] theorem Warp.flagsOf_depth {k : Nat} (w : Warp) (r : SRes k) : (w.flagsOf r).depth = w.depth := rfl
@[simp] theorem Warp.flagsOf_wbo {k : Nat} (w : Warp) (r : SRes k) : (w.flagsOf r).wbo = w.wbo := rfl
@[simp] theorem Warp.flagsOf_vv {k : Nat} (w : Warp) (r : SRes k) : (w.flagsOf r).vv = w.vv := rfl
@[simp] theorem Warp.flagsOf_vt {k : Nat} (w : Warp) (r : SRes k) : (w.flagsOf r).vt = w.vt := rfl
@[simp] theorem Warp.flagsOf_va {k : Nat} (w : Warp) (r : SRes k) : (w.flagsOf r).va = w.va := rfl
@[simp] theorem Warp.flagsOf_ql {k : Nat} (w : Warp) (r : SRes k) : (w.flagsOf r).ql = w.ql := rfl
@[simp] theorem Warp.flagsOf_shed {k : Nat} (w : Warp) (r : SRes k) : (w.flagsOf r).shed = w.shed := rfl
@[simp] theorem Warp.flagsOf_lines {k : Nat} (w : Warp) (r : SRes k) : (w.flagsOf r).lines = w.lines := rfl
@[simp] theorem Warp.flagsOf_kennel {k : Nat} (w : Warp) (r : SRes k) : (w.flagsOf r).kennel = w.kennel := rfl
@[simp] theorem Warp.flagsOf_fmode {k : Nat} (w : Warp) (r : SRes k) : (w.flagsOf r).fmode = w.fmode := rfl
@[simp] theorem Warp.flagsOf_trpPc {k : Nat} (w : Warp) (r : SRes k) : (w.flagsOf r).trpPc = w.trpPc := rfl
@[simp] theorem Warp.flagsOf_trpCause {k : Nat} (w : Warp) (r : SRes k) : (w.flagsOf r).trpCause = w.trpCause := rfl
@[simp] theorem Warp.flagsOf_trpAddr {k : Nat} (w : Warp) (r : SRes k) : (w.flagsOf r).trpAddr = w.trpAddr := rfl
@[simp] theorem Warp.flagsOf_trpLanes {k : Nat} (w : Warp) (r : SRes k) : (w.flagsOf r).trpLanes = w.trpLanes := rfl
@[simp] theorem Warp.flagsOf_tl {k : Nat} (w : Warp) (r : SRes k) : (w.flagsOf r).tl = w.tl := rfl
@[simp] theorem Warp.flagsOf_regpc {k : Nat} (w : Warp) (r : SRes k) : (w.flagsOf r).regpc = w.regpc := rfl
@[simp] theorem Warp.flagsOf_rcnt {k : Nat} (w : Warp) (r : SRes k) : (w.flagsOf r).rcnt = w.rcnt := rfl
@[simp] theorem Warp.flagsOf_pend {k : Nat} (w : Warp) (r : SRes k) : (w.flagsOf r).pend = w.pend := rfl
@[simp] theorem Warp.flagsOf_batches {k : Nat} (w : Warp) (r : SRes k) : (w.flagsOf r).batches = w.batches := rfl
@[simp] theorem Warp.flagsOf_nbatch {k : Nat} (w : Warp) (r : SRes k) : (w.flagsOf r).nbatch = w.nbatch := rfl
@[simp] theorem Warp.flagsOf_fseq {k : Nat} (w : Warp) (r : SRes k) : (w.flagsOf r).fseq = w.fseq := rfl
@[simp] theorem Warp.flagsOf_fnext {k : Nat} (w : Warp) (r : SRes k) : (w.flagsOf r).fnext = w.fnext := rfl
@[simp] theorem Warp.flagsOf_fcause {k : Nat} (w : Warp) (r : SRes k) : (w.flagsOf r).fcause = w.fcause := rfl
@[simp] theorem Warp.flagsOf_pause {k : Nat} (w : Warp) (r : SRes k) : (w.flagsOf r).pause = w.pause := rfl
@[simp] theorem Warp.flagsOf_wait {k : Nat} (w : Warp) (r : SRes k) : (w.flagsOf r).wait = w.wait := rfl
@[simp] theorem Warp.flagsOf_mid {k : Nat} (w : Warp) (r : SRes k) : (w.flagsOf r).mid = w.mid := rfl
@[simp] theorem Warp.flagsOf_hold {k : Nat} (w : Warp) (r : SRes k) : (w.flagsOf r).hold = w.hold := rfl
@[simp] theorem Warp.flagsOf_reply {k : Nat} (w : Warp) (r : SRes k) : (w.flagsOf r).reply = w.reply := rfl
@[simp] theorem Warp.flagsOf_bars {k : Nat} (w : Warp) (r : SRes k) : (w.flagsOf r).bars = w.bars := rfl
@[simp] theorem Warp.flagsOf_rob {k : Nat} (w : Warp) (r : SRes k) : (w.flagsOf r).rob = w.rob := rfl
@[simp] theorem Warp.flagsOf_fpc {k : Nat} (w : Warp) (r : SRes k) : (w.flagsOf r).fpc = w.fpc := rfl

/-! ## The fields an update writes -/

@[simp] theorem Warp.goTo_pc (w : Warp) (x : Word) : (w.goTo x).pc = x := rfl
@[simp] theorem Warp.retire_pc (w : Warp) : w.retire.pc = nextSlot w.pc := rfl
@[simp] theorem Warp.retireRegion_pc (w : Warp) (x : Word) : (w.retireRegion x).pc = x := rfl
@[simp] theorem Warp.retireRegion_regpc (w : Warp) (x : Word) : (w.retireRegion x).regpc = x := rfl
@[simp] theorem Warp.retireRegion_rcnt (w : Warp) (x : Word) : (w.retireRegion x).rcnt = 0 := rfl
@[simp] theorem Warp.enter_pc (w : Warp) (t : Trap) : (w.enter t).pc = w.tvec := rfl
@[simp] theorem Warp.enter_tl (w : Warp) (t : Trap) : (w.enter t).tl = true := rfl
@[simp] theorem Warp.enter_trpPc (w : Warp) (t : Trap) : (w.enter t).trpPc = w.pc := rfl
@[simp] theorem Warp.goTo_hold (w : Warp) (x : Word) : (w.goTo x).hold = none := rfl
@[simp] theorem Warp.flagsOf_z {k : Nat} (w : Warp) (r : SRes k) : (w.flagsOf r).z = (r.val == 0#k) := rfl
@[simp] theorem Warp.flagsOf_n {k : Nat} (w : Warp) (r : SRes k) : (w.flagsOf r).n = r.val.msb := rfl
@[simp] theorem Warp.flagsOf_c {k : Nat} (w : Warp) (r : SRes k) : (w.flagsOf r).c = r.c := rfl
@[simp] theorem Warp.flagsOf_v {k : Nat} (w : Warp) (r : SRes k) : (w.flagsOf r).v = r.v := rfl


/-! ## `Warp.used` -/

/-- What a use of one line keeps, uses of several keep. -/
theorem Warp.foldl_touch {α : Type} (f : Warp → α) (h : ∀ w i, f (Warp.touch w i) = f w) : ∀ (is : List Nat) (w : Warp), f (is.foldl Warp.touch w) = f w
  | [], _ => rfl
  | i :: is, w => by rw [List.foldl_cons, Warp.foldl_touch f h is, h]

@[simp] theorem Warp.used_wid (w : Warp) (rs : List Span) : (w.used rs).wid = w.wid := Warp.foldl_touch (fun w => w.wid) (fun w i => Warp.touch_wid w i) _ w
@[simp] theorem Warp.used_st (w : Warp) (rs : List Span) : (w.used rs).st = w.st := Warp.foldl_touch (fun w => w.st) (fun w i => Warp.touch_st w i) _ w
@[simp] theorem Warp.used_back (w : Warp) (rs : List Span) : (w.used rs).back = w.back := Warp.foldl_touch (fun w => w.back) (fun w i => Warp.touch_back w i) _ w
@[simp] theorem Warp.used_sback (w : Warp) (rs : List Span) : (w.used rs).sback = w.sback := Warp.foldl_touch (fun w => w.sback) (fun w i => Warp.touch_sback w i) _ w
@[simp] theorem Warp.used_part (w : Warp) (rs : List Span) : (w.used rs).part = w.part := Warp.foldl_touch (fun w => w.part) (fun w i => Warp.touch_part w i) _ w
@[simp] theorem Warp.used_ctx (w : Warp) (rs : List Span) : (w.used rs).ctx = w.ctx := Warp.foldl_touch (fun w => w.ctx) (fun w i => Warp.touch_ctx w i) _ w
@[simp] theorem Warp.used_asid (w : Warp) (rs : List Span) : (w.used rs).asid = w.asid := Warp.foldl_touch (fun w => w.asid) (fun w i => Warp.touch_asid w i) _ w
@[simp] theorem Warp.used_core (w : Warp) (rs : List Span) : (w.used rs).core = w.core := Warp.foldl_touch (fun w => w.core) (fun w i => Warp.touch_core w i) _ w
@[simp] theorem Warp.used_sub (w : Warp) (rs : List Span) : (w.used rs).sub = w.sub := Warp.foldl_touch (fun w => w.sub) (fun w i => Warp.touch_sub w i) _ w
@[simp] theorem Warp.used_slot (w : Warp) (rs : List Span) : (w.used rs).slot = w.slot := Warp.foldl_touch (fun w => w.slot) (fun w i => Warp.touch_slot w i) _ w
@[simp] theorem Warp.used_launch (w : Warp) (rs : List Span) : (w.used rs).launch = w.launch := Warp.foldl_touch (fun w => w.launch) (fun w i => Warp.touch_launch w i) _ w
@[simp] theorem Warp.used_posted (w : Warp) (rs : List Span) : (w.used rs).posted = w.posted := Warp.foldl_touch (fun w => w.posted) (fun w i => Warp.touch_posted w i) _ w
@[simp] theorem Warp.used_wgid (w : Warp) (rs : List Span) : (w.used rs).wgid = w.wgid := Warp.foldl_touch (fun w => w.wgid) (fun w i => Warp.touch_wgid w i) _ w
@[simp] theorem Warp.used_widx (w : Warp) (rs : List Span) : (w.used rs).widx = w.widx := Warp.foldl_touch (fun w => w.widx) (fun w i => Warp.touch_widx w i) _ w
@[simp] theorem Warp.used_harvest (w : Warp) (rs : List Span) : (w.used rs).harvest = w.harvest := Warp.foldl_touch (fun w => w.harvest) (fun w i => Warp.touch_harvest w i) _ w
@[simp] theorem Warp.used_cls (w : Warp) (rs : List Span) : (w.used rs).cls = w.cls := Warp.foldl_touch (fun w => w.cls) (fun w i => Warp.touch_cls w i) _ w
@[simp] theorem Warp.used_age (w : Warp) (rs : List Span) : (w.used rs).age = w.age := Warp.foldl_touch (fun w => w.age) (fun w i => Warp.touch_age w i) _ w
@[simp] theorem Warp.used_since (w : Warp) (rs : List Span) : (w.used rs).since = w.since := Warp.foldl_touch (fun w => w.since) (fun w i => Warp.touch_since w i) _ w
@[simp] theorem Warp.used_promo (w : Warp) (rs : List Span) : (w.used rs).promo = w.promo := Warp.foldl_touch (fun w => w.promo) (fun w i => Warp.touch_promo w i) _ w
@[simp] theorem Warp.used_g16 (w : Warp) (rs : List Span) : (w.used rs).g16 = w.g16 := Warp.foldl_touch (fun w => w.g16) (fun w i => Warp.touch_g16 w i) _ w
@[simp] theorem Warp.used_chk (w : Warp) (rs : List Span) : (w.used rs).chk = w.chk := Warp.foldl_touch (fun w => w.chk) (fun w i => Warp.touch_chk w i) _ w
@[simp] theorem Warp.used_tvec (w : Warp) (rs : List Span) : (w.used rs).tvec = w.tvec := Warp.foldl_touch (fun w => w.tvec) (fun w i => Warp.touch_tvec w i) _ w
@[simp] theorem Warp.used_ten (w : Warp) (rs : List Span) : (w.used rs).ten = w.ten := Warp.foldl_touch (fun w => w.ten) (fun w i => Warp.touch_ten w i) _ w
@[simp] theorem Warp.used_prog (w : Warp) (rs : List Span) : (w.used rs).prog = w.prog := Warp.foldl_touch (fun w => w.prog) (fun w i => Warp.touch_prog w i) _ w
@[simp] theorem Warp.used_blv (w : Warp) (rs : List Span) : (w.used rs).blv = w.blv := Warp.foldl_touch (fun w => w.blv) (fun w i => Warp.touch_blv w i) _ w
@[simp] theorem Warp.used_warps (w : Warp) (rs : List Span) : (w.used rs).warps = w.warps := Warp.foldl_touch (fun w => w.warps) (fun w i => Warp.touch_warps w i) _ w
@[simp] theorem Warp.used_pc (w : Warp) (rs : List Span) : (w.used rs).pc = w.pc := Warp.foldl_touch (fun w => w.pc) (fun w i => Warp.touch_pc w i) _ w
@[simp] theorem Warp.used_sr (w : Warp) (rs : List Span) : (w.used rs).sr = w.sr := Warp.foldl_touch (fun w => w.sr) (fun w i => Warp.touch_sr w i) _ w
@[simp] theorem Warp.used_mr (w : Warp) (rs : List Span) : (w.used rs).mr = w.mr := Warp.foldl_touch (fun w => w.mr) (fun w i => Warp.touch_mr w i) _ w
@[simp] theorem Warp.used_qr (w : Warp) (rs : List Span) : (w.used rs).qr = w.qr := Warp.foldl_touch (fun w => w.qr) (fun w i => Warp.touch_qr w i) _ w
@[simp] theorem Warp.used_z (w : Warp) (rs : List Span) : (w.used rs).z = w.z := Warp.foldl_touch (fun w => w.z) (fun w i => Warp.touch_z w i) _ w
@[simp] theorem Warp.used_n (w : Warp) (rs : List Span) : (w.used rs).n = w.n := Warp.foldl_touch (fun w => w.n) (fun w i => Warp.touch_n w i) _ w
@[simp] theorem Warp.used_c (w : Warp) (rs : List Span) : (w.used rs).c = w.c := Warp.foldl_touch (fun w => w.c) (fun w i => Warp.touch_c w i) _ w
@[simp] theorem Warp.used_v (w : Warp) (rs : List Span) : (w.used rs).v = w.v := Warp.foldl_touch (fun w => w.v) (fun w i => Warp.touch_v w i) _ w
@[simp] theorem Warp.used_img (w : Warp) (rs : List Span) : (w.used rs).img = w.img := Warp.foldl_touch (fun w => w.img) (fun w i => Warp.touch_img w i) _ w
@[simp] theorem Warp.used_imgIx (w : Warp) (rs : List Span) : (w.used rs).imgIx = w.imgIx := Warp.foldl_touch (fun w => w.imgIx) (fun w i => Warp.touch_imgIx w i) _ w
@[simp] theorem Warp.used_wres (w : Warp) (rs : List Span) : (w.used rs).wres = w.wres := Warp.foldl_touch (fun w => w.wres) (fun w i => Warp.touch_wres w i) _ w
@[simp] theorem Warp.used_depth (w : Warp) (rs : List Span) : (w.used rs).depth = w.depth := Warp.foldl_touch (fun w => w.depth) (fun w i => Warp.touch_depth w i) _ w
@[simp] theorem Warp.used_wbo (w : Warp) (rs : List Span) : (w.used rs).wbo = w.wbo := Warp.foldl_touch (fun w => w.wbo) (fun w i => Warp.touch_wbo w i) _ w
@[simp] theorem Warp.used_vv (w : Warp) (rs : List Span) : (w.used rs).vv = w.vv := Warp.foldl_touch (fun w => w.vv) (fun w i => Warp.touch_vv w i) _ w
@[simp] theorem Warp.used_vt (w : Warp) (rs : List Span) : (w.used rs).vt = w.vt := Warp.foldl_touch (fun w => w.vt) (fun w i => Warp.touch_vt w i) _ w
@[simp] theorem Warp.used_va (w : Warp) (rs : List Span) : (w.used rs).va = w.va := Warp.foldl_touch (fun w => w.va) (fun w i => Warp.touch_va w i) _ w
@[simp] theorem Warp.used_ql (w : Warp) (rs : List Span) : (w.used rs).ql = w.ql := Warp.foldl_touch (fun w => w.ql) (fun w i => Warp.touch_ql w i) _ w
@[simp] theorem Warp.used_shed (w : Warp) (rs : List Span) : (w.used rs).shed = w.shed := Warp.foldl_touch (fun w => w.shed) (fun w i => Warp.touch_shed w i) _ w
@[simp] theorem Warp.used_kennel (w : Warp) (rs : List Span) : (w.used rs).kennel = w.kennel := Warp.foldl_touch (fun w => w.kennel) (fun w i => Warp.touch_kennel w i) _ w
@[simp] theorem Warp.used_fmode (w : Warp) (rs : List Span) : (w.used rs).fmode = w.fmode := Warp.foldl_touch (fun w => w.fmode) (fun w i => Warp.touch_fmode w i) _ w
@[simp] theorem Warp.used_trpPc (w : Warp) (rs : List Span) : (w.used rs).trpPc = w.trpPc := Warp.foldl_touch (fun w => w.trpPc) (fun w i => Warp.touch_trpPc w i) _ w
@[simp] theorem Warp.used_trpCause (w : Warp) (rs : List Span) : (w.used rs).trpCause = w.trpCause := Warp.foldl_touch (fun w => w.trpCause) (fun w i => Warp.touch_trpCause w i) _ w
@[simp] theorem Warp.used_trpAddr (w : Warp) (rs : List Span) : (w.used rs).trpAddr = w.trpAddr := Warp.foldl_touch (fun w => w.trpAddr) (fun w i => Warp.touch_trpAddr w i) _ w
@[simp] theorem Warp.used_trpLanes (w : Warp) (rs : List Span) : (w.used rs).trpLanes = w.trpLanes := Warp.foldl_touch (fun w => w.trpLanes) (fun w i => Warp.touch_trpLanes w i) _ w
@[simp] theorem Warp.used_tl (w : Warp) (rs : List Span) : (w.used rs).tl = w.tl := Warp.foldl_touch (fun w => w.tl) (fun w i => Warp.touch_tl w i) _ w
@[simp] theorem Warp.used_regpc (w : Warp) (rs : List Span) : (w.used rs).regpc = w.regpc := Warp.foldl_touch (fun w => w.regpc) (fun w i => Warp.touch_regpc w i) _ w
@[simp] theorem Warp.used_rcnt (w : Warp) (rs : List Span) : (w.used rs).rcnt = w.rcnt := Warp.foldl_touch (fun w => w.rcnt) (fun w i => Warp.touch_rcnt w i) _ w
@[simp] theorem Warp.used_pend (w : Warp) (rs : List Span) : (w.used rs).pend = w.pend := Warp.foldl_touch (fun w => w.pend) (fun w i => Warp.touch_pend w i) _ w
@[simp] theorem Warp.used_batches (w : Warp) (rs : List Span) : (w.used rs).batches = w.batches := Warp.foldl_touch (fun w => w.batches) (fun w i => Warp.touch_batches w i) _ w
@[simp] theorem Warp.used_nbatch (w : Warp) (rs : List Span) : (w.used rs).nbatch = w.nbatch := Warp.foldl_touch (fun w => w.nbatch) (fun w i => Warp.touch_nbatch w i) _ w
@[simp] theorem Warp.used_fseq (w : Warp) (rs : List Span) : (w.used rs).fseq = w.fseq := Warp.foldl_touch (fun w => w.fseq) (fun w i => Warp.touch_fseq w i) _ w
@[simp] theorem Warp.used_fnext (w : Warp) (rs : List Span) : (w.used rs).fnext = w.fnext := Warp.foldl_touch (fun w => w.fnext) (fun w i => Warp.touch_fnext w i) _ w
@[simp] theorem Warp.used_fcause (w : Warp) (rs : List Span) : (w.used rs).fcause = w.fcause := Warp.foldl_touch (fun w => w.fcause) (fun w i => Warp.touch_fcause w i) _ w
@[simp] theorem Warp.used_pause (w : Warp) (rs : List Span) : (w.used rs).pause = w.pause := Warp.foldl_touch (fun w => w.pause) (fun w i => Warp.touch_pause w i) _ w
@[simp] theorem Warp.used_wait (w : Warp) (rs : List Span) : (w.used rs).wait = w.wait := Warp.foldl_touch (fun w => w.wait) (fun w i => Warp.touch_wait w i) _ w
@[simp] theorem Warp.used_mid (w : Warp) (rs : List Span) : (w.used rs).mid = w.mid := Warp.foldl_touch (fun w => w.mid) (fun w i => Warp.touch_mid w i) _ w
@[simp] theorem Warp.used_hold (w : Warp) (rs : List Span) : (w.used rs).hold = w.hold := Warp.foldl_touch (fun w => w.hold) (fun w i => Warp.touch_hold w i) _ w
@[simp] theorem Warp.used_reply (w : Warp) (rs : List Span) : (w.used rs).reply = w.reply := Warp.foldl_touch (fun w => w.reply) (fun w i => Warp.touch_reply w i) _ w
@[simp] theorem Warp.used_bars (w : Warp) (rs : List Span) : (w.used rs).bars = w.bars := Warp.foldl_touch (fun w => w.bars) (fun w i => Warp.touch_bars w i) _ w
@[simp] theorem Warp.used_rob (w : Warp) (rs : List Span) : (w.used rs).rob = w.rob := Warp.foldl_touch (fun w => w.rob) (fun w i => Warp.touch_rob w i) _ w
@[simp] theorem Warp.used_fpc (w : Warp) (rs : List Span) : (w.used rs).fpc = w.fpc := Warp.foldl_touch (fun w => w.fpc) (fun w i => Warp.touch_fpc w i) _ w

end Sys2Proof.Machine
end

