-- ==== Sys2Proof/Laws/Ops.lean ====
section
/-!
SUPPORT. What the shared operations can do: running with the warp that executes, retirement, register operands in the window, traps, and
the steps of other agents.
-/

namespace Sys2Proof.Machine

/-! ## The warp that executes -/

theorem State.executes_warp {s : State} {w : Warp} (h : s.Executes w) : s.warp? w.wid = some w := by
  unfold State.Executes State.curWarp at h
  cases hc : s.cur with
  | none => rw [hc] at h; cases h
  | some k =>
    rw [hc] at h
    simp only [Option.bind_some] at h
    have hk : w.wid = k := by
      have := List.find?_some h
      simpa using this
    rw [hk]; exact h

/-- A step that leaves the mark of a read that must wait as it was has no such read. -/
theorem State.stalled_same {s t : State} (h : t.stall = s.stall) : s.stalled t = none := by
  unfold State.stalled
  rw [h]
  cases hs : s.stall <;> rfl

/-- In a state in which it executes, and no read waits, a warp goes on. -/
theorem State.executes_goesOn {s t : State} {w : Warp} (h : t.Executes w) (ht : t.stall = s.stall) : s.GoesOn t w := by
  refine ⟨State.stalled_same ht, ?_⟩
  rw [State.executes_warp h]
  simp only [Option.any_some]
  cases w.st <;> rfl

/-- What an instruction leaves when no read of it must wait. -/
theorem State.finish_of {s t : State} {w : Warp} (h : s.stalled t = none) : s.finish w t = t := by
  unfold State.finish
  rw [h]

/-- What a step of another agent leaves when no read of it must wait. -/
theorem State.tried_of {s t : State} (h : s.stalled t = none) : s.tried t = t := by
  unfold State.tried
  rw [h]

theorem State.tried_same {s t : State} (h : t.stall = s.stall) : s.tried t = t := State.tried_of (State.stalled_same h)

@[simp] theorem withWarp_of {s : State} {w : Warp} (h : s.Executes w) (f : Warp → Out) : withWarp s f = f w := by
  unfold withWarp
  rw [show s.curWarp = some w from h]

theorem warpOp_of {s : State} {w : Warp} (h : s.Executes w) (f : Warp → Warp) : warpOp f s = .next (s.setWarp (f w).retire) := by
  unfold warpOp
  rw [withWarp_of h]

/-- Without a warp that executes, an instruction of a warp is no step. -/
theorem withWarp_none {s : State} (h : s.curWarp = none) (f : Warp → Out) : withWarp s f = .fault .noWarp := by
  unfold withWarp
  rw [h]

/-! ## Actions on the state -/

@[simp] theorem SM.run_bind {α β : Type} (m : SM α) (f : α → SM β) (s : State) :
    StateT.run (m >>= f) s = StateT.run (f (StateT.run m s).1) (StateT.run m s).2 := rfl
@[simp] theorem SM.run_pure {α : Type} (a : α) (s : State) : StateT.run (pure a : SM α) s = (a, s) := rfl
@[simp] theorem SM.run_get (s : State) : StateT.run (get : SM State) s = (s, s) := rfl
@[simp] theorem SM.run_set (t s : State) : StateT.run (set t : SM PUnit) s = (⟨⟩, t) := rfl
@[simp] theorem SM.run_modify (f : State → State) (s : State) : StateT.run (modify f : SM PUnit) s = (⟨⟩, f s) := rfl

/-! ## Actions that may trap -/

/-- An action that ends without a trap: the warp as it leaves it replaces the one that ran. -/
theorem runM_ok {s s' : State} {w w' : Warp} {m : M Warp} (h : m.run.run s = (.ok w', s')) (hs : s.GoesOn s' w) :
    runM w m s = .next (s'.setWarp w') := by
  unfold runM
  rw [h]
  simp only
  rw [if_neg (by rw [hs.2]; decide), State.finish_of (t := s'.setWarp w') hs.1]

/-- An action that ends with a trap: the warp takes it. -/
theorem runM_error {s s' : State} {w : Warp} {m : M Warp} {t : Trap} (h : m.run.run s = (.error t, s')) (hs : s.GoesOn s' w) :
    runM w m s = trapIn s s' w t := by
  unfold runM trapIn
  rw [h]
  simp only
  rw [if_neg (by rw [hs.2]; decide)]

/-- An action of a warp always answers a next state. -/
theorem runM_next (w : Warp) (m : M Warp) (s : State) : ∃ t, runM w m s = .next t := by
  unfold runM
  exact ⟨_, rfl⟩

@[simp] theorem M.run_pure {α : Type} (a : α) (s : State) : (pure a : M α).run.run s = (.ok a, s) := rfl
@[simp] theorem M.run_throw {α : Type} (t : Trap) (s : State) : (throw t : M α).run.run s = (.error t, s) := rfl
@[simp] theorem M.run_get (s : State) : (get : M State).run.run s = (.ok s, s) := rfl
@[simp] theorem M.run_modify (f : State → State) (s : State) : (modify f : M PUnit).run.run s = (.ok ⟨⟩, f s) := rfl
@[simp] theorem M.run_lift {α : Type} (m : SM α) (s : State) : (monadLift m : M α).run.run s = (.ok (m.run s).1, (m.run s).2) := rfl

/-- What follows an action that answers runs in the state it leaves. -/
theorem M.run_bind_ok {α β : Type} {m : M α} {f : α → M β} {s s' : State} {a : α} (h : m.run.run s = (.ok a, s')) :
    (m >>= f).run.run s = (f a).run.run s' := by
  show (ExceptT.bind m f).run.run s = _
  unfold ExceptT.bind ExceptT.mk
  have h' : (m.run : SM _).run s = (.ok a, s') := h
  show ((m.run : SM _) >>= ExceptT.bindCont f).run s = _
  rw [StateT.run_bind, h']
  rfl

/-- An action that traps ends what follows it. -/
theorem M.run_bind_error {α β : Type} {m : M α} {f : α → M β} {s s' : State} {t : Trap} (h : m.run.run s = (.error t, s')) :
    (m >>= f).run.run s = (.error t, s') := by
  show (ExceptT.bind m f).run.run s = _
  unfold ExceptT.bind ExceptT.mk
  have h' : (m.run : SM _).run s = (.error t, s') := h
  show ((m.run : SM _) >>= ExceptT.bindCont f).run s = _
  rw [StateT.run_bind, h']
  rfl

/-! ## Register operands -/

/-- A use of a line keeps which lines are held. -/
@[simp] theorem Warp.hasLine_touch (w : Warp) (i j : Nat) : (w.touch i).hasLine j = w.hasLine j := by
  unfold Warp.touch Warp.hasLine
  cases h : w.lines.find? (fun l => l.idx == i) with
  | none => rfl
  | some l =>
    have hl := List.mem_of_find?_eq_some h
    have hi : l.idx = i := by simpa using List.find?_some h
    rw [Bool.eq_iff_iff]
    simp only [List.any_cons, Bool.or_eq_true, List.any_eq_true, List.mem_filter]
    constructor
    · rintro (hj | ⟨x, ⟨hx, _⟩, hj⟩)
      · exact ⟨l, hl, hj⟩
      · exact ⟨x, hx, hj⟩
    · rintro ⟨x, hx, hj⟩
      by_cases hxi : x.idx = i
      · left; rw [hi, ← hxi]; exact hj
      · exact .inr ⟨x, ⟨hx, by simpa using hxi⟩, hj⟩

/-- A use of a line changes no byte of the window area. -/
@[simp] theorem Warp.line_touch (w : Warp) (i j : Nat) : (w.touch i).line j = w.line j := by
  unfold Warp.touch Warp.line
  cases h : w.lines.find? (fun l => l.idx == i) with
  | none => rfl
  | some l =>
    have hi : l.idx = i := by simpa using List.find?_some h
    dsimp only
    by_cases hj : j = i
    · subst hj
      rw [List.find?_cons_of_pos (by simpa using hi), h]
    · rw [List.find?_cons_of_neg (p := fun x : WLine => x.idx == j) (by simpa [hi] using fun e => hj e.symm), List.find?_filter]
      have : (fun a : WLine => decide ((!(a.idx == i)) = true ∧ (a.idx == j) = true)) = (fun a => a.idx == j) := by
        funext a
        by_cases ha : a.idx = j
        · simp [ha, hj]
        · simp [ha]
      rw [this]

@[simp] theorem Warp.inKennel_touch (w : Warp) (i j : Nat) : (w.touch i).inKennel j = w.inKennel j := by
  simp [Warp.inKennel]

/-- The uses of an instruction's operands change no byte of the window area. -/
@[simp] theorem Warp.line_used (w : Warp) (rs : List Span) (j : Nat) : (w.used rs).line j = w.line j :=
  Warp.foldl_touch (fun w => w.line j) (fun w i => Warp.line_touch w i j) _ w

theorem fillLine_held {w : Warp} {i : Nat} (h : w.hasLine i = true) (hk : w.inKennel i = false) : fillLine w i = pure (w.touch i) := by
  unfold fillLine
  rw [if_neg (by rw [hk]; decide), if_pos h]

theorem fillLines_held : ∀ {is : List Nat} {w : Warp}, is.all (fun i => w.hasLine i) = true → is.all (fun i => !w.inKennel i) = true →
    fillLines w is = pure (is.foldl Warp.touch w)
  | [], _, _, _ => rfl
  | i :: is, w, h, hk => by
    simp only [List.all_cons, Bool.and_eq_true, Bool.not_eq_true'] at h hk
    unfold fillLines
    rw [fillLine_held h.1 hk.1]
    simp only [pure_bind, List.foldl_cons]
    exact fillLines_held (by simpa using h.2) (by simpa using hk.2)

/-- A line that the Kennel does not hold does not return from it. -/
theorem Warp.fromKennel_absent {w : Warp} {i : Nat} (h : w.inKennel i = false) : w.fromKennel i = w := by
  unfold Warp.fromKennel
  have : w.kennel.find? (fun l => l.idx == i) = none := by
    rw [List.find?_eq_none]
    intro l hl
    have := (List.any_eq_false.mp h) l hl
    simpa using this
  rw [this]

theorem Warp.foldl_fromKennel_absent {w : Warp} : ∀ {is : List Nat}, is.all (fun i => !w.inKennel i) = true → is.foldl Warp.fromKennel w = w
  | [], _ => rfl
  | i :: is, h => by
    simp only [List.all_cons, Bool.and_eq_true, Bool.not_eq_true'] at h
    rw [List.foldl_cons, Warp.fromKennel_absent h.1]
    exact Warp.foldl_fromKennel_absent h.2

/-- Register operands that stand in the register cache need nothing more: they count as used. -/
theorem needRegs_held {s : State} {w : Warp} {rs : List Span} (h : s.Holds w rs) : (needRegs w rs).run.run s = (.ok (w.used rs), s) := by
  obtain ⟨h1, h2, h3, h4⟩ := h
  rw [List.all_append, Bool.and_eq_true] at h4
  have hw : ¬(rs ≠ [] ∧ s.renameWaits w = true) := by
    rintro ⟨ha, hb⟩
    rcases h2 with h2 | h2
    · exact ha h2
    · rw [h2] at hb; cases hb
  unfold needRegs
  rw [if_neg (by rw [h1]; decide), M.run_bind_ok (M.run_get s), if_neg hw, Warp.foldl_fromKennel_absent h4.1, fillLines_held h3 h4.2]
  rfl

/-- Register operands outside the window trap with WINDOW (R51). -/
theorem needRegs_outside {w : Warp} {rs : List Span} (h : w.spansOK rs = false) : needRegs w rs = throw (trapOf 0x0E) := by
  unfold needRegs
  rw [if_pos (by rw [h]; decide)]

@[simp] theorem State.addCnt_cur (s : State) (w : Warp) (c : Cnt) : (s.addCnt w c).cur = s.cur := by
  unfold State.addCnt; split <;> rfl
@[simp] theorem State.addCnt_stall (s : State) (w : Warp) (c : Cnt) : (s.addCnt w c).stall = s.stall := by
  unfold State.addCnt; split <;> rfl
@[simp] theorem State.addCnt_warps (s : State) (w : Warp) (c : Cnt) : (s.addCnt w c).warps = s.warps := by
  unfold State.addCnt; split <;> rfl
/-- No count leaves the statistics as they are. -/
@[simp] theorem State.addCnt_none (s : State) (w : Warp) (t : Nat) : s.addCnt w { tid := t } = s := by
  unfold State.addCnt
  rw [if_pos ⟨rfl, rfl, rfl⟩]

theorem State.executes_addCnt {s : State} {w : Warp} (h : s.Executes w) (v : Warp) (c : Cnt) : (s.addCnt v c).Executes w := by
  unfold State.Executes State.curWarp State.warp? at *
  simpa using h

/-- Counts go to the warp's context and core, which a use of its lines does not change. -/
@[simp] theorem State.addCnt_used (s : State) (w : Warp) (rs : List Span) (c : Cnt) : s.addCnt (w.used rs) c = s.addCnt w c := by
  simp [State.addCnt]

/-- An instruction on register operands that stand in the register cache: its counts are added, and the warp as it leaves it replaces
the one that ran. -/
theorem regOp_of {s : State} {w w' : Warp} {c : Cnt} {rs : Warp → List Span} {f : Warp → Except Trap (Warp × Cnt)}
    (h : s.Executes w) (hr : s.Holds w (rs w)) (hf : f (w.used (rs w)) = .ok (w', c)) :
    regOp rs f s = .next ((s.addCnt w c).setWarp w'.retire) := by
  unfold regOp
  rw [withWarp_of h]
  refine runM_ok ?_ (State.executes_goesOn (State.executes_addCnt h w c) (by simp))
  rw [M.run_bind_ok (needRegs_held hr)]
  simp only [hf]
  rw [← State.addCnt_used s w (rs w) c]
  rfl

/-- An instruction on register operands that its effect refuses: the warp takes the trap. -/
theorem regOp_error {s : State} {w : Warp} {t : Trap} {rs : Warp → List Span} {f : Warp → Except Trap (Warp × Cnt)}
    (h : s.Executes w) (hr : s.Holds w (rs w)) (hf : f (w.used (rs w)) = .error t) : regOp rs f s = trapTo s w t := by
  unfold regOp
  rw [withWarp_of h]
  refine runM_error ?_ (State.executes_goesOn h rfl)
  rw [M.run_bind_ok (needRegs_held hr)]
  simp only [hf]
  rfl

/-- Register operands outside the window: the warp takes WINDOW. -/
theorem regOp_window {s : State} {w : Warp} {rs : Warp → List Span} {f : Warp → Except Trap (Warp × Cnt)}
    (h : s.Executes w) (hr : w.spansOK (rs w) = false) : regOp rs f s = trapTo s w (trapOf 0x0E) := by
  unfold regOp
  rw [withWarp_of h]
  refine runM_error ?_ (State.executes_goesOn h rfl)
  rw [needRegs_outside hr]
  rfl

/-! ## Steps of other agents -/

/-- A step that is enabled in a powered module. -/
theorem event_some {s : State} (h : s.plat.on = true) (f : SM Unit) : event s (some f) = after f s := by
  unfold event
  rw [h]
  rfl

/-- A step that the spec does not have in the state. -/
theorem event_none {s : State} (h : s.plat.on = true) : event s none = .fault .notEnabled := by
  unfold event
  rw [h]

/-- No step of an agent without power. -/
theorem event_off {s : State} (h : s.plat.on = false) (m : Option (SM Unit)) : event s m = .fault .powerOff := by
  unfold event
  rw [h]

theorem eventIf_true {s : State} {c : Bool} (h : s.plat.on = true) (hc : c = true) (f : SM Unit) :
    eventIf s c f = after f s := by
  unfold eventIf
  rw [hc, if_pos rfl]
  exact event_some h f

theorem eventIf_false {s : State} {c : Bool} (h : s.plat.on = true) (hc : c = false) (f : SM Unit) :
    eventIf s c f = .fault .notEnabled := by
  unfold eventIf
  rw [hc, if_neg (by decide)]
  exact event_none h

end Sys2Proof.Machine
end

