-- ==== Sys2Proof/Laws/L1.lean ====
section
/-!
SUPPORT. What an access to a line that the L1 holds does.
-/

namespace Sys2Proof.Machine

theorem tget_tset_same {α : Type} (t : List (Nat × α)) (k : Nat) (v d : α) : tget (tset t k v) k d = v := by
  simp [tget, tset]

theorem tget_tset_other {α : Type} (t : List (Nat × α)) (j k : Nat) (v d : α) (h : j ≠ k) : tget (tset t k v) j d = tget t j d := by
  unfold tget tset
  rw [List.find?_cons_of_neg (by simpa using fun e => h e.symm), List.find?_filter]
  have : (fun a : Nat × α => decide ((!(a.1 == k)) = true ∧ (a.1 == j) = true)) = (fun e => e.1 == j) := by
    funext a
    by_cases hj : a.1 = j
    · simp [hj, h]
    · simp [hj]
  rw [this]

@[simp] theorem State.core_updCore_same (s : State) (k : Nat) (f : Core → Core) : (s.updCore k f).core k = f (s.core k) :=
  tget_tset_same _ _ _ _

theorem State.core_updCore_other (s : State) (j k : Nat) (f : Core → Core) (h : j ≠ k) : (s.updCore k f).core j = s.core j :=
  tget_tset_other _ _ _ _ _ h

/-- The line of a core's L1 after one of them was touched. -/
theorem State.l1Line_touchL1 (s : State) (core c : Nat) (l : L1Line) (k : LineKey) :
    (s.touchL1 core l).l1Line c k = if c = core ∧ k = l.key then some l else s.l1Line c k := by
  unfold State.touchL1 State.l1Line
  by_cases hc : c = core
  · subst hc
    rw [State.core_updCore_same]
    by_cases hk : k = l.key
    · subst hk
      simp
    · have hne : (l.key == k) = false := by simpa using fun e => hk e.symm
      simp only [hk, and_false, if_false]
      rw [List.find?_cons_of_neg (by simp [hne]), List.find?_filter]
      congr 1
      funext x
      by_cases hx : x.key = k
      · simp [hx, hk]
      · simp [hx]
  · simp only [hc, false_and, if_false]
    rw [State.core_updCore_other _ _ _ _ hc]

/-- A permitted access to stored permissions changes nothing (R25). -/
theorem checkStored_ok (k : LineKey) (m : Perm) (a : Acc) (user : Bool) (h : m.check a user = 0) :
    checkStored k m a user = pure (.ok ()) := by
  unfold checkStored
  simp [h]

/-- A load or an atomic of bytes that the L1 holds, with no pin asked for: its line, and only the order of the L1 changes. -/
theorem loadLine_hit (s : State) (core : Nat) (k : LineKey) (need : LineMask) (a : Acc) (user : Bool) (lk : LoadKind) (l : L1Line)
    (hm : lk.mem = false) (hb : lk.beyond = false) (hpin : lk.pin = false) (hl : s.l1Line core k = some l) (hp : l.perm.check a user = 0)
    (ha : aperOf l.pa = none) (hn : need &&& ~~~l.valid = 0) :
    (loadLine core k need a user lk).run s = (.ok { data := l.data, poi := l.poi, aper := none }, s.touchL1 core l) := by
  have hs : l.served need false = true := by simp only [L1Line.served, ha]; simpa using hn
  have e : ({ l with pin := l.pin || s.l1Pin core k false } : L1Line) = l := by simp [State.l1Pin]
  unfold loadLine hitL1
  simp only [hm, Bool.false_eq_true, if_false, SM.run_bind, SM.run_get, hl, checkStored_ok k l.perm a user hp, SM.run_pure, hb, hs, ha,
    Option.getD_some, hpin, if_true, e]
  rfl

/-- A store of bytes of a line that the L1 holds with permission passes its check at once. -/
theorem probeLine_hit (s : State) (core : Nat) (k : LineKey) (a : Acc) (user : Bool) (l : L1Line) (hl : s.l1Line core k = some l)
    (hp : l.perm.check a user = 0) : (probeLine core k a user).run s = (.ok (aperOf l.pa), s) := by
  unfold probeLine
  simp only [SM.run_bind, SM.run_get, hl, checkStored_ok k l.perm a user hp, SM.run_pure]

/-- A store to a line of no aperture that the L1 holds with permission, not at the home: the bytes are valid and dirty there. -/
theorem storeLine_hit (s : State) (core : Nat) (k : LineKey) (mask : LineMask) (d : LineData) (user strm : Bool) (l : L1Line)
    (hl : s.l1Line core k = some l) (hp : l.perm.check .store user = 0) (ha : aperOf l.pa = none) :
    (storeLine core k mask d user false strm).run s = ((), s.touchL1 core
      { l with data := mergeLine mask l.data d, valid := l.valid ||| mask, dirty := l.dirty ||| mask,
               poi := l.poi && !(mask == BitVec.allOnes 128) }) := by
  unfold storeLine
  simp only [SM.run_bind, probeLine_hit s core k .store user l hl hp, SM.run_get, hl, ha]
  rfl

end Sys2Proof.Machine
end

