-- ==== Sys2Proof/Laws/Lines.lean ====
section
/-!
SUPPORT. Lines by their bits: byte masks and merges, lane words and lane masks.
-/

namespace Sys2Proof.Machine

/-- A bit of a union of shifted fields, as a search over the fields. -/
theorem foldl_or_getLsbD {N : Nat} (f : Nat → BitVec N) (i : Nat) : ∀ n : Nat,
    ((List.range n).foldl (fun acc k => acc ||| f k) (0 : BitVec N)).getLsbD i = (List.range n).any (fun k => (f k).getLsbD i)
  | 0 => by simp
  | n + 1 => by
    rw [List.range_succ, List.foldl_append, List.any_append]
    simp only [List.foldl_cons, List.foldl_nil, BitVec.getLsbD_or, List.any_cons, List.any_nil, Bool.or_false]
    rw [foldl_or_getLsbD f i n]

/-- A step that may add a field is a step that adds the field or nothing. -/
theorem foldl_or_ite {N : Nat} (p : Nat → Bool) (f : Nat → BitVec N) (n : Nat) :
    (List.range n).foldl (fun acc k => if p k then acc ||| f k else acc) (0 : BitVec N) =
      (List.range n).foldl (fun acc k => acc ||| (if p k then f k else 0)) 0 := by
  congr 1
  funext acc k
  split <;> simp

/-- A bit of a mask of bytes is the mask's bit of its byte. -/
theorem maskBits_getLsbD (m : LineMask) (i : Nat) (h : i < 1024) : (maskBits m).getLsbD i = m.getLsbD (i / 8) := by
  unfold maskBits
  rw [foldl_or_ite (fun k => m.getLsbD k) (fun k => 0xFF#1024 <<< (8 * k)), foldl_or_getLsbD]
  rw [Bool.eq_iff_iff, List.any_eq_true]
  constructor
  · rintro ⟨k, _, hk⟩
    by_cases hm : m.getLsbD k = true
    · rw [if_pos hm, BitVec.getLsbD_shiftLeft] at hk
      simp only [Bool.and_eq_true, decide_eq_true_eq, Bool.not_eq_true', decide_eq_false_iff_not] at hk
      have hlt : i - 8 * k < 8 := by
        rcases Nat.lt_or_ge (i - 8 * k) 8 with hlt | hge
        · exact hlt
        · exfalso
          have h0 : (0xFF#1024 : BitVec 1024).getLsbD (i - 8 * k) = false := by
            simp only [BitVec.getLsbD_ofNat, Bool.and_eq_false_iff]
            refine Or.inr (Nat.testBit_lt_two_pow (Nat.lt_of_lt_of_le (by decide : 0xFF < 2 ^ 8) (Nat.pow_le_pow_right (by decide) hge)))
          rw [h0] at hk; exact absurd hk.2 (by decide)
      have : i / 8 = k := by omega
      rw [this]; exact hm
    · rw [if_neg hm] at hk
      simp at hk
  · intro hm
    refine ⟨i / 8, by simp only [List.mem_range]; omega, ?_⟩
    rw [if_pos hm, BitVec.getLsbD_shiftLeft]
    have hs : i - 8 * (i / 8) = i % 8 := by omega
    have hb : (0xFF#1024 : BitVec 1024).getLsbD (i % 8) = true := by
      have hl : i % 8 < 8 := Nat.mod_lt _ (by decide)
      have : (0xFF : Nat) = 2 ^ 8 - 1 := by decide
      rw [BitVec.getLsbD_ofNat, this, Nat.testBit_two_pow_sub_one]
      simp only [hl, decide_true, Bool.and_true, decide_eq_true_eq]
      omega
    rw [hs, hb]
    simp only [Bool.and_true, Bool.and_eq_true, decide_eq_true_eq, Bool.not_eq_true', decide_eq_false_iff_not]
    omega

/-- A bit of a merge: the new line where the mask names its byte, else the old line. -/
theorem mergeLine_getLsbD (m : LineMask) (old new : LineData) (i : Nat) (h : i < 1024) :
    (mergeLine m old new).getLsbD i = if m.getLsbD (i / 8) then new.getLsbD i else old.getLsbD i := by
  unfold mergeLine
  by_cases hm : m = BitVec.allOnes 128
  · rw [if_pos hm, hm, BitVec.getLsbD_allOnes, if_pos (by simp; omega)]
  · rw [if_neg hm]
    simp only [BitVec.getLsbD_or, BitVec.getLsbD_and, BitVec.getLsbD_not, maskBits_getLsbD m i h]
    cases m.getLsbD (i / 8) <;> simp [h]

/-- A byte of a merge. -/
theorem byte_mergeLine (m : LineMask) (old new : LineData) (k : Nat) (h : k < 128) :
    LineData.byte (mergeLine m old new) k = if m.getLsbD k then LineData.byte new k else LineData.byte old k := by
  apply BitVec.eq_of_getLsbD_eq
  intro i hi
  unfold LineData.byte
  rw [BitVec.getLsbD_extractLsb', mergeLine_getLsbD _ _ _ _ (by omega)]
  have : (8 * k + i) / 8 = k := by omega
  rw [this]
  split <;> simp

/-- A bit of a span mask: the bytes from `k` on. -/
theorem spanMask_getLsbD (k n i : Nat) (h : i < 128) : (spanMask k n).getLsbD i = (decide (k ≤ i) && decide (i < k + n)) := by
  unfold spanMask
  rw [BitVec.getLsbD_shiftLeft]
  by_cases hk : i < k
  · have : ¬ k ≤ i := by omega
    simp [hk, this]
  · have hk' : k ≤ i := by omega
    simp only [hk, hk', h, BitVec.getLsbD_ofNat, decide_true, decide_false, Bool.not_false, Bool.true_and, Nat.testBit_two_pow_sub_one]
    have h1 : i - k < 128 := by omega
    simp only [h1, decide_true, Bool.true_and]
    congr 1
    apply propext
    omega

/-- A lane word of a line of lane words. -/
theorem laneW_ofLanes (f : Nat → Word32) (l : Nat) (h : l < 32) : laneW (ofLanes f) l = f l := by
  apply BitVec.eq_of_getLsbD_eq
  intro i hi
  unfold laneW ofLanes
  rw [BitVec.getLsbD_extractLsb', foldl_or_getLsbD]
  simp only [hi, decide_true, Bool.true_and]
  rw [Bool.eq_iff_iff, List.any_eq_true]
  constructor
  · rintro ⟨k, _, hk⟩
    rw [BitVec.getLsbD_shiftLeft] at hk
    simp only [Bool.and_eq_true, decide_eq_true_eq, Bool.not_eq_true', decide_eq_false_iff_not, BitVec.truncate_eq_setWidth,
      BitVec.getLsbD_setWidth] at hk
    obtain ⟨⟨_, h2⟩, _, h3⟩ := hk
    have hlt : 32 * l + i - 32 * k < 32 := by
      rcases Nat.lt_or_ge (32 * l + i - 32 * k) 32 with hlt | hge
      · exact hlt
      · rw [BitVec.getLsbD_of_ge _ _ hge] at h3
        exact absurd h3 (by decide)
    have : k = l := by omega
    subst this
    have : 32 * k + i - 32 * k = i := by omega
    rwa [this] at h3
  · intro hf
    refine ⟨l, by simpa using h, ?_⟩
    rw [BitVec.getLsbD_shiftLeft]
    have : 32 * l + i - 32 * l = i := by omega
    simp only [this, BitVec.truncate_eq_setWidth, BitVec.getLsbD_setWidth, hf, Bool.and_true, Bool.and_eq_true, decide_eq_true_eq,
      Bool.not_eq_true', decide_eq_false_iff_not]
    omega

/-- A bit of a lane mask. -/
theorem laneMask_getLsbD (act : Word32) (i : Nat) (h : i < 1024) : (laneMask act).getLsbD i = act.getLsbD (i / 32) := by
  unfold laneMask
  rw [foldl_or_ite (fun l => act.getLsbD l) (fun l => 0xFFFFFFFF#1024 <<< (32 * l)), foldl_or_getLsbD]
  rw [Bool.eq_iff_iff, List.any_eq_true]
  constructor
  · rintro ⟨k, _, hk⟩
    by_cases hm : act.getLsbD k = true
    · rw [if_pos hm, BitVec.getLsbD_shiftLeft] at hk
      simp only [Bool.and_eq_true, decide_eq_true_eq, Bool.not_eq_true', decide_eq_false_iff_not] at hk
      have hlt : i - 32 * k < 32 := by
        rcases Nat.lt_or_ge (i - 32 * k) 32 with hlt | hge
        · exact hlt
        · exfalso
          have h0 : (0xFFFFFFFF#1024 : BitVec 1024).getLsbD (i - 32 * k) = false := by
            simp only [BitVec.getLsbD_ofNat, Bool.and_eq_false_iff]
            refine Or.inr (Nat.testBit_lt_two_pow
              (Nat.lt_of_lt_of_le (by decide : 0xFFFFFFFF < 2 ^ 32) (Nat.pow_le_pow_right (by decide) hge)))
          rw [h0] at hk; exact absurd hk.2 (by decide)
      have : i / 32 = k := by omega
      rw [this]; exact hm
    · rw [if_neg hm] at hk
      simp at hk
  · intro hm
    refine ⟨i / 32, by simp only [List.mem_range]; omega, ?_⟩
    rw [if_pos hm, BitVec.getLsbD_shiftLeft]
    have hs : i - 32 * (i / 32) = i % 32 := by omega
    have hb : (0xFFFFFFFF#1024 : BitVec 1024).getLsbD (i % 32) = true := by
      have hl : i % 32 < 32 := Nat.mod_lt _ (by decide)
      have : (0xFFFFFFFF : Nat) = 2 ^ 32 - 1 := by decide
      rw [BitVec.getLsbD_ofNat, this, Nat.testBit_two_pow_sub_one]
      simp only [hl, decide_true, Bool.and_true, decide_eq_true_eq]
      omega
    rw [hs, hb]
    simp only [Bool.and_true, Bool.and_eq_true, decide_eq_true_eq, Bool.not_eq_true', decide_eq_false_iff_not]
    omega

/-- A lane word of a merge: the new line in the active lanes, the old line in the others. -/
theorem laneW_mergeLanes (act : Word32) (old new : LineData) (l : Nat) (h : l < 32) :
    laneW (mergeLanes act old new) l = if act.getLsbD l then laneW new l else laneW old l := by
  apply BitVec.eq_of_getLsbD_eq
  intro i hi
  unfold laneW mergeLanes
  have hd : (32 * l + i) / 32 = l := by omega
  by_cases ha : act = BitVec.allOnes 32
  · rw [if_pos ha, ha, BitVec.getLsbD_allOnes, if_pos (by simpa using h)]
  · rw [if_neg ha]
    simp only [BitVec.getLsbD_extractLsb', BitVec.getLsbD_or, BitVec.getLsbD_and, BitVec.getLsbD_not,
      laneMask_getLsbD act (32 * l + i) (by omega), hd, hi, decide_true, Bool.true_and]
    have : 32 * l + i < 1024 := by omega
    cases act.getLsbD l <;> simp [hi, this]

end Sys2Proof.Machine
end

