-- ==== Sys2Proof/Laws/Memory.lean ====
section
/-!
SUPPORT. The laws of memories: every operation keeps the canonical form, and a write changes what it names and nothing else.
-/

namespace Sys2Proof.Machine

theorem Memory.wfFrom_weaken : ∀ (m : Memory) (a b : Nat), b ≤ a → Memory.wfFrom a m = true → Memory.wfFrom b m = true
  | [], _, _, _, _ => rfl
  | (k, v) :: m, a, b, h, hw => by
    simp only [Memory.wfFrom, Bool.and_eq_true, decide_eq_true_eq] at hw ⊢
    exact ⟨⟨by omega, hw.1.2⟩, hw.2⟩

/-- A write keeps the canonical form from any bound below it. -/
theorem Memory.wfFrom_set : ∀ (m : Memory) (lo k : Nat) (v : Byte), lo ≤ k → Memory.wfFrom lo m = true →
    Memory.wfFrom lo (Memory.set m k v) = true
  | [], lo, k, v, hk, _ => by
    unfold Memory.set
    split
    · rfl
    · simp_all [Memory.wfFrom]
  | (a, b) :: m, lo, k, v, hk, hw => by
    have hw' := hw
    simp only [Memory.wfFrom, Bool.and_eq_true, decide_eq_true_eq] at hw'
    obtain ⟨⟨h1, h2⟩, h3⟩ := hw'
    unfold Memory.set
    split
    · rename_i hka
      split
      · exact hw
      · rename_i hv
        simp only [Memory.wfFrom, Bool.and_eq_true, decide_eq_true_eq]
        exact ⟨⟨hk, by simpa using hv⟩, ⟨by omega, h2⟩, h3⟩
    · rename_i hka
      split
      · rename_i hkeq
        subst hkeq
        split
        · exact Memory.wfFrom_weaken m _ _ (by omega) h3
        · rename_i hv
          simp only [Memory.wfFrom, Bool.and_eq_true, decide_eq_true_eq]
          exact ⟨⟨hk, by simpa using hv⟩, h3⟩
      · rename_i hne
        simp only [Memory.wfFrom, Bool.and_eq_true, decide_eq_true_eq]
        exact ⟨⟨h1, h2⟩, Memory.wfFrom_set m (a + 1) k v (by omega) h3⟩

/-- A write keeps the canonical form. -/
theorem Memory.wf_set (m : Memory) (k : Nat) (v : Byte) (h : m.wf = true) : (Memory.set m k v).wf = true :=
  Memory.wfFrom_set m 0 k v (Nat.zero_le k) h

/-- The empty memory is in canonical form. -/
@[simp] theorem Memory.wf_nil : Memory.wf [] = true := rfl

/-- Below the bound of a memory in canonical form nothing is listed. -/
theorem Memory.get_below : ∀ (m : Memory) (lo k : Nat), k < lo → Memory.wfFrom lo m = true → Memory.get m k = 0
  | [], _, _, _, _ => rfl
  | (a, b) :: m, lo, k, hk, hw => by
    simp only [Memory.wfFrom, Bool.and_eq_true, decide_eq_true_eq] at hw
    unfold Memory.get
    rw [if_pos (by omega)]

/-- A read after a write: the byte written at its address, and every other byte as before. -/
theorem Memory.get_set : ∀ (m : Memory) (lo k j : Nat) (v : Byte), Memory.wfFrom lo m = true →
    Memory.get (Memory.set m k v) j = if j = k then v else Memory.get m j
  | [], _, k, j, v, _ => by
    by_cases hv : v = 0
    · simp [Memory.set, hv, Memory.get]
    · simp only [Memory.set, if_neg hv, Memory.get]
      by_cases hj : j = k
      · simp [hj]
      · simp only [if_neg hj]
        split <;> rfl
  | (a, b) :: m, lo, k, j, v, hw => by
    have hw' := hw
    simp only [Memory.wfFrom, Bool.and_eq_true, decide_eq_true_eq] at hw'
    obtain ⟨_, h3⟩ := hw'
    unfold Memory.set
    split
    · rename_i hka
      by_cases hv : v = 0
      · rw [if_pos hv]
        by_cases hj : j = k
        · subst hj; subst hv
          simp [Memory.get, hka]
        · rw [if_neg hj]
      · rw [if_neg hv]
        by_cases hj : j = k
        · subst hj; simp [Memory.get]
        · simp only [Memory.get, if_neg hj]
          by_cases hjk : j < k
          · rw [if_pos hjk, if_pos (by omega)]
          · rw [if_neg hjk]
    · rename_i hka
      split
      · rename_i hkeq
        subst hkeq
        by_cases hv : v = 0
        · rw [if_pos hv]
          by_cases hj : j = k
          · subst hj; subst hv
            simpa using Memory.get_below m (j + 1) j (by omega) h3
          · rw [if_neg hj]
            simp only [Memory.get]
            by_cases hjk : j < k
            · rw [if_pos hjk]
              exact Memory.get_below m (k + 1) j (by omega) h3
            · rw [if_neg hjk, if_neg hj]
        · rw [if_neg hv]
          simp only [Memory.get]
          by_cases hj : j = k
          · subst hj; simp
          · simp [hj]
      · rename_i hne
        simp only [Memory.get]
        by_cases hja : j < a
        · rw [if_pos hja, if_pos hja, if_neg (by omega)]
        · rw [if_neg hja, if_neg hja]
          by_cases hje : j = a
          · subst hje; simp only [if_true]
            rw [if_neg (by omega)]
          · rw [if_neg hje, if_neg hje]
            exact Memory.get_set m (a + 1) k j v h3

/-- A read after a write of a memory in canonical form. -/
theorem Memory.get_set_wf (m : Memory) (k j : Nat) (v : Byte) (h : m.wf = true) :
    Memory.get (Memory.set m k v) j = if j = k then v else Memory.get m j :=
  Memory.get_set m 0 k j v h

/-- Writes of a list of places keep the canonical form. -/
theorem Memory.wf_foldl {α : Type} (l : List α) (f : Memory → α → Memory) (hf : ∀ m x, m.wf = true → (f m x).wf = true) :
    ∀ m : Memory, m.wf = true → (l.foldl f m).wf = true := by
  induction l with
  | nil => intro m h; exact h
  | cons x xs ih => intro m h; exact ih (f m x) (hf m x h)

theorem Memory.wf_setLine (m : Memory) (a : Nat) (mask : LineMask) (d : LineData) (h : m.wf = true) :
    (m.setLine a mask d).wf = true := by
  unfold Memory.setLine
  refine Memory.wf_foldl _ _ (fun m k hm => ?_) m h
  split
  · exact Memory.wf_set m _ _ hm
  · exact hm

theorem Memory.wf_setL (bs : List Byte) : ∀ (m : Memory) (a : Nat), m.wf = true → (m.setL a bs).wf = true := by
  induction bs with
  | nil => intro m a h; exact h
  | cons b bs ih => intro m a h; exact ih (Memory.set m a b) (a + 1) (Memory.wf_set m a b h)

theorem Memory.wfFrom_filter (p : Host.Cell → Bool) : ∀ (m : Memory) (lo : Nat), Memory.wfFrom lo m = true →
    Memory.wfFrom lo (m.filter p) = true
  | [], _, _ => rfl
  | (a, b) :: m, lo, h => by
    simp only [Memory.wfFrom, Bool.and_eq_true, decide_eq_true_eq] at h
    rw [List.filter_cons]
    split
    · simp only [Memory.wfFrom, Bool.and_eq_true, decide_eq_true_eq]
      exact ⟨h.1, Memory.wfFrom_filter p m (a + 1) h.2⟩
    · exact Memory.wfFrom_weaken _ (a + 1) lo (by omega) (Memory.wfFrom_filter p m (a + 1) h.2)

/-- Clearing a range keeps the canonical form. -/
theorem Memory.wf_zeroRange (m : Memory) (lo n : Nat) (h : m.wf = true) : (zeroRange m lo n).wf = true :=
  Memory.wfFrom_filter _ m 0 h

/-- Writing bytes of a scratchpad keeps the canonical form of the pads' memory, and touches no other field. -/
theorem State.wf_padWrite (s : State) (core off : Nat) (bs : List Byte) (h : s.pads.wf = true) :
    (s.padWrite core off bs).pads.wf = true := by
  unfold State.padWrite
  exact Memory.wf_foldl _ _ (fun m x hm => Memory.wf_set m _ _ hm) s.pads h

end Sys2Proof.Machine
end

