-- ==== Sys2Proof/Laws/PerInstr.lean ====
section
/-!
SUPPORT. The fields that the encoder gives for a well-formed instruction decode to that instruction: one lemma per constructor of Instr.
-/

set_option linter.unusedSimpArgs false
set_option linter.unusedVariables false

namespace Sys2Proof.Laws

/-- The fields that the encoder gives for a well-formed instruction decode to it. -/
def FieldsBack.Statement (i : Instr) : Prop := i.wf = true → ∀ f : Fields, encodeFields i = some f → decodeFields f = .ok i

theorem FieldsBack.nop : FieldsBack.Statement (.nop) := by
  intro _ f hf
  have hf := Option.some.inj hf
  have ho : f.opc.toNat = 0x01 := by rw [← hf]; rfl
  have hs : f.sub.toNat = 0 := by rw [← hf]; rfl
  rw [decScalar ho (by decide), rowsScalar, ho, hs]
  show checkRow (rN _ _ _ _ _ _ _ _ _ _ _ _ _ _) = _
  subst hf
  simp_all [row, checkRow, Fields.mk0, Fields.withPred, Fields.t, Fields.pred, Fields.masked, rN]

theorem FieldsBack.sadd (ty : Ty) (d : SReg) (a : SReg) (b : SSrc) : FieldsBack.Statement (.sadd ty d a b) := by
  intro h f hf
  replace h : (ty.isIS) = true := h
  cases b
  all_goals
    have hf := Option.some.inj hf
    have ho : f.opc.toNat = 0x02 := by rw [← hf]; rfl
    have hs : f.sub.toNat = 0 := by rw [← hf]; rfl
    rw [decScalar ho (by decide), rowsScalar, ho, hs]
    show checkRow (rS3 _ _ _) = _
    subst hf
    simp_all [row, checkRow, Fields.mk0, Fields.withPred, Fields.t, Fields.pred, Fields.masked, rS3, eS3, Fields.ssrc]

theorem FieldsBack.ssub (ty : Ty) (d : SReg) (a : SReg) (b : SSrc) : FieldsBack.Statement (.ssub ty d a b) := by
  intro h f hf
  replace h : (ty.isIS) = true := h
  cases b
  all_goals
    have hf := Option.some.inj hf
    have ho : f.opc.toNat = 0x03 := by rw [← hf]; rfl
    have hs : f.sub.toNat = 0 := by rw [← hf]; rfl
    rw [decScalar ho (by decide), rowsScalar, ho, hs]
    show checkRow (rS3 _ _ _) = _
    subst hf
    simp_all [row, checkRow, Fields.mk0, Fields.withPred, Fields.t, Fields.pred, Fields.masked, rS3, eS3, Fields.ssrc]

theorem FieldsBack.smul (ty : Ty) (d : SReg) (a : SReg) (b : SSrc) : FieldsBack.Statement (.smul ty d a b) := by
  intro h f hf
  replace h : (ty.isIS) = true := h
  cases b
  all_goals
    have hf := Option.some.inj hf
    have ho : f.opc.toNat = 0x04 := by rw [← hf]; rfl
    have hs : f.sub.toNat = 0 := by rw [← hf]; rfl
    rw [decScalar ho (by decide), rowsScalar, ho, hs]
    show checkRow (rS3 _ _ _) = _
    subst hf
    simp_all [row, checkRow, Fields.mk0, Fields.withPred, Fields.t, Fields.pred, Fields.masked, rS3, eS3, Fields.ssrc]

theorem FieldsBack.smulh (ty : Ty) (d : SReg) (a : SReg) (b : SSrc) : FieldsBack.Statement (.smulh ty d a b) := by
  intro h f hf
  replace h : (ty.isIS) = true := h
  cases b
  all_goals
    have hf := Option.some.inj hf
    have ho : f.opc.toNat = 0x04 := by rw [← hf]; rfl
    have hs : f.sub.toNat = 1 := by rw [← hf]; rfl
    rw [decScalar ho (by decide), rowsScalar, ho, hs]
    show checkRow (rS3 _ _ _) = _
    subst hf
    simp_all [row, checkRow, Fields.mk0, Fields.withPred, Fields.t, Fields.pred, Fields.masked, rS3, eS3, Fields.ssrc]

theorem FieldsBack.sdiv (ty : Ty) (d : SReg) (a : SReg) (b : SSrc) : FieldsBack.Statement (.sdiv ty d a b) := by
  intro h f hf
  replace h : (ty.isIS) = true := h
  cases b
  all_goals
    have hf := Option.some.inj hf
    have ho : f.opc.toNat = 0x05 := by rw [← hf]; rfl
    have hs : f.sub.toNat = 0 := by rw [← hf]; rfl
    rw [decScalar ho (by decide), rowsScalar, ho, hs]
    show checkRow (rS3 _ _ _) = _
    subst hf
    simp_all [row, checkRow, Fields.mk0, Fields.withPred, Fields.t, Fields.pred, Fields.masked, rS3, eS3, Fields.ssrc]

theorem FieldsBack.srem (ty : Ty) (d : SReg) (a : SReg) (b : SSrc) : FieldsBack.Statement (.srem ty d a b) := by
  intro h f hf
  replace h : (ty.isIS) = true := h
  cases b
  all_goals
    have hf := Option.some.inj hf
    have ho : f.opc.toNat = 0x05 := by rw [← hf]; rfl
    have hs : f.sub.toNat = 1 := by rw [← hf]; rfl
    rw [decScalar ho (by decide), rowsScalar, ho, hs]
    show checkRow (rS3 _ _ _) = _
    subst hf
    simp_all [row, checkRow, Fields.mk0, Fields.withPred, Fields.t, Fields.pred, Fields.masked, rS3, eS3, Fields.ssrc]

theorem FieldsBack.sand (ty : Ty) (d : SReg) (a : SReg) (b : SSrc) : FieldsBack.Statement (.sand ty d a b) := by
  intro h f hf
  replace h : (ty.isBS) = true := h
  cases b
  all_goals
    have hf := Option.some.inj hf
    have ho : f.opc.toNat = 0x06 := by rw [← hf]; rfl
    have hs : f.sub.toNat = 0 := by rw [← hf]; rfl
    rw [decScalar ho (by decide), rowsScalar, ho, hs]
    show checkRow (rS3 _ _ _) = _
    subst hf
    simp_all [row, checkRow, Fields.mk0, Fields.withPred, Fields.t, Fields.pred, Fields.masked, rS3, eS3, Fields.ssrc]

theorem FieldsBack.sor (ty : Ty) (d : SReg) (a : SReg) (b : SSrc) : FieldsBack.Statement (.sor ty d a b) := by
  intro h f hf
  replace h : (ty.isBS) = true := h
  cases b
  all_goals
    have hf := Option.some.inj hf
    have ho : f.opc.toNat = 0x06 := by rw [← hf]; rfl
    have hs : f.sub.toNat = 1 := by rw [← hf]; rfl
    rw [decScalar ho (by decide), rowsScalar, ho, hs]
    show checkRow (rS3 _ _ _) = _
    subst hf
    simp_all [row, checkRow, Fields.mk0, Fields.withPred, Fields.t, Fields.pred, Fields.masked, rS3, eS3, Fields.ssrc]

theorem FieldsBack.sxor (ty : Ty) (d : SReg) (a : SReg) (b : SSrc) : FieldsBack.Statement (.sxor ty d a b) := by
  intro h f hf
  replace h : (ty.isBS) = true := h
  cases b
  all_goals
    have hf := Option.some.inj hf
    have ho : f.opc.toNat = 0x06 := by rw [← hf]; rfl
    have hs : f.sub.toNat = 2 := by rw [← hf]; rfl
    rw [decScalar ho (by decide), rowsScalar, ho, hs]
    show checkRow (rS3 _ _ _) = _
    subst hf
    simp_all [row, checkRow, Fields.mk0, Fields.withPred, Fields.t, Fields.pred, Fields.masked, rS3, eS3, Fields.ssrc]

theorem FieldsBack.sandn (ty : Ty) (d : SReg) (a : SReg) (b : SSrc) : FieldsBack.Statement (.sandn ty d a b) := by
  intro h f hf
  replace h : (ty.isBS) = true := h
  cases b
  all_goals
    have hf := Option.some.inj hf
    have ho : f.opc.toNat = 0x06 := by rw [← hf]; rfl
    have hs : f.sub.toNat = 3 := by rw [← hf]; rfl
    rw [decScalar ho (by decide), rowsScalar, ho, hs]
    show checkRow (rS3 _ _ _) = _
    subst hf
    simp_all [row, checkRow, Fields.mk0, Fields.withPred, Fields.t, Fields.pred, Fields.masked, rS3, eS3, Fields.ssrc]

theorem FieldsBack.sshl (ty : Ty) (d : SReg) (a : SReg) (b : SSrc) : FieldsBack.Statement (.sshl ty d a b) := by
  intro h f hf
  replace h : (ty.isBS) = true := h
  cases b
  all_goals
    have hf := Option.some.inj hf
    have ho : f.opc.toNat = 0x07 := by rw [← hf]; rfl
    have hs : f.sub.toNat = 0 := by rw [← hf]; rfl
    rw [decScalar ho (by decide), rowsScalar, ho, hs]
    show checkRow (rS3 _ _ _) = _
    subst hf
    simp_all [row, checkRow, Fields.mk0, Fields.withPred, Fields.t, Fields.pred, Fields.masked, rS3, eS3, Fields.ssrc]

theorem FieldsBack.sshr (ty : Ty) (d : SReg) (a : SReg) (b : SSrc) : FieldsBack.Statement (.sshr ty d a b) := by
  intro h f hf
  replace h : (ty.isBS) = true := h
  cases b
  all_goals
    have hf := Option.some.inj hf
    have ho : f.opc.toNat = 0x07 := by rw [← hf]; rfl
    have hs : f.sub.toNat = 1 := by rw [← hf]; rfl
    rw [decScalar ho (by decide), rowsScalar, ho, hs]
    show checkRow (rS3 _ _ _) = _
    subst hf
    simp_all [row, checkRow, Fields.mk0, Fields.withPred, Fields.t, Fields.pred, Fields.masked, rS3, eS3, Fields.ssrc]

theorem FieldsBack.ssra (ty : Ty) (d : SReg) (a : SReg) (b : SSrc) : FieldsBack.Statement (.ssra ty d a b) := by
  intro h f hf
  replace h : (ty.isBS) = true := h
  cases b
  all_goals
    have hf := Option.some.inj hf
    have ho : f.opc.toNat = 0x07 := by rw [← hf]; rfl
    have hs : f.sub.toNat = 2 := by rw [← hf]; rfl
    rw [decScalar ho (by decide), rowsScalar, ho, hs]
    show checkRow (rS3 _ _ _) = _
    subst hf
    simp_all [row, checkRow, Fields.mk0, Fields.withPred, Fields.t, Fields.pred, Fields.masked, rS3, eS3, Fields.ssrc]

theorem FieldsBack.srot (ty : Ty) (d : SReg) (a : SReg) (b : SSrc) : FieldsBack.Statement (.srot ty d a b) := by
  intro h f hf
  replace h : (ty.isBS) = true := h
  cases b
  all_goals
    have hf := Option.some.inj hf
    have ho : f.opc.toNat = 0x07 := by rw [← hf]; rfl
    have hs : f.sub.toNat = 3 := by rw [← hf]; rfl
    rw [decScalar ho (by decide), rowsScalar, ho, hs]
    show checkRow (rS3 _ _ _) = _
    subst hf
    simp_all [row, checkRow, Fields.mk0, Fields.withPred, Fields.t, Fields.pred, Fields.masked, rS3, eS3, Fields.ssrc]

theorem FieldsBack.smin (ty : Ty) (d : SReg) (a : SReg) (b : SSrc) : FieldsBack.Statement (.smin ty d a b) := by
  intro h f hf
  replace h : (ty.isIS) = true := h
  cases b
  all_goals
    have hf := Option.some.inj hf
    have ho : f.opc.toNat = 0x08 := by rw [← hf]; rfl
    have hs : f.sub.toNat = 0 := by rw [← hf]; rfl
    rw [decScalar ho (by decide), rowsScalar, ho, hs]
    show checkRow (rS3 _ _ _) = _
    subst hf
    simp_all [row, checkRow, Fields.mk0, Fields.withPred, Fields.t, Fields.pred, Fields.masked, rS3, eS3, Fields.ssrc]

theorem FieldsBack.smax (ty : Ty) (d : SReg) (a : SReg) (b : SSrc) : FieldsBack.Statement (.smax ty d a b) := by
  intro h f hf
  replace h : (ty.isIS) = true := h
  cases b
  all_goals
    have hf := Option.some.inj hf
    have ho : f.opc.toNat = 0x08 := by rw [← hf]; rfl
    have hs : f.sub.toNat = 1 := by rw [← hf]; rfl
    rw [decScalar ho (by decide), rowsScalar, ho, hs]
    show checkRow (rS3 _ _ _) = _
    subst hf
    simp_all [row, checkRow, Fields.mk0, Fields.withPred, Fields.t, Fields.pred, Fields.masked, rS3, eS3, Fields.ssrc]

theorem FieldsBack.sclz (ty : Ty) (d : SReg) (a : SReg) : FieldsBack.Statement (.sclz ty d a) := by
  intro h f hf
  replace h : (ty.isBS) = true := h
  have hf := Option.some.inj hf
  have ho : f.opc.toNat = 0x09 := by rw [← hf]; rfl
  have hs : f.sub.toNat = 0 := by rw [← hf]; rfl
  rw [decScalar ho (by decide), rowsScalar, ho, hs]
  show checkRow (rS2 _ _ _) = _
  subst hf
  simp_all [row, checkRow, Fields.mk0, Fields.withPred, Fields.t, Fields.pred, Fields.masked, rS2, eS2]

theorem FieldsBack.spop (ty : Ty) (d : SReg) (a : SReg) : FieldsBack.Statement (.spop ty d a) := by
  intro h f hf
  replace h : (ty.isBS) = true := h
  have hf := Option.some.inj hf
  have ho : f.opc.toNat = 0x09 := by rw [← hf]; rfl
  have hs : f.sub.toNat = 1 := by rw [← hf]; rfl
  rw [decScalar ho (by decide), rowsScalar, ho, hs]
  show checkRow (rS2 _ _ _) = _
  subst hf
  simp_all [row, checkRow, Fields.mk0, Fields.withPred, Fields.t, Fields.pred, Fields.masked, rS2, eS2]

theorem FieldsBack.sctz (ty : Ty) (d : SReg) (a : SReg) : FieldsBack.Statement (.sctz ty d a) := by
  intro h f hf
  replace h : (ty.isBS) = true := h
  have hf := Option.some.inj hf
  have ho : f.opc.toNat = 0x09 := by rw [← hf]; rfl
  have hs : f.sub.toNat = 2 := by rw [← hf]; rfl
  rw [decScalar ho (by decide), rowsScalar, ho, hs]
  show checkRow (rS2 _ _ _) = _
  subst hf
  simp_all [row, checkRow, Fields.mk0, Fields.withPred, Fields.t, Fields.pred, Fields.masked, rS2, eS2]

theorem FieldsBack.sbrev (ty : Ty) (d : SReg) (a : SReg) : FieldsBack.Statement (.sbrev ty d a) := by
  intro h f hf
  replace h : (ty.isBS) = true := h
  have hf := Option.some.inj hf
  have ho : f.opc.toNat = 0x09 := by rw [← hf]; rfl
  have hs : f.sub.toNat = 3 := by rw [← hf]; rfl
  rw [decScalar ho (by decide), rowsScalar, ho, hs]
  show checkRow (rS2 _ _ _) = _
  subst hf
  simp_all [row, checkRow, Fields.mk0, Fields.withPred, Fields.t, Fields.pred, Fields.masked, rS2, eS2]

theorem FieldsBack.smov (d : SReg) (b : SSrc) : FieldsBack.Statement (.smov d b) := by
  intro _ f hf
  cases b
  all_goals
    have hf := Option.some.inj hf
    have ho : f.opc.toNat = 0x0a := by rw [← hf]; rfl
    have hs : f.sub.toNat = 0 := by rw [← hf]; rfl
    rw [decScalar ho (by decide), rowsScalar, ho, hs]
    show checkRow (row _ _ _ _) = _
    subst hf
    simp_all [row, checkRow, Fields.mk0, Fields.withPred, Fields.t, Fields.pred, Fields.masked, eV3, eS2, eV2, eShfl, Fields.ssrc, Fields.vsrc, Fields.nsrc, Fields.viRes]

theorem FieldsBack.smovh (d : SReg) (imm : Word32) : FieldsBack.Statement (.smovh d imm) := by
  intro _ f hf
  have hf := Option.some.inj hf
  have ho : f.opc.toNat = 0x0a := by rw [← hf]; rfl
  have hs : f.sub.toNat = 1 := by rw [← hf]; rfl
  rw [decScalar ho (by decide), rowsScalar, ho, hs]
  show checkRow (rN _ _ _ _ _ _ _ _ _ _ _ _ _ _) = _
  subst hf
  simp_all [row, checkRow, Fields.mk0, Fields.withPred, Fields.t, Fields.pred, Fields.masked, rN]

theorem FieldsBack.sext (ty : Ty) (d : SReg) (a : SReg) : FieldsBack.Statement (.sext ty d a) := by
  intro h f hf
  replace h : (ty.isSext) = true := h
  have hf := Option.some.inj hf
  have ho : f.opc.toNat = 0x0b := by rw [← hf]; rfl
  have hs : f.sub.toNat = 0 := by rw [← hf]; rfl
  rw [decScalar ho (by decide), rowsScalar, ho, hs]
  show checkRow (rS2 _ _ _) = _
  subst hf
  simp_all [row, checkRow, Fields.mk0, Fields.withPred, Fields.t, Fields.pred, Fields.masked, rS2, eS2]

theorem FieldsBack.sbfx (ty : Ty) (d : SReg) (a : SReg) (pos : BitVec 6) (lenm1 : BitVec 6) : FieldsBack.Statement (.sbfx ty d a pos lenm1) := by
  intro h f hf
  replace h : (ty.isBfx && decide (pos.toNat + lenm1.toNat + 1 ≤ 64)) = true := h
  have hf := Option.some.inj hf
  have ho : f.opc.toNat = 0x0c := by rw [← hf]; rfl
  have hs : f.sub.toNat = 0 := by rw [← hf]; rfl
  rw [decScalar ho (by decide), rowsScalar, ho, hs]
  show checkRow (row _ _ _ _) = _
  subst hf
  simp_all [row, checkRow, Fields.mk0, Fields.withPred, Fields.t, Fields.pred, Fields.masked, eV3, eS2, eV2, eShfl, Fields.ssrc, Fields.vsrc, Fields.nsrc, Fields.viRes]

theorem FieldsBack.sbfi (d : SReg) (a : SReg) (pos : BitVec 6) (lenm1 : BitVec 6) : FieldsBack.Statement (.sbfi d a pos lenm1) := by
  intro h f hf
  replace h : (decide (pos.toNat + lenm1.toNat + 1 ≤ 64)) = true := h
  have hf := Option.some.inj hf
  have ho : f.opc.toNat = 0x0c := by rw [← hf]; rfl
  have hs : f.sub.toNat = 1 := by rw [← hf]; rfl
  rw [decScalar ho (by decide), rowsScalar, ho, hs]
  show checkRow (row _ _ _ _) = _
  subst hf
  simp_all [row, checkRow, Fields.mk0, Fields.withPred, Fields.t, Fields.pred, Fields.masked, eV3, eS2, eV2, eShfl, Fields.ssrc, Fields.vsrc, Fields.nsrc, Fields.viRes]

theorem FieldsBack.slea (d : SReg) (a : SReg) (b : SReg) (sh : BitVec 3) : FieldsBack.Statement (.slea d a b sh) := by
  intro _ f hf
  have hf := Option.some.inj hf
  have ho : f.opc.toNat = 0x0d := by rw [← hf]; rfl
  have hs : f.sub.toNat = 0 := by rw [← hf]; rfl
  rw [decScalar ho (by decide), rowsScalar, ho, hs]
  show checkRow (row _ _ _ _) = _
  subst hf
  simp_all [row, checkRow, Fields.mk0, Fields.withPred, Fields.t, Fields.pred, Fields.masked, eV3, eS2, eV2, eShfl, Fields.ssrc, Fields.vsrc, Fields.nsrc, Fields.viRes]

theorem FieldsBack.scmp (ty : Ty) (a : SReg) (b : SSrc) : FieldsBack.Statement (.scmp ty a b) := by
  intro h f hf
  replace h : (ty.isIS) = true := h
  cases b
  all_goals
    have hf := Option.some.inj hf
    have ho : f.opc.toNat = 0x0e := by rw [← hf]; rfl
    have hs : f.sub.toNat = 0 := by rw [← hf]; rfl
    rw [decScalar ho (by decide), rowsScalar, ho, hs]
    show checkRow (row _ _ _ _) = _
    subst hf
    simp_all [row, checkRow, Fields.mk0, Fields.withPred, Fields.t, Fields.pred, Fields.masked, eV3, eS2, eV2, eShfl, Fields.ssrc, Fields.vsrc, Fields.nsrc, Fields.viRes]

theorem FieldsBack.ssel (d : SReg) (a : SReg) (b : SReg) (cond : BitVec 4) : FieldsBack.Statement (.ssel d a b cond) := by
  intro _ f hf
  have hf := Option.some.inj hf
  have ho : f.opc.toNat = 0x0f := by rw [← hf]; rfl
  have hs : f.sub.toNat = 0 := by rw [← hf]; rfl
  rw [decScalar ho (by decide), rowsScalar, ho, hs]
  show checkRow (row _ _ _ _) = _
  subst hf
  simp_all [row, checkRow, Fields.mk0, Fields.withPred, Fields.t, Fields.pred, Fields.masked, eV3, eS2, eV2, eShfl, Fields.ssrc, Fields.vsrc, Fields.nsrc, Fields.viRes]

theorem FieldsBack.srd (d : SReg) (q : QReg) (b : SReg) : FieldsBack.Statement (.srd d q b) := by
  intro _ f hf
  have hf := Option.some.inj hf
  have ho : f.opc.toNat = 0x10 := by rw [← hf]; rfl
  have hs : f.sub.toNat = 0 := by rw [← hf]; rfl
  rw [decScalar ho (by decide), rowsScalar, ho, hs]
  show checkRow (rN _ _ _ _ _ _ _ _ _ _ _ _ _ _) = _
  subst hf
  simp_all [row, checkRow, Fields.mk0, Fields.withPred, Fields.t, Fields.pred, Fields.masked, rN]

theorem FieldsBack.sflgGet (d : SReg) : FieldsBack.Statement (.sflgGet d) := by
  intro _ f hf
  have hf := Option.some.inj hf
  have ho : f.opc.toNat = 0x11 := by rw [← hf]; rfl
  have hs : f.sub.toNat = 0 := by rw [← hf]; rfl
  rw [decScalar ho (by decide), rowsScalar, ho, hs]
  show checkRow (rN _ _ _ _ _ _ _ _ _ _ _ _ _ _) = _
  subst hf
  simp_all [row, checkRow, Fields.mk0, Fields.withPred, Fields.t, Fields.pred, Fields.masked, rN]

theorem FieldsBack.sflgSet (a : SReg) : FieldsBack.Statement (.sflgSet a) := by
  intro _ f hf
  have hf := Option.some.inj hf
  have ho : f.opc.toNat = 0x11 := by rw [← hf]; rfl
  have hs : f.sub.toNat = 1 := by rw [← hf]; rfl
  rw [decScalar ho (by decide), rowsScalar, ho, hs]
  show checkRow (rN _ _ _ _ _ _ _ _ _ _ _ _ _ _) = _
  subst hf
  simp_all [row, checkRow, Fields.mk0, Fields.withPred, Fields.t, Fields.pred, Fields.masked, rN]

theorem FieldsBack.br (disp : Word32) : FieldsBack.Statement (.br disp) := by
  intro _ f hf
  have hf := Option.some.inj hf
  have ho : f.opc.toNat = 0x20 := by rw [← hf]; rfl
  have hs : f.sub.toNat = 0 := by rw [← hf]; rfl
  rw [decControl ho (by decide), rowsControl, ho, hs]
  show checkRow (rN _ _ _ _ _ _ _ _ _ _ _ _ _ _) = _
  subst hf
  simp_all [row, checkRow, Fields.mk0, Fields.withPred, Fields.t, Fields.pred, Fields.masked, rN]

theorem FieldsBack.bcc (cond : BitVec 4) (disp : Word32) : FieldsBack.Statement (.bcc cond disp) := by
  intro _ f hf
  have hf := Option.some.inj hf
  have ho : f.opc.toNat = 0x21 := by rw [← hf]; rfl
  rw [decControl ho (by decide), rowsControl, ho]
  show checkRow (rN _ _ _ _ _ _ _ _ _ _ _ _ _ _) = _
  subst hf
  simp_all [row, checkRow, Fields.mk0, Fields.withPred, Fields.t, Fields.pred, Fields.masked, rN]

theorem FieldsBack.bmz (m : MReg) (disp : Word32) : FieldsBack.Statement (.bmz m disp) := by
  intro _ f hf
  have hf := Option.some.inj hf
  have ho : f.opc.toNat = 0x22 := by rw [← hf]; rfl
  have hs : f.sub.toNat = 0 := by rw [← hf]; rfl
  rw [decControl ho (by decide), rowsControl, ho, hs]
  show checkRow (rN _ _ _ _ _ _ _ _ _ _ _ _ _ _) = _
  subst hf
  simp_all [row, checkRow, Fields.mk0, Fields.withPred, Fields.t, Fields.pred, Fields.masked, rN]

theorem FieldsBack.bmnz (m : MReg) (disp : Word32) : FieldsBack.Statement (.bmnz m disp) := by
  intro _ f hf
  have hf := Option.some.inj hf
  have ho : f.opc.toNat = 0x22 := by rw [← hf]; rfl
  have hs : f.sub.toNat = 1 := by rw [← hf]; rfl
  rw [decControl ho (by decide), rowsControl, ho, hs]
  show checkRow (rN _ _ _ _ _ _ _ _ _ _ _ _ _ _) = _
  subst hf
  simp_all [row, checkRow, Fields.mk0, Fields.withPred, Fields.t, Fields.pred, Fields.masked, rN]

theorem FieldsBack.call (slide : Byte) (disp : Word32) : FieldsBack.Statement (.call slide disp) := by
  intro _ f hf
  have hf := Option.some.inj hf
  have ho : f.opc.toNat = 0x23 := by rw [← hf]; rfl
  have hs : f.sub.toNat = 0 := by rw [← hf]; rfl
  rw [decControl ho (by decide), rowsControl, ho, hs]
  show checkRow (row _ _ _ _) = _
  subst hf
  simp_all [row, checkRow, Fields.mk0, Fields.withPred, Fields.t, Fields.pred, Fields.masked, eV3, eS2, eV2, eShfl, Fields.ssrc, Fields.vsrc, Fields.nsrc, Fields.viRes]

theorem FieldsBack.calli (a : SReg) (slide : Byte) : FieldsBack.Statement (.calli a slide) := by
  intro _ f hf
  have hf := Option.some.inj hf
  have ho : f.opc.toNat = 0x23 := by rw [← hf]; rfl
  have hs : f.sub.toNat = 1 := by rw [← hf]; rfl
  rw [decControl ho (by decide), rowsControl, ho, hs]
  show checkRow (row _ _ _ _) = _
  subst hf
  simp_all [row, checkRow, Fields.mk0, Fields.withPred, Fields.t, Fields.pred, Fields.masked, eV3, eS2, eV2, eShfl, Fields.ssrc, Fields.vsrc, Fields.nsrc, Fields.viRes]

theorem FieldsBack.ret : FieldsBack.Statement (.ret) := by
  intro _ f hf
  have hf := Option.some.inj hf
  have ho : f.opc.toNat = 0x24 := by rw [← hf]; rfl
  have hs : f.sub.toNat = 0 := by rw [← hf]; rfl
  rw [decControl ho (by decide), rowsControl, ho, hs]
  show checkRow (rN _ _ _ _ _ _ _ _ _ _ _ _ _ _) = _
  subst hf
  simp_all [row, checkRow, Fields.mk0, Fields.withPred, Fields.t, Fields.pred, Fields.masked, rN]

theorem FieldsBack.exit : FieldsBack.Statement (.exit) := by
  intro _ f hf
  have hf := Option.some.inj hf
  have ho : f.opc.toNat = 0x25 := by rw [← hf]; rfl
  have hs : f.sub.toNat = 0 := by rw [← hf]; rfl
  rw [decControl ho (by decide), rowsControl, ho, hs]
  show checkRow (rN _ _ _ _ _ _ _ _ _ _ _ _ _ _) = _
  subst hf
  simp_all [row, checkRow, Fields.mk0, Fields.withPred, Fields.t, Fields.pred, Fields.masked, rN]

theorem FieldsBack.post (a : SReg) : FieldsBack.Statement (.post a) := by
  intro _ f hf
  have hf := Option.some.inj hf
  have ho : f.opc.toNat = 0x26 := by rw [← hf]; rfl
  have hs : f.sub.toNat = 0 := by rw [← hf]; rfl
  rw [decControl ho (by decide), rowsControl, ho, hs]
  show checkRow (rN _ _ _ _ _ _ _ _ _ _ _ _ _ _) = _
  subst hf
  simp_all [row, checkRow, Fields.mk0, Fields.withPred, Fields.t, Fields.pred, Fields.masked, rN]

theorem FieldsBack.join (d : SReg) (a : SReg) : FieldsBack.Statement (.join d a) := by
  intro _ f hf
  have hf := Option.some.inj hf
  have ho : f.opc.toNat = 0x27 := by rw [← hf]; rfl
  have hs : f.sub.toNat = 0 := by rw [← hf]; rfl
  rw [decControl ho (by decide), rowsControl, ho, hs]
  show checkRow (rN _ _ _ _ _ _ _ _ _ _ _ _ _ _) = _
  subst hf
  simp_all [row, checkRow, Fields.mk0, Fields.withPred, Fields.t, Fields.pred, Fields.masked, rN]

theorem FieldsBack.yield : FieldsBack.Statement (.yield) := by
  intro _ f hf
  have hf := Option.some.inj hf
  have ho : f.opc.toNat = 0x28 := by rw [← hf]; rfl
  have hs : f.sub.toNat = 0 := by rw [← hf]; rfl
  rw [decControl ho (by decide), rowsControl, ho, hs]
  show checkRow (rN _ _ _ _ _ _ _ _ _ _ _ _ _ _) = _
  subst hf
  simp_all [row, checkRow, Fields.mk0, Fields.withPred, Fields.t, Fields.pred, Fields.masked, rN]

theorem FieldsBack.region : FieldsBack.Statement (.region) := by
  intro _ f hf
  have hf := Option.some.inj hf
  have ho : f.opc.toNat = 0x29 := by rw [← hf]; rfl
  have hs : f.sub.toNat = 0 := by rw [← hf]; rfl
  rw [decControl ho (by decide), rowsControl, ho, hs]
  show checkRow (rN _ _ _ _ _ _ _ _ _ _ _ _ _ _) = _
  subst hf
  simp_all [row, checkRow, Fields.mk0, Fields.withPred, Fields.t, Fields.pred, Fields.masked, rN]

theorem FieldsBack.quota (a : SReg) (b : SReg) : FieldsBack.Statement (.quota a b) := by
  intro _ f hf
  have hf := Option.some.inj hf
  have ho : f.opc.toNat = 0x2a := by rw [← hf]; rfl
  have hs : f.sub.toNat = 0 := by rw [← hf]; rfl
  rw [decControl ho (by decide), rowsControl, ho, hs]
  show checkRow (rN _ _ _ _ _ _ _ _ _ _ _ _ _ _) = _
  subst hf
  simp_all [row, checkRow, Fields.mk0, Fields.withPred, Fields.t, Fields.pred, Fields.masked, rN]

theorem FieldsBack.trap (code : BitVec 16) : FieldsBack.Statement (.trap code) := by
  intro h f hf
  replace h : (code != 0xFFFF#16) = true := h
  have hf := Option.some.inj hf
  have ho : f.opc.toNat = 0x30 := by rw [← hf]; rfl
  have hs : f.sub.toNat = 0 := by rw [← hf]; rfl
  rw [decControl ho (by decide), rowsControl, ho, hs]
  show checkRow (rN _ _ _ _ _ _ _ _ _ _ _ _ _ _) = _
  subst hf
  simp_all [row, checkRow, Fields.mk0, Fields.withPred, Fields.t, Fields.pred, Fields.masked, rN]

theorem FieldsBack.rte : FieldsBack.Statement (.rte) := by
  intro _ f hf
  have hf := Option.some.inj hf
  have ho : f.opc.toNat = 0x31 := by rw [← hf]; rfl
  have hs : f.sub.toNat = 0 := by rw [← hf]; rfl
  rw [decControl ho (by decide), rowsControl, ho, hs]
  show checkRow (rN _ _ _ _ _ _ _ _ _ _ _ _ _ _) = _
  subst hf
  simp_all [row, checkRow, Fields.mk0, Fields.withPred, Fields.t, Fields.pred, Fields.masked, rN]

theorem FieldsBack.sysrd (d : SReg) (a : SReg) (num : BitVec 16) : FieldsBack.Statement (.sysrd d a num) := by
  intro _ f hf
  have hf := Option.some.inj hf
  have ho : f.opc.toNat = 0x32 := by rw [← hf]; rfl
  have hs : f.sub.toNat = 0 := by rw [← hf]; rfl
  rw [decControl ho (by decide), rowsControl, ho, hs]
  show checkRow (row _ _ _ _) = _
  subst hf
  simp_all [row, checkRow, Fields.mk0, Fields.withPred, Fields.t, Fields.pred, Fields.masked, eV3, eS2, eV2, eShfl, Fields.ssrc, Fields.vsrc, Fields.nsrc, Fields.viRes]

theorem FieldsBack.syswr (a : SReg) (b : SReg) (num : BitVec 16) : FieldsBack.Statement (.syswr a b num) := by
  intro _ f hf
  have hf := Option.some.inj hf
  have ho : f.opc.toNat = 0x33 := by rw [← hf]; rfl
  have hs : f.sub.toNat = 0 := by rw [← hf]; rfl
  rw [decControl ho (by decide), rowsControl, ho, hs]
  show checkRow (row _ _ _ _) = _
  subst hf
  simp_all [row, checkRow, Fields.mk0, Fields.withPred, Fields.t, Fields.pred, Fields.masked, eV3, eS2, eV2, eShfl, Fields.ssrc, Fields.vsrc, Fields.nsrc, Fields.viRes]

theorem FieldsBack.rmack (a : SReg) : FieldsBack.Statement (.rmack a) := by
  intro _ f hf
  have hf := Option.some.inj hf
  have ho : f.opc.toNat = 0x34 := by rw [← hf]; rfl
  have hs : f.sub.toNat = 0 := by rw [← hf]; rfl
  rw [decControl ho (by decide), rowsControl, ho, hs]
  show checkRow (rN _ _ _ _ _ _ _ _ _ _ _ _ _ _) = _
  subst hf
  simp_all [row, checkRow, Fields.mk0, Fields.withPred, Fields.t, Fields.pred, Fields.masked, rN]

theorem FieldsBack.pgpurge (a : SReg) (b : SReg) (c : SReg) : FieldsBack.Statement (.pgpurge a b c) := by
  intro _ f hf
  have hf := Option.some.inj hf
  have ho : f.opc.toNat = 0x35 := by rw [← hf]; rfl
  have hs : f.sub.toNat = 0 := by rw [← hf]; rfl
  rw [decControl ho (by decide), rowsControl, ho, hs]
  show checkRow (rN _ _ _ _ _ _ _ _ _ _ _ _ _ _) = _
  subst hf
  simp_all [row, checkRow, Fields.mk0, Fields.withPred, Fields.t, Fields.pred, Fields.masked, rN]

theorem FieldsBack.pause (n : BitVec 16) : FieldsBack.Statement (.pause n) := by
  intro _ f hf
  have hf := Option.some.inj hf
  have ho : f.opc.toNat = 0x36 := by rw [← hf]; rfl
  have hs : f.sub.toNat = 0 := by rw [← hf]; rfl
  rw [decControl ho (by decide), rowsControl, ho, hs]
  show checkRow (row _ _ _ _) = _
  subst hf
  simp_all [row, checkRow, Fields.mk0, Fields.withPred, Fields.t, Fields.pred, Fields.masked, eV3, eS2, eV2, eShfl, Fields.ssrc, Fields.vsrc, Fields.nsrc, Fields.viRes]

theorem FieldsBack.park : FieldsBack.Statement (.park) := by
  intro _ f hf
  have hf := Option.some.inj hf
  have ho : f.opc.toNat = 0x37 := by rw [← hf]; rfl
  have hs : f.sub.toNat = 0 := by rw [← hf]; rfl
  rw [decControl ho (by decide), rowsControl, ho, hs]
  show checkRow (rN _ _ _ _ _ _ _ _ _ _ _ _ _ _) = _
  subst hf
  simp_all [row, checkRow, Fields.mk0, Fields.withPred, Fields.t, Fields.pred, Fields.masked, rN]

theorem FieldsBack.vadd (p : Pred) (ty : Ty) (d : VReg) (a : VReg) (b : VSrc) : FieldsBack.Statement (.vadd p ty d a b) := by
  intro h f hf
  replace h : (ty.isIS && vPairOK ty d && vPairOK ty a && b.ok ty) = true := h
  cases b
  all_goals
    have hf := Option.some.inj hf
    have ho : f.opc.toNat = 0x40 := by rw [← hf]; rfl
    have hs : f.sub.toNat = 0 := by rw [← hf]; rfl
    rw [decVector ho (by decide), rowsVector, ho, hs]
    show checkRow (rV3 _ _ _ _) = _
    subst hf
    simp_all [row, checkRow, Fields.mk0, Fields.withPred, Fields.t, Fields.pred, Fields.masked, rV3, eV3, Fields.vsrc, Fields.viRes]

theorem FieldsBack.vsub (p : Pred) (ty : Ty) (d : VReg) (a : VReg) (b : VSrc) : FieldsBack.Statement (.vsub p ty d a b) := by
  intro h f hf
  replace h : (ty.isIS && vPairOK ty d && vPairOK ty a && b.ok ty) = true := h
  cases b
  all_goals
    have hf := Option.some.inj hf
    have ho : f.opc.toNat = 0x41 := by rw [← hf]; rfl
    have hs : f.sub.toNat = 0 := by rw [← hf]; rfl
    rw [decVector ho (by decide), rowsVector, ho, hs]
    show checkRow (rV3 _ _ _ _) = _
    subst hf
    simp_all [row, checkRow, Fields.mk0, Fields.withPred, Fields.t, Fields.pred, Fields.masked, rV3, eV3, Fields.vsrc, Fields.viRes]

theorem FieldsBack.vmul (p : Pred) (ty : Ty) (d : VReg) (a : VReg) (b : VSrc) : FieldsBack.Statement (.vmul p ty d a b) := by
  intro h f hf
  replace h : (ty.isIS && vPairOK ty d && vPairOK ty a && b.ok ty) = true := h
  cases b
  all_goals
    have hf := Option.some.inj hf
    have ho : f.opc.toNat = 0x42 := by rw [← hf]; rfl
    have hs : f.sub.toNat = 0 := by rw [← hf]; rfl
    rw [decVector ho (by decide), rowsVector, ho, hs]
    show checkRow (rV3 _ _ _ _) = _
    subst hf
    simp_all [row, checkRow, Fields.mk0, Fields.withPred, Fields.t, Fields.pred, Fields.masked, rV3, eV3, Fields.vsrc, Fields.viRes]

theorem FieldsBack.vmulh (p : Pred) (ty : Ty) (d : VReg) (a : VReg) (b : VSrc) : FieldsBack.Statement (.vmulh p ty d a b) := by
  intro h f hf
  replace h : (ty.isIS && vPairOK ty d && vPairOK ty a && b.ok ty) = true := h
  cases b
  all_goals
    have hf := Option.some.inj hf
    have ho : f.opc.toNat = 0x42 := by rw [← hf]; rfl
    have hs : f.sub.toNat = 1 := by rw [← hf]; rfl
    rw [decVector ho (by decide), rowsVector, ho, hs]
    show checkRow (rV3 _ _ _ _) = _
    subst hf
    simp_all [row, checkRow, Fields.mk0, Fields.withPred, Fields.t, Fields.pred, Fields.masked, rV3, eV3, Fields.vsrc, Fields.viRes]

theorem FieldsBack.vmad (p : Pred) (ty : Ty) (d : VReg) (a : VReg) (b : VReg) (c : VReg) : FieldsBack.Statement (.vmad p ty d a b c) := by
  intro h f hf
  replace h : (ty.isIS && vPairOK ty d && vPairOK ty a && vPairOK ty b && vPairOK ty c) = true := h
  have hf := Option.some.inj hf
  have ho : f.opc.toNat = 0x43 := by rw [← hf]; rfl
  have hs : f.sub.toNat = 0 := by rw [← hf]; rfl
  rw [decVector ho (by decide), rowsVector, ho, hs]
  show checkRow (rV4 _ _ _) = _
  subst hf
  simp_all [row, checkRow, Fields.mk0, Fields.withPred, Fields.t, Fields.pred, Fields.masked, rV4, eV4]

theorem FieldsBack.vand (p : Pred) (ty : Ty) (d : VReg) (a : VReg) (b : VSrc) : FieldsBack.Statement (.vand p ty d a b) := by
  intro h f hf
  replace h : (ty.isBS && vPairOK ty d && vPairOK ty a && b.ok ty) = true := h
  cases b
  all_goals
    have hf := Option.some.inj hf
    have ho : f.opc.toNat = 0x44 := by rw [← hf]; rfl
    have hs : f.sub.toNat = 0 := by rw [← hf]; rfl
    rw [decVector ho (by decide), rowsVector, ho, hs]
    show checkRow (rV3 _ _ _ _) = _
    subst hf
    simp_all [row, checkRow, Fields.mk0, Fields.withPred, Fields.t, Fields.pred, Fields.masked, rV3, eV3, Fields.vsrc, Fields.viRes]

theorem FieldsBack.vor (p : Pred) (ty : Ty) (d : VReg) (a : VReg) (b : VSrc) : FieldsBack.Statement (.vor p ty d a b) := by
  intro h f hf
  replace h : (ty.isBS && vPairOK ty d && vPairOK ty a && b.ok ty) = true := h
  cases b
  all_goals
    have hf := Option.some.inj hf
    have ho : f.opc.toNat = 0x44 := by rw [← hf]; rfl
    have hs : f.sub.toNat = 1 := by rw [← hf]; rfl
    rw [decVector ho (by decide), rowsVector, ho, hs]
    show checkRow (rV3 _ _ _ _) = _
    subst hf
    simp_all [row, checkRow, Fields.mk0, Fields.withPred, Fields.t, Fields.pred, Fields.masked, rV3, eV3, Fields.vsrc, Fields.viRes]

theorem FieldsBack.vxor (p : Pred) (ty : Ty) (d : VReg) (a : VReg) (b : VSrc) : FieldsBack.Statement (.vxor p ty d a b) := by
  intro h f hf
  replace h : (ty.isBS && vPairOK ty d && vPairOK ty a && b.ok ty) = true := h
  cases b
  all_goals
    have hf := Option.some.inj hf
    have ho : f.opc.toNat = 0x44 := by rw [← hf]; rfl
    have hs : f.sub.toNat = 2 := by rw [← hf]; rfl
    rw [decVector ho (by decide), rowsVector, ho, hs]
    show checkRow (rV3 _ _ _ _) = _
    subst hf
    simp_all [row, checkRow, Fields.mk0, Fields.withPred, Fields.t, Fields.pred, Fields.masked, rV3, eV3, Fields.vsrc, Fields.viRes]

theorem FieldsBack.vandn (p : Pred) (ty : Ty) (d : VReg) (a : VReg) (b : VSrc) : FieldsBack.Statement (.vandn p ty d a b) := by
  intro h f hf
  replace h : (ty.isBS && vPairOK ty d && vPairOK ty a && b.ok ty) = true := h
  cases b
  all_goals
    have hf := Option.some.inj hf
    have ho : f.opc.toNat = 0x44 := by rw [← hf]; rfl
    have hs : f.sub.toNat = 3 := by rw [← hf]; rfl
    rw [decVector ho (by decide), rowsVector, ho, hs]
    show checkRow (rV3 _ _ _ _) = _
    subst hf
    simp_all [row, checkRow, Fields.mk0, Fields.withPred, Fields.t, Fields.pred, Fields.masked, rV3, eV3, Fields.vsrc, Fields.viRes]

theorem FieldsBack.vshl (p : Pred) (ty : Ty) (d : VReg) (a : VReg) (b : VSrc) : FieldsBack.Statement (.vshl p ty d a b) := by
  intro h f hf
  replace h : (ty.isBS && vPairOK ty d && vPairOK ty a && b.ok ty) = true := h
  cases b
  all_goals
    have hf := Option.some.inj hf
    have ho : f.opc.toNat = 0x45 := by rw [← hf]; rfl
    have hs : f.sub.toNat = 0 := by rw [← hf]; rfl
    rw [decVector ho (by decide), rowsVector, ho, hs]
    show checkRow (rV3 _ _ _ _) = _
    subst hf
    simp_all [row, checkRow, Fields.mk0, Fields.withPred, Fields.t, Fields.pred, Fields.masked, rV3, eV3, Fields.vsrc, Fields.viRes]

theorem FieldsBack.vshr (p : Pred) (ty : Ty) (d : VReg) (a : VReg) (b : VSrc) : FieldsBack.Statement (.vshr p ty d a b) := by
  intro h f hf
  replace h : (ty.isBS && vPairOK ty d && vPairOK ty a && b.ok ty) = true := h
  cases b
  all_goals
    have hf := Option.some.inj hf
    have ho : f.opc.toNat = 0x45 := by rw [← hf]; rfl
    have hs : f.sub.toNat = 1 := by rw [← hf]; rfl
    rw [decVector ho (by decide), rowsVector, ho, hs]
    show checkRow (rV3 _ _ _ _) = _
    subst hf
    simp_all [row, checkRow, Fields.mk0, Fields.withPred, Fields.t, Fields.pred, Fields.masked, rV3, eV3, Fields.vsrc, Fields.viRes]

theorem FieldsBack.vsra (p : Pred) (ty : Ty) (d : VReg) (a : VReg) (b : VSrc) : FieldsBack.Statement (.vsra p ty d a b) := by
  intro h f hf
  replace h : (ty.isBS && vPairOK ty d && vPairOK ty a && b.ok ty) = true := h
  cases b
  all_goals
    have hf := Option.some.inj hf
    have ho : f.opc.toNat = 0x45 := by rw [← hf]; rfl
    have hs : f.sub.toNat = 2 := by rw [← hf]; rfl
    rw [decVector ho (by decide), rowsVector, ho, hs]
    show checkRow (rV3 _ _ _ _) = _
    subst hf
    simp_all [row, checkRow, Fields.mk0, Fields.withPred, Fields.t, Fields.pred, Fields.masked, rV3, eV3, Fields.vsrc, Fields.viRes]

theorem FieldsBack.vrot (p : Pred) (ty : Ty) (d : VReg) (a : VReg) (b : VSrc) : FieldsBack.Statement (.vrot p ty d a b) := by
  intro h f hf
  replace h : (ty.isBS && vPairOK ty d && vPairOK ty a && b.ok ty) = true := h
  cases b
  all_goals
    have hf := Option.some.inj hf
    have ho : f.opc.toNat = 0x45 := by rw [← hf]; rfl
    have hs : f.sub.toNat = 3 := by rw [← hf]; rfl
    rw [decVector ho (by decide), rowsVector, ho, hs]
    show checkRow (rV3 _ _ _ _) = _
    subst hf
    simp_all [row, checkRow, Fields.mk0, Fields.withPred, Fields.t, Fields.pred, Fields.masked, rV3, eV3, Fields.vsrc, Fields.viRes]

theorem FieldsBack.vmin (p : Pred) (ty : Ty) (d : VReg) (a : VReg) (b : VSrc) : FieldsBack.Statement (.vmin p ty d a b) := by
  intro h f hf
  replace h : (ty.isIS && vPairOK ty d && vPairOK ty a && b.ok ty) = true := h
  cases b
  all_goals
    have hf := Option.some.inj hf
    have ho : f.opc.toNat = 0x46 := by rw [← hf]; rfl
    have hs : f.sub.toNat = 0 := by rw [← hf]; rfl
    rw [decVector ho (by decide), rowsVector, ho, hs]
    show checkRow (rV3 _ _ _ _) = _
    subst hf
    simp_all [row, checkRow, Fields.mk0, Fields.withPred, Fields.t, Fields.pred, Fields.masked, rV3, eV3, Fields.vsrc, Fields.viRes]

theorem FieldsBack.vmax (p : Pred) (ty : Ty) (d : VReg) (a : VReg) (b : VSrc) : FieldsBack.Statement (.vmax p ty d a b) := by
  intro h f hf
  replace h : (ty.isIS && vPairOK ty d && vPairOK ty a && b.ok ty) = true := h
  cases b
  all_goals
    have hf := Option.some.inj hf
    have ho : f.opc.toNat = 0x46 := by rw [← hf]; rfl
    have hs : f.sub.toNat = 1 := by rw [← hf]; rfl
    rw [decVector ho (by decide), rowsVector, ho, hs]
    show checkRow (rV3 _ _ _ _) = _
    subst hf
    simp_all [row, checkRow, Fields.mk0, Fields.withPred, Fields.t, Fields.pred, Fields.masked, rV3, eV3, Fields.vsrc, Fields.viRes]

theorem FieldsBack.vabs (p : Pred) (ty : Ty) (d : VReg) (a : VReg) : FieldsBack.Statement (.vabs p ty d a) := by
  intro h f hf
  replace h : (ty.isI && vPairOK ty d && vPairOK ty a) = true := h
  have hf := Option.some.inj hf
  have ho : f.opc.toNat = 0x47 := by rw [← hf]; rfl
  have hs : f.sub.toNat = 0 := by rw [← hf]; rfl
  rw [decVector ho (by decide), rowsVector, ho, hs]
  show checkRow (rV2 _ _ _) = _
  subst hf
  simp_all [row, checkRow, Fields.mk0, Fields.withPred, Fields.t, Fields.pred, Fields.masked, rV2, eV2]

theorem FieldsBack.vneg (p : Pred) (ty : Ty) (d : VReg) (a : VReg) : FieldsBack.Statement (.vneg p ty d a) := by
  intro h f hf
  replace h : (ty.isI && vPairOK ty d && vPairOK ty a) = true := h
  have hf := Option.some.inj hf
  have ho : f.opc.toNat = 0x47 := by rw [← hf]; rfl
  have hs : f.sub.toNat = 1 := by rw [← hf]; rfl
  rw [decVector ho (by decide), rowsVector, ho, hs]
  show checkRow (rV2 _ _ _) = _
  subst hf
  simp_all [row, checkRow, Fields.mk0, Fields.withPred, Fields.t, Fields.pred, Fields.masked, rV2, eV2]

theorem FieldsBack.vclz (p : Pred) (ty : Ty) (d : VReg) (a : VReg) : FieldsBack.Statement (.vclz p ty d a) := by
  intro h f hf
  replace h : (ty.isBS && vPairOK ty d && vPairOK ty a) = true := h
  have hf := Option.some.inj hf
  have ho : f.opc.toNat = 0x48 := by rw [← hf]; rfl
  have hs : f.sub.toNat = 0 := by rw [← hf]; rfl
  rw [decVector ho (by decide), rowsVector, ho, hs]
  show checkRow (rV2 _ _ _) = _
  subst hf
  simp_all [row, checkRow, Fields.mk0, Fields.withPred, Fields.t, Fields.pred, Fields.masked, rV2, eV2]

theorem FieldsBack.vpop (p : Pred) (ty : Ty) (d : VReg) (a : VReg) : FieldsBack.Statement (.vpop p ty d a) := by
  intro h f hf
  replace h : (ty.isBS && vPairOK ty d && vPairOK ty a) = true := h
  have hf := Option.some.inj hf
  have ho : f.opc.toNat = 0x48 := by rw [← hf]; rfl
  have hs : f.sub.toNat = 1 := by rw [← hf]; rfl
  rw [decVector ho (by decide), rowsVector, ho, hs]
  show checkRow (rV2 _ _ _) = _
  subst hf
  simp_all [row, checkRow, Fields.mk0, Fields.withPred, Fields.t, Fields.pred, Fields.masked, rV2, eV2]

theorem FieldsBack.vsel (p : Pred) (ty : Ty) (d : VReg) (a : VReg) (b : VReg) (c : MReg) : FieldsBack.Statement (.vsel p ty d a b c) := by
  intro h f hf
  replace h : (ty.isBS && vPairOK ty d && vPairOK ty a && vPairOK ty b) = true := h
  have hf := Option.some.inj hf
  have ho : f.opc.toNat = 0x49 := by rw [← hf]; rfl
  have hs : f.sub.toNat = 0 := by rw [← hf]; rfl
  rw [decVector ho (by decide), rowsVector, ho, hs]
  show checkRow (row _ _ _ _) = _
  subst hf
  simp_all [row, checkRow, Fields.mk0, Fields.withPred, Fields.t, Fields.pred, Fields.masked, eV3, eS2, eV2, eShfl, Fields.ssrc, Fields.vsrc, Fields.nsrc, Fields.viRes]

theorem FieldsBack.vcmp (p : Pred) (rel : BitVec 3) (ty : Ty) (d : MReg) (a : VReg) (b : VSrc) : FieldsBack.Statement (.vcmp p rel ty d a b) := by
  intro h f hf
  replace h : (decide (rel.toNat < 6) && ty.isIS && vPairOK ty a && b.ok ty) = true := h
  cases b
  all_goals
    have hf := Option.some.inj hf
    have ho : f.opc.toNat = 0x4a := by rw [← hf]; rfl
    rw [decVector ho (by decide), rowsVector, ho]
    have hs : f.sub.toNat < 6 := by rw [← hf]; exact (relation_toNat rel).symm ▸ (show rel.toNat < 6 by simp_all)
    simp only [hs, ↓reduceIte]
    show checkRow (rCmp _ _ _) = _
    subst hf
    simp_all [row, checkRow, Fields.mk0, Fields.withPred, Fields.t, Fields.pred, Fields.masked, rCmp, eCmp, Fields.vsrc, Fields.viRes, relation_toNat]

theorem FieldsBack.vmov (p : Pred) (ty : Ty) (d : VReg) (a : VReg) : FieldsBack.Statement (.vmov p ty d a) := by
  intro h f hf
  replace h : (ty.isBS && vPairOK ty d && vPairOK ty a) = true := h
  have hf := Option.some.inj hf
  have ho : f.opc.toNat = 0x4b := by rw [← hf]; rfl
  have hs : f.sub.toNat = 0 := by rw [← hf]; rfl
  rw [decVector ho (by decide), rowsVector, ho, hs]
  show checkRow (rV2 _ _ _) = _
  subst hf
  simp_all [row, checkRow, Fields.mk0, Fields.withPred, Fields.t, Fields.pred, Fields.masked, rV2, eV2]

theorem FieldsBack.vbcast (p : Pred) (ty : Ty) (d : VReg) (a : SReg) : FieldsBack.Statement (.vbcast p ty d a) := by
  intro h f hf
  replace h : (ty.isBS && vPairOK ty d) = true := h
  have hf := Option.some.inj hf
  have ho : f.opc.toNat = 0x4b := by rw [← hf]; rfl
  have hs : f.sub.toNat = 1 := by rw [← hf]; rfl
  rw [decVector ho (by decide), rowsVector, ho, hs]
  show checkRow (row _ _ _ _) = _
  subst hf
  simp_all [row, checkRow, Fields.mk0, Fields.withPred, Fields.t, Fields.pred, Fields.masked, eV3, eS2, eV2, eShfl, Fields.ssrc, Fields.vsrc, Fields.nsrc, Fields.viRes]

theorem FieldsBack.vmovi (p : Pred) (ty : Ty) (d : VReg) (imm : Word32) : FieldsBack.Statement (.vmovi p ty d imm) := by
  intro h f hf
  replace h : (ty.isBS && vPairOK ty d) = true := h
  have hf := Option.some.inj hf
  have ho : f.opc.toNat = 0x4b := by rw [← hf]; rfl
  have hs : f.sub.toNat = 2 := by rw [← hf]; rfl
  rw [decVector ho (by decide), rowsVector, ho, hs]
  show checkRow (row _ _ _ _) = _
  subst hf
  simp_all [row, checkRow, Fields.mk0, Fields.withPred, Fields.t, Fields.pred, Fields.masked, eV3, eS2, eV2, eShfl, Fields.ssrc, Fields.vsrc, Fields.nsrc, Fields.viRes]

theorem FieldsBack.vlane (p : Pred) (d : VReg) : FieldsBack.Statement (.vlane p d) := by
  intro _ f hf
  have hf := Option.some.inj hf
  have ho : f.opc.toNat = 0x4c := by rw [← hf]; rfl
  have hs : f.sub.toNat = 0 := by rw [← hf]; rfl
  rw [decVector ho (by decide), rowsVector, ho, hs]
  show checkRow (row _ _ _ _) = _
  subst hf
  simp_all [row, checkRow, Fields.mk0, Fields.withPred, Fields.t, Fields.pred, Fields.masked, eV3, eS2, eV2, eShfl, Fields.ssrc, Fields.vsrc, Fields.nsrc, Fields.viRes]

theorem FieldsBack.vadds (p : Pred) (ty : Ty) (d : VReg) (a : VReg) (b : VSrc) : FieldsBack.Statement (.vadds p ty d a b) := by
  intro h f hf
  replace h : (ty.isI32) = true := h
  have hp := pair_of_i32 h
  have h1 := i32_not_f16 h
  have h2 := i32_not_bf16 h
  cases b
  all_goals
    have hf := Option.some.inj hf
    have ho : f.opc.toNat = 0x4d := by rw [← hf]; rfl
    have hs : f.sub.toNat = 0 := by rw [← hf]; rfl
    rw [decVector ho (by decide), rowsVector, ho, hs]
    show checkRow (rV3 _ _ _ _) = _
    subst hf
    simp_all [row, checkRow, Fields.mk0, Fields.withPred, Fields.t, Fields.pred, Fields.masked, rV3, eV3, Fields.vsrc, Fields.viRes]

theorem FieldsBack.vsubs (p : Pred) (ty : Ty) (d : VReg) (a : VReg) (b : VSrc) : FieldsBack.Statement (.vsubs p ty d a b) := by
  intro h f hf
  replace h : (ty.isI32) = true := h
  have hp := pair_of_i32 h
  have h1 := i32_not_f16 h
  have h2 := i32_not_bf16 h
  cases b
  all_goals
    have hf := Option.some.inj hf
    have ho : f.opc.toNat = 0x4d := by rw [← hf]; rfl
    have hs : f.sub.toNat = 1 := by rw [← hf]; rfl
    rw [decVector ho (by decide), rowsVector, ho, hs]
    show checkRow (rV3 _ _ _ _) = _
    subst hf
    simp_all [row, checkRow, Fields.mk0, Fields.withPred, Fields.t, Fields.pred, Fields.masked, rV3, eV3, Fields.vsrc, Fields.viRes]

theorem FieldsBack.fadd (p : Pred) (ty : Ty) (d : VReg) (a : VReg) (b : VSrc) : FieldsBack.Statement (.fadd p ty d a b) := by
  intro h f hf
  replace h : (ty.isFS && vPairOK ty d && vPairOK ty a && b.ok ty) = true := h
  cases b
  all_goals
    have hf := Option.some.inj hf
    have ho : f.opc.toNat = 0x60 := by rw [← hf]; rfl
    have hs : f.sub.toNat = 0 := by rw [← hf]; rfl
    rw [decFloat ho (by decide), rowsFloat, ho, hs]
    show checkRow (rV3 _ _ _ _) = _
    subst hf
    simp_all [row, checkRow, Fields.mk0, Fields.withPred, Fields.t, Fields.pred, Fields.masked, rV3, eV3, Fields.vsrc, Fields.viRes]

theorem FieldsBack.fsub (p : Pred) (ty : Ty) (d : VReg) (a : VReg) (b : VSrc) : FieldsBack.Statement (.fsub p ty d a b) := by
  intro h f hf
  replace h : (ty.isFS && vPairOK ty d && vPairOK ty a && b.ok ty) = true := h
  cases b
  all_goals
    have hf := Option.some.inj hf
    have ho : f.opc.toNat = 0x61 := by rw [← hf]; rfl
    have hs : f.sub.toNat = 0 := by rw [← hf]; rfl
    rw [decFloat ho (by decide), rowsFloat, ho, hs]
    show checkRow (rV3 _ _ _ _) = _
    subst hf
    simp_all [row, checkRow, Fields.mk0, Fields.withPred, Fields.t, Fields.pred, Fields.masked, rV3, eV3, Fields.vsrc, Fields.viRes]

theorem FieldsBack.fmul (p : Pred) (ty : Ty) (d : VReg) (a : VReg) (b : VSrc) : FieldsBack.Statement (.fmul p ty d a b) := by
  intro h f hf
  replace h : (ty.isFS && vPairOK ty d && vPairOK ty a && b.ok ty) = true := h
  cases b
  all_goals
    have hf := Option.some.inj hf
    have ho : f.opc.toNat = 0x62 := by rw [← hf]; rfl
    have hs : f.sub.toNat = 0 := by rw [← hf]; rfl
    rw [decFloat ho (by decide), rowsFloat, ho, hs]
    show checkRow (rV3 _ _ _ _) = _
    subst hf
    simp_all [row, checkRow, Fields.mk0, Fields.withPred, Fields.t, Fields.pred, Fields.masked, rV3, eV3, Fields.vsrc, Fields.viRes]

theorem FieldsBack.fma (p : Pred) (ty : Ty) (d : VReg) (a : VReg) (b : VReg) (c : VReg) : FieldsBack.Statement (.fma p ty d a b c) := by
  intro h f hf
  replace h : (ty.isFS && vPairOK ty d && vPairOK ty a && vPairOK ty b && vPairOK ty c) = true := h
  have hf := Option.some.inj hf
  have ho : f.opc.toNat = 0x63 := by rw [← hf]; rfl
  have hs : f.sub.toNat = 0 := by rw [← hf]; rfl
  rw [decFloat ho (by decide), rowsFloat, ho, hs]
  show checkRow (rV4 _ _ _) = _
  subst hf
  simp_all [row, checkRow, Fields.mk0, Fields.withPred, Fields.t, Fields.pred, Fields.masked, rV4, eV4]

theorem FieldsBack.fms (p : Pred) (ty : Ty) (d : VReg) (a : VReg) (b : VReg) (c : VReg) : FieldsBack.Statement (.fms p ty d a b c) := by
  intro h f hf
  replace h : (ty.isFS && vPairOK ty d && vPairOK ty a && vPairOK ty b && vPairOK ty c) = true := h
  have hf := Option.some.inj hf
  have ho : f.opc.toNat = 0x63 := by rw [← hf]; rfl
  have hs : f.sub.toNat = 1 := by rw [← hf]; rfl
  rw [decFloat ho (by decide), rowsFloat, ho, hs]
  show checkRow (rV4 _ _ _) = _
  subst hf
  simp_all [row, checkRow, Fields.mk0, Fields.withPred, Fields.t, Fields.pred, Fields.masked, rV4, eV4]

theorem FieldsBack.fnma (p : Pred) (ty : Ty) (d : VReg) (a : VReg) (b : VReg) (c : VReg) : FieldsBack.Statement (.fnma p ty d a b c) := by
  intro h f hf
  replace h : (ty.isFS && vPairOK ty d && vPairOK ty a && vPairOK ty b && vPairOK ty c) = true := h
  have hf := Option.some.inj hf
  have ho : f.opc.toNat = 0x63 := by rw [← hf]; rfl
  have hs : f.sub.toNat = 2 := by rw [← hf]; rfl
  rw [decFloat ho (by decide), rowsFloat, ho, hs]
  show checkRow (rV4 _ _ _) = _
  subst hf
  simp_all [row, checkRow, Fields.mk0, Fields.withPred, Fields.t, Fields.pred, Fields.masked, rV4, eV4]

theorem FieldsBack.fnms (p : Pred) (ty : Ty) (d : VReg) (a : VReg) (b : VReg) (c : VReg) : FieldsBack.Statement (.fnms p ty d a b c) := by
  intro h f hf
  replace h : (ty.isFS && vPairOK ty d && vPairOK ty a && vPairOK ty b && vPairOK ty c) = true := h
  have hf := Option.some.inj hf
  have ho : f.opc.toNat = 0x63 := by rw [← hf]; rfl
  have hs : f.sub.toNat = 3 := by rw [← hf]; rfl
  rw [decFloat ho (by decide), rowsFloat, ho, hs]
  show checkRow (rV4 _ _ _) = _
  subst hf
  simp_all [row, checkRow, Fields.mk0, Fields.withPred, Fields.t, Fields.pred, Fields.masked, rV4, eV4]

theorem FieldsBack.fmin (p : Pred) (ty : Ty) (d : VReg) (a : VReg) (b : VSrc) : FieldsBack.Statement (.fmin p ty d a b) := by
  intro h f hf
  replace h : (ty.isFS && vPairOK ty d && vPairOK ty a && b.ok ty) = true := h
  cases b
  all_goals
    have hf := Option.some.inj hf
    have ho : f.opc.toNat = 0x64 := by rw [← hf]; rfl
    have hs : f.sub.toNat = 0 := by rw [← hf]; rfl
    rw [decFloat ho (by decide), rowsFloat, ho, hs]
    show checkRow (rV3 _ _ _ _) = _
    subst hf
    simp_all [row, checkRow, Fields.mk0, Fields.withPred, Fields.t, Fields.pred, Fields.masked, rV3, eV3, Fields.vsrc, Fields.viRes]

theorem FieldsBack.fmax (p : Pred) (ty : Ty) (d : VReg) (a : VReg) (b : VSrc) : FieldsBack.Statement (.fmax p ty d a b) := by
  intro h f hf
  replace h : (ty.isFS && vPairOK ty d && vPairOK ty a && b.ok ty) = true := h
  cases b
  all_goals
    have hf := Option.some.inj hf
    have ho : f.opc.toNat = 0x64 := by rw [← hf]; rfl
    have hs : f.sub.toNat = 1 := by rw [← hf]; rfl
    rw [decFloat ho (by decide), rowsFloat, ho, hs]
    show checkRow (rV3 _ _ _ _) = _
    subst hf
    simp_all [row, checkRow, Fields.mk0, Fields.withPred, Fields.t, Fields.pred, Fields.masked, rV3, eV3, Fields.vsrc, Fields.viRes]

theorem FieldsBack.fminnum (p : Pred) (ty : Ty) (d : VReg) (a : VReg) (b : VSrc) : FieldsBack.Statement (.fminnum p ty d a b) := by
  intro h f hf
  replace h : (ty.isFS && vPairOK ty d && vPairOK ty a && b.ok ty) = true := h
  cases b
  all_goals
    have hf := Option.some.inj hf
    have ho : f.opc.toNat = 0x64 := by rw [← hf]; rfl
    have hs : f.sub.toNat = 2 := by rw [← hf]; rfl
    rw [decFloat ho (by decide), rowsFloat, ho, hs]
    show checkRow (rV3 _ _ _ _) = _
    subst hf
    simp_all [row, checkRow, Fields.mk0, Fields.withPred, Fields.t, Fields.pred, Fields.masked, rV3, eV3, Fields.vsrc, Fields.viRes]

theorem FieldsBack.fmaxnum (p : Pred) (ty : Ty) (d : VReg) (a : VReg) (b : VSrc) : FieldsBack.Statement (.fmaxnum p ty d a b) := by
  intro h f hf
  replace h : (ty.isFS && vPairOK ty d && vPairOK ty a && b.ok ty) = true := h
  cases b
  all_goals
    have hf := Option.some.inj hf
    have ho : f.opc.toNat = 0x64 := by rw [← hf]; rfl
    have hs : f.sub.toNat = 3 := by rw [← hf]; rfl
    rw [decFloat ho (by decide), rowsFloat, ho, hs]
    show checkRow (rV3 _ _ _ _) = _
    subst hf
    simp_all [row, checkRow, Fields.mk0, Fields.withPred, Fields.t, Fields.pred, Fields.masked, rV3, eV3, Fields.vsrc, Fields.viRes]

theorem FieldsBack.fabs (p : Pred) (ty : Ty) (d : VReg) (a : VReg) : FieldsBack.Statement (.fabs p ty d a) := by
  intro h f hf
  replace h : (ty.isFS && vPairOK ty d && vPairOK ty a) = true := h
  have hf := Option.some.inj hf
  have ho : f.opc.toNat = 0x65 := by rw [← hf]; rfl
  have hs : f.sub.toNat = 0 := by rw [← hf]; rfl
  rw [decFloat ho (by decide), rowsFloat, ho, hs]
  show checkRow (rV2 _ _ _) = _
  subst hf
  simp_all [row, checkRow, Fields.mk0, Fields.withPred, Fields.t, Fields.pred, Fields.masked, rV2, eV2]

theorem FieldsBack.fneg (p : Pred) (ty : Ty) (d : VReg) (a : VReg) : FieldsBack.Statement (.fneg p ty d a) := by
  intro h f hf
  replace h : (ty.isFS && vPairOK ty d && vPairOK ty a) = true := h
  have hf := Option.some.inj hf
  have ho : f.opc.toNat = 0x65 := by rw [← hf]; rfl
  have hs : f.sub.toNat = 1 := by rw [← hf]; rfl
  rw [decFloat ho (by decide), rowsFloat, ho, hs]
  show checkRow (rV2 _ _ _) = _
  subst hf
  simp_all [row, checkRow, Fields.mk0, Fields.withPred, Fields.t, Fields.pred, Fields.masked, rV2, eV2]

theorem FieldsBack.fcopysign (p : Pred) (ty : Ty) (d : VReg) (a : VReg) (b : VReg) : FieldsBack.Statement (.fcopysign p ty d a b) := by
  intro h f hf
  replace h : (ty.isFS && vPairOK ty d && vPairOK ty a && vPairOK ty b) = true := h
  have hf := Option.some.inj hf
  have ho : f.opc.toNat = 0x65 := by rw [← hf]; rfl
  have hs : f.sub.toNat = 2 := by rw [← hf]; rfl
  rw [decFloat ho (by decide), rowsFloat, ho, hs]
  show checkRow (rVB _ _ _) = _
  subst hf
  simp_all [row, checkRow, Fields.mk0, Fields.withPred, Fields.t, Fields.pred, Fields.masked, rVB, eV2]

theorem FieldsBack.fcmp (p : Pred) (rel : BitVec 3) (ty : Ty) (d : MReg) (a : VReg) (b : VSrc) : FieldsBack.Statement (.fcmp p rel ty d a b) := by
  intro h f hf
  replace h : (ty.isFS && vPairOK ty a && b.ok ty) = true := h
  cases b
  all_goals
    have hf := Option.some.inj hf
    have ho : f.opc.toNat = 0x66 := by rw [← hf]; rfl
    rw [decFloat ho (by decide), rowsFloat, ho]
    have hs : f.sub.toNat < 8 := by rw [← hf]; exact (relation_toNat rel).symm ▸ rel.isLt
    simp only [hs, ↓reduceIte]
    show checkRow (rCmp _ _ _) = _
    subst hf
    simp_all [row, checkRow, Fields.mk0, Fields.withPred, Fields.t, Fields.pred, Fields.masked, rCmp, eCmp, Fields.vsrc, Fields.viRes, relation_toNat]

theorem FieldsBack.fclass (p : Pred) (ty : Ty) (d : VReg) (a : VReg) : FieldsBack.Statement (.fclass p ty d a) := by
  intro h f hf
  replace h : (ty.isFS && vPairOK ty d && vPairOK ty a) = true := h
  have hf := Option.some.inj hf
  have ho : f.opc.toNat = 0x67 := by rw [← hf]; rfl
  have hs : f.sub.toNat = 0 := by rw [← hf]; rfl
  rw [decFloat ho (by decide), rowsFloat, ho, hs]
  show checkRow (rV2 _ _ _) = _
  subst hf
  simp_all [row, checkRow, Fields.mk0, Fields.withPred, Fields.t, Fields.pred, Fields.masked, rV2, eV2]

theorem FieldsBack.frnd (p : Pred) (ty : Ty) (d : VReg) (a : VReg) (mode : BitVec 3) : FieldsBack.Statement (.frnd p ty d a mode) := by
  intro h f hf
  replace h : (ty.isFS && vPairOK ty d && vPairOK ty a) = true := h
  have hf := Option.some.inj hf
  have ho : f.opc.toNat = 0x68 := by rw [← hf]; rfl
  have hs : f.sub.toNat = 0 := by rw [← hf]; rfl
  rw [decFloat ho (by decide), rowsFloat, ho, hs]
  show checkRow (row _ _ _ _) = _
  subst hf
  simp_all [row, checkRow, Fields.mk0, Fields.withPred, Fields.t, Fields.pred, Fields.masked, eV3, eS2, eV2, eShfl, Fields.ssrc, Fields.vsrc, Fields.nsrc, Fields.viRes]

theorem FieldsBack.frcp (p : Pred) (ty : Ty) (d : VReg) (a : VReg) : FieldsBack.Statement (.frcp p ty d a) := by
  intro h f hf
  replace h : (ty.isSpecial) = true := h
  have hp := pair_of_special h
  have hf := Option.some.inj hf
  have ho : f.opc.toNat = 0x69 := by rw [← hf]; rfl
  have hs : f.sub.toNat = 0 := by rw [← hf]; rfl
  rw [decFloat ho (by decide), rowsFloat, ho, hs]
  show checkRow (rV2 _ _ _) = _
  subst hf
  simp_all [row, checkRow, Fields.mk0, Fields.withPred, Fields.t, Fields.pred, Fields.masked, rV2, eV2]

theorem FieldsBack.frsq (p : Pred) (ty : Ty) (d : VReg) (a : VReg) : FieldsBack.Statement (.frsq p ty d a) := by
  intro h f hf
  replace h : (ty.isSpecial) = true := h
  have hp := pair_of_special h
  have hf := Option.some.inj hf
  have ho : f.opc.toNat = 0x69 := by rw [← hf]; rfl
  have hs : f.sub.toNat = 1 := by rw [← hf]; rfl
  rw [decFloat ho (by decide), rowsFloat, ho, hs]
  show checkRow (rV2 _ _ _) = _
  subst hf
  simp_all [row, checkRow, Fields.mk0, Fields.withPred, Fields.t, Fields.pred, Fields.masked, rV2, eV2]

theorem FieldsBack.fsqrt (p : Pred) (ty : Ty) (d : VReg) (a : VReg) : FieldsBack.Statement (.fsqrt p ty d a) := by
  intro h f hf
  replace h : ((ty.isSpecial || ty == .f64) && vPairOK ty d && vPairOK ty a) = true := h
  have hf := Option.some.inj hf
  have ho : f.opc.toNat = 0x69 := by rw [← hf]; rfl
  have hs : f.sub.toNat = 2 := by rw [← hf]; rfl
  rw [decFloat ho (by decide), rowsFloat, ho, hs]
  show checkRow (rV2 _ _ _) = _
  subst hf
  simp_all [row, checkRow, Fields.mk0, Fields.withPred, Fields.t, Fields.pred, Fields.masked, rV2, eV2]

theorem FieldsBack.fexp2 (p : Pred) (ty : Ty) (d : VReg) (a : VReg) : FieldsBack.Statement (.fexp2 p ty d a) := by
  intro h f hf
  replace h : (ty.isSpecial) = true := h
  have hp := pair_of_special h
  have hf := Option.some.inj hf
  have ho : f.opc.toNat = 0x69 := by rw [← hf]; rfl
  have hs : f.sub.toNat = 3 := by rw [← hf]; rfl
  rw [decFloat ho (by decide), rowsFloat, ho, hs]
  show checkRow (rV2 _ _ _) = _
  subst hf
  simp_all [row, checkRow, Fields.mk0, Fields.withPred, Fields.t, Fields.pred, Fields.masked, rV2, eV2]

theorem FieldsBack.flog2 (p : Pred) (ty : Ty) (d : VReg) (a : VReg) : FieldsBack.Statement (.flog2 p ty d a) := by
  intro h f hf
  replace h : (ty.isSpecial) = true := h
  have hp := pair_of_special h
  have hf := Option.some.inj hf
  have ho : f.opc.toNat = 0x69 := by rw [← hf]; rfl
  have hs : f.sub.toNat = 4 := by rw [← hf]; rfl
  rw [decFloat ho (by decide), rowsFloat, ho, hs]
  show checkRow (rV2 _ _ _) = _
  subst hf
  simp_all [row, checkRow, Fields.mk0, Fields.withPred, Fields.t, Fields.pred, Fields.masked, rV2, eV2]

theorem FieldsBack.fsin (p : Pred) (ty : Ty) (d : VReg) (a : VReg) : FieldsBack.Statement (.fsin p ty d a) := by
  intro h f hf
  replace h : (ty.isSpecial) = true := h
  have hp := pair_of_special h
  have hf := Option.some.inj hf
  have ho : f.opc.toNat = 0x69 := by rw [← hf]; rfl
  have hs : f.sub.toNat = 5 := by rw [← hf]; rfl
  rw [decFloat ho (by decide), rowsFloat, ho, hs]
  show checkRow (rV2 _ _ _) = _
  subst hf
  simp_all [row, checkRow, Fields.mk0, Fields.withPred, Fields.t, Fields.pred, Fields.masked, rV2, eV2]

theorem FieldsBack.fcos (p : Pred) (ty : Ty) (d : VReg) (a : VReg) : FieldsBack.Statement (.fcos p ty d a) := by
  intro h f hf
  replace h : (ty.isSpecial) = true := h
  have hp := pair_of_special h
  have hf := Option.some.inj hf
  have ho : f.opc.toNat = 0x69 := by rw [← hf]; rfl
  have hs : f.sub.toNat = 6 := by rw [← hf]; rfl
  rw [decFloat ho (by decide), rowsFloat, ho, hs]
  show checkRow (rV2 _ _ _) = _
  subst hf
  simp_all [row, checkRow, Fields.mk0, Fields.withPred, Fields.t, Fields.pred, Fields.masked, rV2, eV2]

theorem FieldsBack.ftanh (p : Pred) (ty : Ty) (d : VReg) (a : VReg) : FieldsBack.Statement (.ftanh p ty d a) := by
  intro h f hf
  replace h : (ty.isSpecial) = true := h
  have hp := pair_of_special h
  have hf := Option.some.inj hf
  have ho : f.opc.toNat = 0x69 := by rw [← hf]; rfl
  have hs : f.sub.toNat = 7 := by rw [← hf]; rfl
  rw [decFloat ho (by decide), rowsFloat, ho, hs]
  show checkRow (rV2 _ _ _) = _
  subst hf
  simp_all [row, checkRow, Fields.mk0, Fields.withPred, Fields.t, Fields.pred, Fields.masked, rV2, eV2]

theorem FieldsBack.fdiv (p : Pred) (ty : Ty) (d : VReg) (a : VReg) (b : VReg) : FieldsBack.Statement (.fdiv p ty d a b) := by
  intro h f hf
  replace h : (ty.isF3264 && vPairOK ty d && vPairOK ty a && vPairOK ty b) = true := h
  have hf := Option.some.inj hf
  have ho : f.opc.toNat = 0x6a := by rw [← hf]; rfl
  have hs : f.sub.toNat = 0 := by rw [← hf]; rfl
  rw [decFloat ho (by decide), rowsFloat, ho, hs]
  show checkRow (rVB _ _ _) = _
  subst hf
  simp_all [row, checkRow, Fields.mk0, Fields.withPred, Fields.t, Fields.pred, Fields.masked, rVB, eV2]

theorem FieldsBack.fscale (p : Pred) (ty : Ty) (d : VReg) (a : VReg) (b : VSrc) : FieldsBack.Statement (.fscale p ty d a b) := by
  intro h f hf
  replace h : (ty.isFS && vPairOK ty d && vPairOK ty a) = true := h
  cases b
  all_goals
    have hf := Option.some.inj hf
    have ho : f.opc.toNat = 0x6b := by rw [← hf]; rfl
    have hs : f.sub.toNat = 0 := by rw [← hf]; rfl
    rw [decFloat ho (by decide), rowsFloat, ho, hs]
    show checkRow (row _ _ _ _) = _
    subst hf
    simp_all [row, checkRow, Fields.mk0, Fields.withPred, Fields.t, Fields.pred, Fields.masked, eV3, eS2, eV2, eShfl, Fields.ssrc, Fields.vsrc, Fields.nsrc, Fields.viRes]

theorem FieldsBack.cvt (p : Pred) (ty : Ty) (src : Ty) (d : VReg) (a : VReg) : FieldsBack.Statement (.cvt p ty src d a) := by
  intro h f hf
  replace h : (ty.isCvt && src.isCvt && vPairOK ty d && vPairOK src a) = true := h
  have hf := Option.some.inj hf
  have ho : f.opc.toNat = 0x80 := by rw [← hf]; rfl
  have hs : f.sub.toNat = 0 := by rw [← hf]; rfl
  rw [decCollective ho (by decide), rowsCollective, ho, hs]
  show checkRow (row _ _ _ _) = _
  subst hf
  simp_all [row, checkRow, Fields.mk0, Fields.withPred, Fields.t, Fields.pred, Fields.masked, eV3, eS2, eV2, eShfl, Fields.ssrc, Fields.vsrc, Fields.nsrc, Fields.viRes]

theorem FieldsBack.cvtb (p : Pred) (ty : Ty) (code : BitVec 4) (d : VReg) (a : VReg) : FieldsBack.Statement (.cvtb p ty code d a) := by
  intro h f hf
  replace h : ty.isSpecial = true ∧ (code = 2#4 ∨ code = 3#4 ∨ code = 4#4) := by simpa [or_assoc] using (show (ty.isSpecial && (code == 2#4 || code == 3#4 || code == 4#4)) = true from h)
  obtain ⟨h, rfl | rfl | rfl⟩ := h
  all_goals
    have hf := Option.some.inj hf
    have ho : f.opc.toNat = 0x81 := by rw [← hf]; rfl
    have hs : f.sub.toNat = 0 := by rw [← hf]; rfl
    rw [decCollective ho (by decide), rowsCollective, ho, hs]
    show checkRow (row _ _ _ _) = _
    subst hf
    simp_all [row, checkRow, Fields.mk0, Fields.withPred, Fields.t, Fields.pred, Fields.masked, eV3, eS2, eV2, eShfl, Fields.ssrc, Fields.vsrc, Fields.nsrc, Fields.viRes]

theorem FieldsBack.pack (p : Pred) (ty : Ty) (src : Ty) (d : VReg) (a : VReg) (b : VReg) : FieldsBack.Statement (.pack p ty src d a b) := by
  intro h f hf
  replace h : (ty.isPack && src.isPackSrc) = true := h
  have hf := Option.some.inj hf
  have ho : f.opc.toNat = 0x82 := by rw [← hf]; rfl
  have hs : f.sub.toNat = 0 := by rw [← hf]; rfl
  rw [decCollective ho (by decide), rowsCollective, ho, hs]
  show checkRow (row _ _ _ _) = _
  subst hf
  simp_all [row, checkRow, Fields.mk0, Fields.withPred, Fields.t, Fields.pred, Fields.masked, eV3, eS2, eV2, eShfl, Fields.ssrc, Fields.vsrc, Fields.nsrc, Fields.viRes]

theorem FieldsBack.unpack (p : Pred) (ty : Ty) (dst : Ty) (part : BitVec 2) (d : VReg) (a : VReg) : FieldsBack.Statement (.unpack p ty dst part d a) := by
  intro h f hf
  replace h : (ty.isPack && dst.isUnpackDst && unpackPartOK ty part) = true := h
  have hf := Option.some.inj hf
  have ho : f.opc.toNat = 0x83 := by rw [← hf]; rfl
  have hs : f.sub.toNat = 0 := by rw [← hf]; rfl
  rw [decCollective ho (by decide), rowsCollective, ho, hs]
  show checkRow (row _ _ _ _) = _
  subst hf
  simp_all [row, checkRow, Fields.mk0, Fields.withPred, Fields.t, Fields.pred, Fields.masked, eV3, eS2, eV2, eShfl, Fields.ssrc, Fields.vsrc, Fields.nsrc, Fields.viRes]

theorem FieldsBack.shflIdx (p : Pred) (ty : Ty) (d : VReg) (a : VReg) (b : VReg) : FieldsBack.Statement (.shflIdx p ty d a b) := by
  intro h f hf
  replace h : (ty.isBS && vPairOK ty d && vPairOK ty a) = true := h
  have hf := Option.some.inj hf
  have ho : f.opc.toNat = 0x84 := by rw [← hf]; rfl
  have hs : f.sub.toNat = 0 := by rw [← hf]; rfl
  rw [decCollective ho (by decide), rowsCollective, ho, hs]
  show checkRow (row _ _ _ _) = _
  subst hf
  simp_all [row, checkRow, Fields.mk0, Fields.withPred, Fields.t, Fields.pred, Fields.masked, eV3, eS2, eV2, eShfl, Fields.ssrc, Fields.vsrc, Fields.nsrc, Fields.viRes]

theorem FieldsBack.shflUp (p : Pred) (ty : Ty) (d : VReg) (a : VReg) (b : SSrc) : FieldsBack.Statement (.shflUp p ty d a b) := by
  intro h f hf
  replace h : (ty.isBS && vPairOK ty d && vPairOK ty a) = true := h
  cases b
  all_goals
    have hf := Option.some.inj hf
    have ho : f.opc.toNat = 0x84 := by rw [← hf]; rfl
    have hs : f.sub.toNat = 1 := by rw [← hf]; rfl
    rw [decCollective ho (by decide), rowsCollective, ho, hs]
    show checkRow (row _ _ _ _) = _
    subst hf
    simp_all [row, checkRow, Fields.mk0, Fields.withPred, Fields.t, Fields.pred, Fields.masked, eV3, eS2, eV2, eShfl, Fields.ssrc, Fields.vsrc, Fields.nsrc, Fields.viRes]

theorem FieldsBack.shflDn (p : Pred) (ty : Ty) (d : VReg) (a : VReg) (b : SSrc) : FieldsBack.Statement (.shflDn p ty d a b) := by
  intro h f hf
  replace h : (ty.isBS && vPairOK ty d && vPairOK ty a) = true := h
  cases b
  all_goals
    have hf := Option.some.inj hf
    have ho : f.opc.toNat = 0x84 := by rw [← hf]; rfl
    have hs : f.sub.toNat = 2 := by rw [← hf]; rfl
    rw [decCollective ho (by decide), rowsCollective, ho, hs]
    show checkRow (row _ _ _ _) = _
    subst hf
    simp_all [row, checkRow, Fields.mk0, Fields.withPred, Fields.t, Fields.pred, Fields.masked, eV3, eS2, eV2, eShfl, Fields.ssrc, Fields.vsrc, Fields.nsrc, Fields.viRes]

theorem FieldsBack.shflXor (p : Pred) (ty : Ty) (d : VReg) (a : VReg) (b : SSrc) : FieldsBack.Statement (.shflXor p ty d a b) := by
  intro h f hf
  replace h : (ty.isBS && vPairOK ty d && vPairOK ty a) = true := h
  cases b
  all_goals
    have hf := Option.some.inj hf
    have ho : f.opc.toNat = 0x84 := by rw [← hf]; rfl
    have hs : f.sub.toNat = 3 := by rw [← hf]; rfl
    rw [decCollective ho (by decide), rowsCollective, ho, hs]
    show checkRow (row _ _ _ _) = _
    subst hf
    simp_all [row, checkRow, Fields.mk0, Fields.withPred, Fields.t, Fields.pred, Fields.masked, eV3, eS2, eV2, eShfl, Fields.ssrc, Fields.vsrc, Fields.nsrc, Fields.viRes]

theorem FieldsBack.voteAll (p : Pred) (d : MReg) (a : MReg) : FieldsBack.Statement (.voteAll p d a) := by
  intro _ f hf
  have hf := Option.some.inj hf
  have ho : f.opc.toNat = 0x85 := by rw [← hf]; rfl
  have hs : f.sub.toNat = 0 := by rw [← hf]; rfl
  rw [decCollective ho (by decide), rowsCollective, ho, hs]
  show checkRow (row _ _ _ _) = _
  subst hf
  simp_all [row, checkRow, Fields.mk0, Fields.withPred, Fields.t, Fields.pred, Fields.masked, eV3, eS2, eV2, eShfl, Fields.ssrc, Fields.vsrc, Fields.nsrc, Fields.viRes]

theorem FieldsBack.voteAny (p : Pred) (d : MReg) (a : MReg) : FieldsBack.Statement (.voteAny p d a) := by
  intro _ f hf
  have hf := Option.some.inj hf
  have ho : f.opc.toNat = 0x85 := by rw [← hf]; rfl
  have hs : f.sub.toNat = 1 := by rw [← hf]; rfl
  rw [decCollective ho (by decide), rowsCollective, ho, hs]
  show checkRow (row _ _ _ _) = _
  subst hf
  simp_all [row, checkRow, Fields.mk0, Fields.withPred, Fields.t, Fields.pred, Fields.masked, eV3, eS2, eV2, eShfl, Fields.ssrc, Fields.vsrc, Fields.nsrc, Fields.viRes]

theorem FieldsBack.voteEq (p : Pred) (ty : Ty) (d : MReg) (a : VReg) : FieldsBack.Statement (.voteEq p ty d a) := by
  intro h f hf
  replace h : (ty.isBS && vPairOK ty a) = true := h
  have hf := Option.some.inj hf
  have ho : f.opc.toNat = 0x85 := by rw [← hf]; rfl
  have hs : f.sub.toNat = 2 := by rw [← hf]; rfl
  rw [decCollective ho (by decide), rowsCollective, ho, hs]
  show checkRow (row _ _ _ _) = _
  subst hf
  simp_all [row, checkRow, Fields.mk0, Fields.withPred, Fields.t, Fields.pred, Fields.masked, eV3, eS2, eV2, eShfl, Fields.ssrc, Fields.vsrc, Fields.nsrc, Fields.viRes]

theorem FieldsBack.voteBallot (p : Pred) (d : SReg) (a : MReg) : FieldsBack.Statement (.voteBallot p d a) := by
  intro _ f hf
  have hf := Option.some.inj hf
  have ho : f.opc.toNat = 0x85 := by rw [← hf]; rfl
  have hs : f.sub.toNat = 3 := by rw [← hf]; rfl
  rw [decCollective ho (by decide), rowsCollective, ho, hs]
  show checkRow (row _ _ _ _) = _
  subst hf
  simp_all [row, checkRow, Fields.mk0, Fields.withPred, Fields.t, Fields.pred, Fields.masked, eV3, eS2, eV2, eShfl, Fields.ssrc, Fields.vsrc, Fields.nsrc, Fields.viRes]

theorem FieldsBack.reds (p : Pred) (op : RedOp) (ty : Ty) (d : QReg) (a : VReg) : FieldsBack.Statement (.reds p op ty d a) := by
  intro h f hf
  replace h : (op.tyOK ty && vPairOK ty a) = true := h
  have hf := Option.some.inj hf
  have ho : f.opc.toNat = 0x86 := by rw [← hf]; rfl
  rw [decCollective ho (by decide), rowsCollective, ho]
  have hs : f.sub.toNat < 6 := by rw [← hf]; exact redCode_lt op
  simp only [hs, ↓reduceIte]
  show checkRow (row _ _ _ _) = _
  subst hf
  simp_all [row, checkRow, Fields.mk0, Fields.withPred, Fields.t, Fields.pred, Fields.masked, eV3, eS2, eV2, eShfl, Fields.ssrc, Fields.vsrc, Fields.nsrc, Fields.viRes]

theorem FieldsBack.scan (p : Pred) (op : RedOp) (ty : Ty) (excl : Bool) (d : VReg) (a : VReg) : FieldsBack.Statement (.scan p op ty excl d a) := by
  intro h f hf
  replace h : (op.tyOK ty && vPairOK ty d && vPairOK ty a) = true := h
  have hf := Option.some.inj hf
  have ho : f.opc.toNat = 0x87 := by rw [← hf]; rfl
  rw [decCollective ho (by decide), rowsCollective, ho]
  have hs : f.sub.toNat < 6 := by rw [← hf]; exact redCode_lt op
  simp only [hs, ↓reduceIte]
  show checkRow (row _ _ _ _) = _
  subst hf
  simp_all [row, checkRow, Fields.mk0, Fields.withPred, Fields.t, Fields.pred, Fields.masked, eV3, eS2, eV2, eShfl, Fields.ssrc, Fields.vsrc, Fields.nsrc, Fields.viRes]

theorem FieldsBack.mand (p : Pred) (d : MReg) (a : MReg) (b : MReg) : FieldsBack.Statement (.mand p d a b) := by
  intro _ f hf
  have hf := Option.some.inj hf
  have ho : f.opc.toNat = 0x88 := by rw [← hf]; rfl
  have hs : f.sub.toNat = 0 := by rw [← hf]; rfl
  rw [decCollective ho (by decide), rowsCollective, ho, hs]
  show checkRow (row _ _ _ _) = _
  subst hf
  simp_all [row, checkRow, Fields.mk0, Fields.withPred, Fields.t, Fields.pred, Fields.masked, eV3, eS2, eV2, eShfl, Fields.ssrc, Fields.vsrc, Fields.nsrc, Fields.viRes]

theorem FieldsBack.mor (p : Pred) (d : MReg) (a : MReg) (b : MReg) : FieldsBack.Statement (.mor p d a b) := by
  intro _ f hf
  have hf := Option.some.inj hf
  have ho : f.opc.toNat = 0x88 := by rw [← hf]; rfl
  have hs : f.sub.toNat = 1 := by rw [← hf]; rfl
  rw [decCollective ho (by decide), rowsCollective, ho, hs]
  show checkRow (row _ _ _ _) = _
  subst hf
  simp_all [row, checkRow, Fields.mk0, Fields.withPred, Fields.t, Fields.pred, Fields.masked, eV3, eS2, eV2, eShfl, Fields.ssrc, Fields.vsrc, Fields.nsrc, Fields.viRes]

theorem FieldsBack.mxor (p : Pred) (d : MReg) (a : MReg) (b : MReg) : FieldsBack.Statement (.mxor p d a b) := by
  intro _ f hf
  have hf := Option.some.inj hf
  have ho : f.opc.toNat = 0x88 := by rw [← hf]; rfl
  have hs : f.sub.toNat = 2 := by rw [← hf]; rfl
  rw [decCollective ho (by decide), rowsCollective, ho, hs]
  show checkRow (row _ _ _ _) = _
  subst hf
  simp_all [row, checkRow, Fields.mk0, Fields.withPred, Fields.t, Fields.pred, Fields.masked, eV3, eS2, eV2, eShfl, Fields.ssrc, Fields.vsrc, Fields.nsrc, Fields.viRes]

theorem FieldsBack.mnot (p : Pred) (d : MReg) (a : MReg) : FieldsBack.Statement (.mnot p d a) := by
  intro _ f hf
  have hf := Option.some.inj hf
  have ho : f.opc.toNat = 0x88 := by rw [← hf]; rfl
  have hs : f.sub.toNat = 3 := by rw [← hf]; rfl
  rw [decCollective ho (by decide), rowsCollective, ho, hs]
  show checkRow (row _ _ _ _) = _
  subst hf
  simp_all [row, checkRow, Fields.mk0, Fields.withPred, Fields.t, Fields.pred, Fields.masked, eV3, eS2, eV2, eShfl, Fields.ssrc, Fields.vsrc, Fields.nsrc, Fields.viRes]

theorem FieldsBack.mmovMask (p : Pred) (d : MReg) (a : MReg) : FieldsBack.Statement (.mmovMask p d a) := by
  intro _ f hf
  have hf := Option.some.inj hf
  have ho : f.opc.toNat = 0x89 := by rw [← hf]; rfl
  have hs : f.sub.toNat = 0 := by rw [← hf]; rfl
  rw [decCollective ho (by decide), rowsCollective, ho, hs]
  show checkRow (row _ _ _ _) = _
  subst hf
  simp_all [row, checkRow, Fields.mk0, Fields.withPred, Fields.t, Fields.pred, Fields.masked, eV3, eS2, eV2, eShfl, Fields.ssrc, Fields.vsrc, Fields.nsrc, Fields.viRes]

theorem FieldsBack.mmovFromScalar (p : Pred) (d : MReg) (a : SReg) : FieldsBack.Statement (.mmovFromScalar p d a) := by
  intro _ f hf
  have hf := Option.some.inj hf
  have ho : f.opc.toNat = 0x89 := by rw [← hf]; rfl
  have hs : f.sub.toNat = 1 := by rw [← hf]; rfl
  rw [decCollective ho (by decide), rowsCollective, ho, hs]
  show checkRow (row _ _ _ _) = _
  subst hf
  simp_all [row, checkRow, Fields.mk0, Fields.withPred, Fields.t, Fields.pred, Fields.masked, eV3, eS2, eV2, eShfl, Fields.ssrc, Fields.vsrc, Fields.nsrc, Fields.viRes]

theorem FieldsBack.mmovToScalar (p : Pred) (d : SReg) (a : MReg) : FieldsBack.Statement (.mmovToScalar p d a) := by
  intro _ f hf
  have hf := Option.some.inj hf
  have ho : f.opc.toNat = 0x89 := by rw [← hf]; rfl
  have hs : f.sub.toNat = 2 := by rw [← hf]; rfl
  rw [decCollective ho (by decide), rowsCollective, ho, hs]
  show checkRow (row _ _ _ _) = _
  subst hf
  simp_all [row, checkRow, Fields.mk0, Fields.withPred, Fields.t, Fields.pred, Fields.masked, eV3, eS2, eV2, eShfl, Fields.ssrc, Fields.vsrc, Fields.nsrc, Fields.viRes]

theorem FieldsBack.mcnt (p : Pred) (d : SReg) (a : MReg) : FieldsBack.Statement (.mcnt p d a) := by
  intro _ f hf
  have hf := Option.some.inj hf
  have ho : f.opc.toNat = 0x8a := by rw [← hf]; rfl
  have hs : f.sub.toNat = 0 := by rw [← hf]; rfl
  rw [decCollective ho (by decide), rowsCollective, ho, hs]
  show checkRow (row _ _ _ _) = _
  subst hf
  simp_all [row, checkRow, Fields.mk0, Fields.withPred, Fields.t, Fields.pred, Fields.masked, eV3, eS2, eV2, eShfl, Fields.ssrc, Fields.vsrc, Fields.nsrc, Fields.viRes]

theorem FieldsBack.mfirst (p : Pred) (d : SReg) (a : MReg) : FieldsBack.Statement (.mfirst p d a) := by
  intro _ f hf
  have hf := Option.some.inj hf
  have ho : f.opc.toNat = 0x8a := by rw [← hf]; rfl
  have hs : f.sub.toNat = 1 := by rw [← hf]; rfl
  rw [decCollective ho (by decide), rowsCollective, ho, hs]
  show checkRow (row _ _ _ _) = _
  subst hf
  simp_all [row, checkRow, Fields.mk0, Fields.withPred, Fields.t, Fields.pred, Fields.masked, eV3, eS2, eV2, eShfl, Fields.ssrc, Fields.vsrc, Fields.nsrc, Fields.viRes]

theorem FieldsBack.ld (p : Pred) (ty : Ty) (d : VReg) (addr : Addr) (hint : Hint) (scope : Scope) : FieldsBack.Statement (.ld p ty d addr hint scope) := by
  intro h f hf
  replace h : (vPairOK ty d) = true := h
  obtain ⟨base, index, disp⟩ := addr
  have hf := Option.some.inj hf
  have ho : f.opc.toNat = 0xa0 := by rw [← hf]; rfl
  have hs : f.sub.toNat = 0 := by rw [← hf]; rfl
  rw [decMem ho (by decide), rowsMem, ho, hs]
  show checkRow (rMem _ _ _ _ _ _ _ _ _ _ _) = _
  subst hf
  simp_all [row, checkRow, Fields.mk0, Fields.withPred, Fields.t, Fields.pred, Fields.masked, rMem, eMem, Fields.space, Fields.hint, Fields.ord, Fields.scope, Fields.disp, Fields.hintV, Fields.ordV, Fields.scopeV, Fields.addr]

theorem FieldsBack.st (p : Pred) (ty : Ty) (addr : Addr) (c : VReg) (hint : Hint) (scope : Scope) : FieldsBack.Statement (.st p ty addr c hint scope) := by
  intro h f hf
  replace h : (vPairOK ty c) = true := h
  obtain ⟨base, index, disp⟩ := addr
  have hf := Option.some.inj hf
  have ho : f.opc.toNat = 0xa1 := by rw [← hf]; rfl
  have hs : f.sub.toNat = 0 := by rw [← hf]; rfl
  rw [decMem ho (by decide), rowsMem, ho, hs]
  show checkRow (rMem _ _ _ _ _ _ _ _ _ _ _) = _
  subst hf
  simp_all [row, checkRow, Fields.mk0, Fields.withPred, Fields.t, Fields.pred, Fields.masked, rMem, eMem, Fields.space, Fields.hint, Fields.ord, Fields.scope, Fields.disp, Fields.hintV, Fields.ordV, Fields.scopeV, Fields.addr]

theorem FieldsBack.lds (ty : Ty) (d : SReg) (a : SReg) (b : SReg) (disp : BitVec 20) (hint : Hint) (scope : Scope) : FieldsBack.Statement (.lds ty d a b disp hint scope) := by
  intro h f hf
  replace h : (ty.isLds) = true := h
  have hf := Option.some.inj hf
  have ho : f.opc.toNat = 0xa2 := by rw [← hf]; rfl
  have hs : f.sub.toNat = 0 := by rw [← hf]; rfl
  rw [decMem ho (by decide), rowsMem, ho, hs]
  show checkRow (rMem _ _ _ _ _ _ _ _ _ _ _) = _
  subst hf
  simp_all [row, checkRow, Fields.mk0, Fields.withPred, Fields.t, Fields.pred, Fields.masked, rMem, eMem, Fields.space, Fields.hint, Fields.ord, Fields.scope, Fields.disp, Fields.hintV, Fields.ordV, Fields.scopeV, Fields.addr]

theorem FieldsBack.sts (ty : Ty) (a : SReg) (b : SReg) (c : SReg) (disp : BitVec 20) (hint : Hint) (scope : Scope) : FieldsBack.Statement (.sts ty a b c disp hint scope) := by
  intro h f hf
  replace h : (ty.isLds) = true := h
  have hf := Option.some.inj hf
  have ho : f.opc.toNat = 0xa3 := by rw [← hf]; rfl
  have hs : f.sub.toNat = 0 := by rw [← hf]; rfl
  rw [decMem ho (by decide), rowsMem, ho, hs]
  show checkRow (rMem _ _ _ _ _ _ _ _ _ _ _) = _
  subst hf
  simp_all [row, checkRow, Fields.mk0, Fields.withPred, Fields.t, Fields.pred, Fields.masked, rMem, eMem, Fields.space, Fields.hint, Fields.ord, Fields.scope, Fields.disp, Fields.hintV, Fields.ordV, Fields.scopeV, Fields.addr]

theorem FieldsBack.ldl (p : Pred) (ty : Ty) (d : VReg) (a : SReg) (disp : BitVec 20) : FieldsBack.Statement (.ldl p ty d a disp) := by
  intro h f hf
  replace h : (ty.isBS && vPairOK ty d) = true := h
  have hf := Option.some.inj hf
  have ho : f.opc.toNat = 0xa4 := by rw [← hf]; rfl
  have hs : f.sub.toNat = 0 := by rw [← hf]; rfl
  rw [decMem ho (by decide), rowsMem, ho, hs]
  show checkRow (rMem _ _ _ _ _ _ _ _ _ _ _) = _
  subst hf
  simp_all [row, checkRow, Fields.mk0, Fields.withPred, Fields.t, Fields.pred, Fields.masked, rMem, eMem, Fields.space, Fields.hint, Fields.ord, Fields.scope, Fields.disp, Fields.hintV, Fields.ordV, Fields.scopeV, Fields.addr]

theorem FieldsBack.stl (p : Pred) (ty : Ty) (a : SReg) (disp : BitVec 20) (c : VReg) : FieldsBack.Statement (.stl p ty a disp c) := by
  intro h f hf
  replace h : (ty.isBS && vPairOK ty c) = true := h
  have hf := Option.some.inj hf
  have ho : f.opc.toNat = 0xa5 := by rw [← hf]; rfl
  have hs : f.sub.toNat = 0 := by rw [← hf]; rfl
  rw [decMem ho (by decide), rowsMem, ho, hs]
  show checkRow (rMem _ _ _ _ _ _ _ _ _ _ _) = _
  subst hf
  simp_all [row, checkRow, Fields.mk0, Fields.withPred, Fields.t, Fields.pred, Fields.masked, rMem, eMem, Fields.space, Fields.hint, Fields.ord, Fields.scope, Fields.disp, Fields.hintV, Fields.ordV, Fields.scopeV, Fields.addr]

theorem FieldsBack.mld (p : Pred) (ty : Ty) (d : TAReg) (a : SReg) (b : SReg) (disp : BitVec 20) (hint : Hint) (scope : Scope) : FieldsBack.Statement (.mld p ty d a b disp hint scope) := by
  intro h f hf
  replace h : (d.tyOK ty) = true := h
  have ht := tile_type h
  have hf := Option.some.inj hf
  have ho : f.opc.toNat = 0xa6 := by rw [← hf]; rfl
  have hs : f.sub.toNat = 0 := by rw [← hf]; rfl
  rw [decMem ho (by decide), rowsMem, ho, hs]
  show checkRow (rMem _ _ _ _ _ _ _ _ _ _ _) = _
  subst hf
  simp_all [row, checkRow, Fields.mk0, Fields.withPred, Fields.t, Fields.pred, Fields.masked, rMem, eMem, Fields.space, Fields.hint, Fields.ord, Fields.scope, Fields.disp, Fields.hintV, Fields.ordV, Fields.scopeV, Fields.addr]

theorem FieldsBack.mst (p : Pred) (ty : Ty) (a : SReg) (b : SReg) (disp : BitVec 20) (c : TAReg) (hint : Hint) (scope : Scope) : FieldsBack.Statement (.mst p ty a b disp c hint scope) := by
  intro h f hf
  replace h : (c.tyOK ty) = true := h
  have ht := tile_type h
  have hf := Option.some.inj hf
  have ho : f.opc.toNat = 0xa7 := by rw [← hf]; rfl
  have hs : f.sub.toNat = 0 := by rw [← hf]; rfl
  rw [decMem ho (by decide), rowsMem, ho, hs]
  show checkRow (rMem _ _ _ _ _ _ _ _ _ _ _) = _
  subst hf
  simp_all [row, checkRow, Fields.mk0, Fields.withPred, Fields.t, Fields.pred, Fields.masked, rMem, eMem, Fields.space, Fields.hint, Fields.ord, Fields.scope, Fields.disp, Fields.hintV, Fields.ordV, Fields.scopeV, Fields.addr]

theorem FieldsBack.pld (p : Pred) (addr : Addr) (hint : Hint) (scope : Scope) : FieldsBack.Statement (.pld p addr hint scope) := by
  intro _ f hf
  obtain ⟨base, index, disp⟩ := addr
  have hf := Option.some.inj hf
  have ho : f.opc.toNat = 0xa8 := by rw [← hf]; rfl
  have hs : f.sub.toNat = 0 := by rw [← hf]; rfl
  rw [decMem ho (by decide), rowsMem, ho, hs]
  show checkRow (rMem _ _ _ _ _ _ _ _ _ _ _) = _
  subst hf
  simp_all [row, checkRow, Fields.mk0, Fields.withPred, Fields.t, Fields.pred, Fields.masked, rMem, eMem, Fields.space, Fields.hint, Fields.ord, Fields.scope, Fields.disp, Fields.hintV, Fields.ordV, Fields.scopeV, Fields.addr]

theorem FieldsBack.ldpd (p : Pred) (ty : Ty) (d : VReg) (addr : Addr) : FieldsBack.Statement (.ldpd p ty d addr) := by
  intro h f hf
  replace h : (vPairOK ty d) = true := h
  obtain ⟨base, index, disp⟩ := addr
  have hf := Option.some.inj hf
  have ho : f.opc.toNat = 0xa9 := by rw [← hf]; rfl
  have hs : f.sub.toNat = 0 := by rw [← hf]; rfl
  rw [decMem ho (by decide), rowsMem, ho, hs]
  show checkRow (rMem _ _ _ _ _ _ _ _ _ _ _) = _
  subst hf
  simp_all [row, checkRow, Fields.mk0, Fields.withPred, Fields.t, Fields.pred, Fields.masked, rMem, eMem, Fields.space, Fields.hint, Fields.ord, Fields.scope, Fields.disp, Fields.hintV, Fields.ordV, Fields.scopeV, Fields.addr]

theorem FieldsBack.stpd (p : Pred) (ty : Ty) (addr : Addr) (c : VReg) : FieldsBack.Statement (.stpd p ty addr c) := by
  intro h f hf
  replace h : (vPairOK ty c) = true := h
  obtain ⟨base, index, disp⟩ := addr
  have hf := Option.some.inj hf
  have ho : f.opc.toNat = 0xaa := by rw [← hf]; rfl
  have hs : f.sub.toNat = 0 := by rw [← hf]; rfl
  rw [decMem ho (by decide), rowsMem, ho, hs]
  show checkRow (rMem _ _ _ _ _ _ _ _ _ _ _) = _
  subst hf
  simp_all [row, checkRow, Fields.mk0, Fields.withPred, Fields.t, Fields.pred, Fields.masked, rMem, eMem, Fields.space, Fields.hint, Fields.ord, Fields.scope, Fields.disp, Fields.hintV, Fields.ordV, Fields.scopeV, Fields.addr]

theorem FieldsBack.xst (p : Pred) (ty : Ty) (addr : Addr) (c : VReg) : FieldsBack.Statement (.xst p ty addr c) := by
  intro h f hf
  replace h : (vPairOK ty c) = true := h
  obtain ⟨base, index, disp⟩ := addr
  have hf := Option.some.inj hf
  have ho : f.opc.toNat = 0xab := by rw [← hf]; rfl
  have hs : f.sub.toNat = 0 := by rw [← hf]; rfl
  rw [decMem ho (by decide), rowsMem, ho, hs]
  show checkRow (rMem _ _ _ _ _ _ _ _ _ _ _) = _
  subst hf
  simp_all [row, checkRow, Fields.mk0, Fields.withPred, Fields.t, Fields.pred, Fields.masked, rMem, eMem, Fields.space, Fields.hint, Fields.ord, Fields.scope, Fields.disp, Fields.hintV, Fields.ordV, Fields.scopeV, Fields.addr]

theorem FieldsBack.mcst (p : Pred) (ty : Ty) (d : SReg) (a : SReg) (b : SReg) (c : VReg) : FieldsBack.Statement (.mcst p ty d a b c) := by
  intro h f hf
  replace h : (vPairOK ty c) = true := h
  have hf := Option.some.inj hf
  have ho : f.opc.toNat = 0xac := by rw [← hf]; rfl
  have hs : f.sub.toNat = 0 := by rw [← hf]; rfl
  rw [decMem ho (by decide), rowsMem, ho, hs]
  show checkRow (rMem _ _ _ _ _ _ _ _ _ _ _) = _
  subst hf
  simp_all [row, checkRow, Fields.mk0, Fields.withPred, Fields.t, Fields.pred, Fields.masked, rMem, eMem, Fields.space, Fields.hint, Fields.ord, Fields.scope, Fields.disp, Fields.hintV, Fields.ordV, Fields.scopeV, Fields.addr]

theorem FieldsBack.gjoin (d : SReg) (a : SReg) : FieldsBack.Statement (.gjoin d a) := by
  intro _ f hf
  have hf := Option.some.inj hf
  have ho : f.opc.toNat = 0xad := by rw [← hf]; rfl
  have hs : f.sub.toNat = 0 := by rw [← hf]; rfl
  rw [decMem ho (by decide), rowsMem, ho, hs]
  show checkRow (rMem _ _ _ _ _ _ _ _ _ _ _) = _
  subst hf
  simp_all [row, checkRow, Fields.mk0, Fields.withPred, Fields.t, Fields.pred, Fields.masked, rMem, eMem, Fields.space, Fields.hint, Fields.ord, Fields.scope, Fields.disp, Fields.hintV, Fields.ordV, Fields.scopeV, Fields.addr]

theorem FieldsBack.gleave : FieldsBack.Statement (.gleave) := by
  intro _ f hf
  have hf := Option.some.inj hf
  have ho : f.opc.toNat = 0xad := by rw [← hf]; rfl
  have hs : f.sub.toNat = 1 := by rw [← hf]; rfl
  rw [decMem ho (by decide), rowsMem, ho, hs]
  show checkRow (rMem _ _ _ _ _ _ _ _ _ _ _) = _
  subst hf
  simp_all [row, checkRow, Fields.mk0, Fields.withPred, Fields.t, Fields.pred, Fields.masked, rMem, eMem, Fields.space, Fields.hint, Fields.ord, Fields.scope, Fields.disp, Fields.hintV, Fields.ordV, Fields.scopeV, Fields.addr]

theorem FieldsBack.gbar : FieldsBack.Statement (.gbar) := by
  intro _ f hf
  have hf := Option.some.inj hf
  have ho : f.opc.toNat = 0xae := by rw [← hf]; rfl
  have hs : f.sub.toNat = 0 := by rw [← hf]; rfl
  rw [decMem ho (by decide), rowsMem, ho, hs]
  show checkRow (rMem _ _ _ _ _ _ _ _ _ _ _) = _
  subst hf
  simp_all [row, checkRow, Fields.mk0, Fields.withPred, Fields.t, Fields.pred, Fields.masked, rMem, eMem, Fields.space, Fields.hint, Fields.ord, Fields.scope, Fields.disp, Fields.hintV, Fields.ordV, Fields.scopeV, Fields.addr]

theorem FieldsBack.atom (p : Pred) (op : AtomOp) (ty : Ty) (pad : Bool) (d : VReg) (addr : Addr) (c : VReg) (ord : Ord) (scope : Scope) : FieldsBack.Statement (.atom p op ty pad d addr c ord scope) := by
  intro h f hf
  replace h : (op.tyOK ty && vPairOK ty d && vPairOK ty c && (op != .cas || casOK ty c)) = true := h
  obtain ⟨base, index, disp⟩ := addr
  by_cases hc : op = .cas
  all_goals
    have hf := Option.some.inj hf
    have ho : f.opc.toNat = 0xaf := by rw [← hf]; rfl
    rw [decMem ho (by decide), rowsMem, ho]
    have hs : f.sub.toNat < 10 := by rw [← hf]; exact atomCode_lt op
    simp only [hs, ↓reduceIte]
    show checkRow (rMem _ _ _ _ _ _ _ _ _ _ _) = _
    subst hf
    simp_all [row, checkRow, Fields.mk0, Fields.withPred, Fields.t, Fields.pred, Fields.masked, rMem, eMem, Fields.space, Fields.hint, Fields.ord, Fields.scope, Fields.disp, Fields.hintV, Fields.ordV, Fields.scopeV, Fields.addr]

theorem FieldsBack.red (p : Pred) (op : AtomOp) (ty : Ty) (pad : Bool) (addr : Addr) (c : VReg) (ord : Ord) (scope : Scope) : FieldsBack.Statement (.red p op ty pad addr c ord scope) := by
  intro h f hf
  replace h : (op.tyOK ty && vPairOK ty c && op != .xch && op != .cas) = true := h
  obtain ⟨base, index, disp⟩ := addr
  have hf := Option.some.inj hf
  have ho : f.opc.toNat = 0xb0 := by rw [← hf]; rfl
  rw [decMem ho (by decide), rowsMem, ho]
  have hs : f.sub.toNat < 10 := by rw [← hf]; exact atomCode_lt op
  simp only [hs, ↓reduceIte]
  show checkRow (rMem _ _ _ _ _ _ _ _ _ _ _) = _
  subst hf
  simp_all [row, checkRow, Fields.mk0, Fields.withPred, Fields.t, Fields.pred, Fields.masked, rMem, eMem, Fields.space, Fields.hint, Fields.ord, Fields.scope, Fields.disp, Fields.hintV, Fields.ordV, Fields.scopeV, Fields.addr]

theorem FieldsBack.fence (ord : Ord) (scope : Scope) : FieldsBack.Statement (.fence ord scope) := by
  intro h f hf
  replace h : (ord != .relaxed) = true := h
  have hf := Option.some.inj hf
  have ho : f.opc.toNat = 0xb1 := by rw [← hf]; rfl
  have hs : f.sub.toNat = 0 := by rw [← hf]; rfl
  rw [decMem ho (by decide), rowsMem, ho, hs]
  show checkRow (rMem _ _ _ _ _ _ _ _ _ _ _) = _
  subst hf
  simp_all [row, checkRow, Fields.mk0, Fields.withPred, Fields.t, Fields.pred, Fields.masked, rMem, eMem, Fields.space, Fields.hint, Fields.ord, Fields.scope, Fields.disp, Fields.hintV, Fields.ordV, Fields.scopeV, Fields.addr]

theorem FieldsBack.barSync (d : SReg) (scope : Scope) (id : BitVec 6) : FieldsBack.Statement (.barSync d scope id) := by
  intro h f hf
  replace h : (decide (id.toNat < barIds scope)) = true := h
  have hf := Option.some.inj hf
  have ho : f.opc.toNat = 0xb2 := by rw [← hf]; rfl
  have hs : f.sub.toNat = 0 := by rw [← hf]; rfl
  rw [decMem ho (by decide), rowsMem, ho, hs]
  show checkRow (rMem _ _ _ _ _ _ _ _ _ _ _) = _
  subst hf
  simp_all [row, checkRow, Fields.mk0, Fields.withPred, Fields.t, Fields.pred, Fields.masked, rMem, eMem, Fields.space, Fields.hint, Fields.ord, Fields.scope, Fields.disp, Fields.hintV, Fields.ordV, Fields.scopeV, Fields.addr]

theorem FieldsBack.barArrive (d : SReg) (scope : Scope) (id : BitVec 6) : FieldsBack.Statement (.barArrive d scope id) := by
  intro h f hf
  replace h : (decide (id.toNat < barIds scope)) = true := h
  have hf := Option.some.inj hf
  have ho : f.opc.toNat = 0xb2 := by rw [← hf]; rfl
  have hs : f.sub.toNat = 1 := by rw [← hf]; rfl
  rw [decMem ho (by decide), rowsMem, ho, hs]
  show checkRow (rMem _ _ _ _ _ _ _ _ _ _ _) = _
  subst hf
  simp_all [row, checkRow, Fields.mk0, Fields.withPred, Fields.t, Fields.pred, Fields.masked, rMem, eMem, Fields.space, Fields.hint, Fields.ord, Fields.scope, Fields.disp, Fields.hintV, Fields.ordV, Fields.scopeV, Fields.addr]

theorem FieldsBack.barWait (d : SReg) (scope : Scope) (id : BitVec 6) : FieldsBack.Statement (.barWait d scope id) := by
  intro h f hf
  replace h : (decide (id.toNat < barIds scope)) = true := h
  have hf := Option.some.inj hf
  have ho : f.opc.toNat = 0xb2 := by rw [← hf]; rfl
  have hs : f.sub.toNat = 2 := by rw [← hf]; rfl
  rw [decMem ho (by decide), rowsMem, ho, hs]
  show checkRow (rMem _ _ _ _ _ _ _ _ _ _ _) = _
  subst hf
  simp_all [row, checkRow, Fields.mk0, Fields.withPred, Fields.t, Fields.pred, Fields.masked, rMem, eMem, Fields.space, Fields.hint, Fields.ord, Fields.scope, Fields.disp, Fields.hintV, Fields.ordV, Fields.scopeV, Fields.addr]

theorem FieldsBack.barExcuse (d : SReg) (scope : Scope) (id : BitVec 6) : FieldsBack.Statement (.barExcuse d scope id) := by
  intro h f hf
  replace h : (decide (id.toNat < barIds scope)) = true := h
  have hf := Option.some.inj hf
  have ho : f.opc.toNat = 0xb2 := by rw [← hf]; rfl
  have hs : f.sub.toNat = 3 := by rw [← hf]; rfl
  rw [decMem ho (by decide), rowsMem, ho, hs]
  show checkRow (rMem _ _ _ _ _ _ _ _ _ _ _) = _
  subst hf
  simp_all [row, checkRow, Fields.mk0, Fields.withPred, Fields.t, Fields.pred, Fields.masked, rMem, eMem, Fields.space, Fields.hint, Fields.ord, Fields.scope, Fields.disp, Fields.hintV, Fields.ordV, Fields.scopeV, Fields.addr]

theorem FieldsBack.clean (a : SReg) (b : SReg) (scope : Scope) : FieldsBack.Statement (.clean a b scope) := by
  intro _ f hf
  have hf := Option.some.inj hf
  have ho : f.opc.toNat = 0xb3 := by rw [← hf]; rfl
  have hs : f.sub.toNat = 0 := by rw [← hf]; rfl
  rw [decMem ho (by decide), rowsMem, ho, hs]
  show checkRow (rMem _ _ _ _ _ _ _ _ _ _ _) = _
  subst hf
  simp_all [row, checkRow, Fields.mk0, Fields.withPred, Fields.t, Fields.pred, Fields.masked, rMem, eMem, Fields.space, Fields.hint, Fields.ord, Fields.scope, Fields.disp, Fields.hintV, Fields.ordV, Fields.scopeV, Fields.addr]

theorem FieldsBack.inval (a : SReg) (b : SReg) (scope : Scope) : FieldsBack.Statement (.inval a b scope) := by
  intro _ f hf
  have hf := Option.some.inj hf
  have ho : f.opc.toNat = 0xb3 := by rw [← hf]; rfl
  have hs : f.sub.toNat = 1 := by rw [← hf]; rfl
  rw [decMem ho (by decide), rowsMem, ho, hs]
  show checkRow (rMem _ _ _ _ _ _ _ _ _ _ _) = _
  subst hf
  simp_all [row, checkRow, Fields.mk0, Fields.withPred, Fields.t, Fields.pred, Fields.masked, rMem, eMem, Fields.space, Fields.hint, Fields.ord, Fields.scope, Fields.disp, Fields.hintV, Fields.ordV, Fields.scopeV, Fields.addr]

theorem FieldsBack.flush (a : SReg) (b : SReg) (scope : Scope) : FieldsBack.Statement (.flush a b scope) := by
  intro _ f hf
  have hf := Option.some.inj hf
  have ho : f.opc.toNat = 0xb3 := by rw [← hf]; rfl
  have hs : f.sub.toNat = 2 := by rw [← hf]; rfl
  rw [decMem ho (by decide), rowsMem, ho, hs]
  show checkRow (rMem _ _ _ _ _ _ _ _ _ _ _) = _
  subst hf
  simp_all [row, checkRow, Fields.mk0, Fields.withPred, Fields.t, Fields.pred, Fields.masked, rMem, eMem, Fields.space, Fields.hint, Fields.ord, Fields.scope, Fields.disp, Fields.hintV, Fields.ordV, Fields.scopeV, Fields.addr]

theorem FieldsBack.ldacq (p : Pred) (ty : Ty) (d : VReg) (addr : Addr) (hint : Hint) (scope : Scope) : FieldsBack.Statement (.ldacq p ty d addr hint scope) := by
  intro h f hf
  replace h : (vPairOK ty d) = true := h
  obtain ⟨base, index, disp⟩ := addr
  have hf := Option.some.inj hf
  have ho : f.opc.toNat = 0xb4 := by rw [← hf]; rfl
  have hs : f.sub.toNat = 0 := by rw [← hf]; rfl
  rw [decMem ho (by decide), rowsMem, ho, hs]
  show checkRow (rMem _ _ _ _ _ _ _ _ _ _ _) = _
  subst hf
  simp_all [row, checkRow, Fields.mk0, Fields.withPred, Fields.t, Fields.pred, Fields.masked, rMem, eMem, Fields.space, Fields.hint, Fields.ord, Fields.scope, Fields.disp, Fields.hintV, Fields.ordV, Fields.scopeV, Fields.addr]

theorem FieldsBack.strel (p : Pred) (ty : Ty) (addr : Addr) (c : VReg) (hint : Hint) (scope : Scope) : FieldsBack.Statement (.strel p ty addr c hint scope) := by
  intro h f hf
  replace h : (vPairOK ty c) = true := h
  obtain ⟨base, index, disp⟩ := addr
  have hf := Option.some.inj hf
  have ho : f.opc.toNat = 0xb5 := by rw [← hf]; rfl
  have hs : f.sub.toNat = 0 := by rw [← hf]; rfl
  rw [decMem ho (by decide), rowsMem, ho, hs]
  show checkRow (rMem _ _ _ _ _ _ _ _ _ _ _) = _
  subst hf
  simp_all [row, checkRow, Fields.mk0, Fields.withPred, Fields.t, Fields.pred, Fields.masked, rMem, eMem, Fields.space, Fields.hint, Fields.ord, Fields.scope, Fields.disp, Fields.hintV, Fields.ordV, Fields.scopeV, Fields.addr]

theorem FieldsBack.mma (p : Pred) (xaf : BitVec 4) (d : AReg) (a : TReg) (b : TReg) (c : VReg) : FieldsBack.Statement (.mma p xaf d a b c) := by
  intro h f hf
  have hx : xafOK xaf = true := h
  have hf := Option.some.inj hf
  have ho : f.opc.toNat = 0xc0 := by rw [← hf]; rfl
  have hs : f.sub.toNat = 0 := by rw [← hf]; rfl
  rw [decMatrix ho (by decide), rowsMatrix, ho, hs]
  show checkRow (rMx _ _ _ _) = _
  subst hf
  simp_all [row, checkRow, Fields.mk0, Fields.withPred, Fields.t, Fields.pred, Fields.masked, rMx]

theorem FieldsBack.mmb (p : Pred) (xaf : BitVec 4) (d : AReg) (a : TReg) (b : TReg) (c : VReg) : FieldsBack.Statement (.mmb p xaf d a b c) := by
  intro h f hf
  have hx : xafOK xaf = true := h
  have hf := Option.some.inj hf
  have ho : f.opc.toNat = 0xc1 := by rw [← hf]; rfl
  have hs : f.sub.toNat = 0 := by rw [← hf]; rfl
  rw [decMatrix ho (by decide), rowsMatrix, ho, hs]
  show checkRow (rMx _ _ _ _) = _
  subst hf
  simp_all [row, checkRow, Fields.mk0, Fields.withPred, Fields.t, Fields.pred, Fields.masked, rMx]

theorem FieldsBack.mms (p : Pred) (xaf : BitVec 4) (mta : VReg) (d : AReg) (a : TReg) (b : TReg) (c : VReg) : FieldsBack.Statement (.mms p xaf mta d a b c) := by
  intro h f hf
  have hx : xafOK xaf = true := h
  have hf := Option.some.inj hf
  have ho : f.opc.toNat = 0xc2 := by rw [← hf]; rfl
  have hs : f.sub.toNat = 0 := by rw [← hf]; rfl
  rw [decMatrix ho (by decide), rowsMatrix, ho, hs]
  show checkRow (rMx _ _ _ _) = _
  subst hf
  simp_all [row, checkRow, Fields.mk0, Fields.withPred, Fields.t, Fields.pred, Fields.masked, rMx]

theorem FieldsBack.spcmp (p : Pred) (d : TReg) (a : TReg) (b : VReg) (c : VReg) : FieldsBack.Statement (.spcmp p d a b c) := by
  intro _ f hf
  have hf := Option.some.inj hf
  have ho : f.opc.toNat = 0xc3 := by rw [← hf]; rfl
  have hs : f.sub.toNat = 0 := by rw [← hf]; rfl
  rw [decMatrix ho (by decide), rowsMatrix, ho, hs]
  show checkRow (rMx _ _ _ _) = _
  subst hf
  simp_all [row, checkRow, Fields.mk0, Fields.withPred, Fields.t, Fields.pred, Fields.masked, rMx]

theorem FieldsBack.mtrn (p : Pred) (d : TReg) (a : TReg) : FieldsBack.Statement (.mtrn p d a) := by
  intro _ f hf
  have hf := Option.some.inj hf
  have ho : f.opc.toNat = 0xc4 := by rw [← hf]; rfl
  have hs : f.sub.toNat = 0 := by rw [← hf]; rfl
  rw [decMatrix ho (by decide), rowsMatrix, ho, hs]
  show checkRow (rMx _ _ _ _) = _
  subst hf
  simp_all [row, checkRow, Fields.mk0, Fields.withPred, Fields.t, Fields.pred, Fields.masked, rMx]

theorem FieldsBack.mzero (p : Pred) (d : TAReg) : FieldsBack.Statement (.mzero p d) := by
  intro _ f hf
  have hf := Option.some.inj hf
  have ho : f.opc.toNat = 0xc5 := by rw [← hf]; rfl
  have hs : f.sub.toNat = 0 := by rw [← hf]; rfl
  rw [decMatrix ho (by decide), rowsMatrix, ho, hs]
  show checkRow (rMx _ _ _ _) = _
  subst hf
  simp_all [row, checkRow, Fields.mk0, Fields.withPred, Fields.t, Fields.pred, Fields.masked, rMx]

theorem FieldsBack.mcvt (p : Pred) (d : TReg) (a : AReg) (c : VReg) : FieldsBack.Statement (.mcvt p d a c) := by
  intro _ f hf
  have hf := Option.some.inj hf
  have ho : f.opc.toNat = 0xc6 := by rw [← hf]; rfl
  have hs : f.sub.toNat = 0 := by rw [← hf]; rfl
  rw [decMatrix ho (by decide), rowsMatrix, ho, hs]
  show checkRow (rMx _ _ _ _) = _
  subst hf
  simp_all [row, checkRow, Fields.mk0, Fields.withPred, Fields.t, Fields.pred, Fields.masked, rMx]

theorem FieldsBack.mscale (p : Pred) (d : AReg) (a : AReg) (b : VReg) : FieldsBack.Statement (.mscale p d a b) := by
  intro _ f hf
  have hf := Option.some.inj hf
  have ho : f.opc.toNat = 0xc7 := by rw [← hf]; rfl
  have hs : f.sub.toNat = 0 := by rw [← hf]; rfl
  rw [decMatrix ho (by decide), rowsMatrix, ho, hs]
  show checkRow (rMx _ _ _ _) = _
  subst hf
  simp_all [row, checkRow, Fields.mk0, Fields.withPred, Fields.t, Fields.pred, Fields.masked, rMx]

theorem FieldsBack.xcp (dim : XDim) (a : SReg) : FieldsBack.Statement (.xcp dim a) := by
  intro _ f hf
  have hf := Option.some.inj hf
  have ho : f.opc.toNat = 0xd0 := by rw [← hf]; rfl
  have hs : f.sub = dim.code := by rw [← hf]; rfl
  rw [decEngine ho (by decide), rowsEngine, ho, hs]
  have hr : checkRow (rEng f false true false (.xcp dim (sOf f.a))) = .ok (.xcp dim a) := by
    subst hf
    simp [row, checkRow, Fields.mk0, Fields.withPred, Fields.t, Fields.pred, Fields.masked, rEng, eEng, Fields.space, Fields.hint, Fields.scope]
  cases dim <;> (simpa [hs, XDim.code, XDim.ofCode] using hr)

theorem FieldsBack.xcpTmpl (a : SReg) : FieldsBack.Statement (.xcpTmpl a) := by
  intro _ f hf
  have hf := Option.some.inj hf
  have ho : f.opc.toNat = 0xd0 := by rw [← hf]; rfl
  have hs : f.sub.toNat = 3 := by rw [← hf]; rfl
  rw [decEngine ho (by decide), rowsEngine, ho, hs]
  show checkRow (rEng _ _ _ _ _) = _
  subst hf
  simp_all [row, checkRow, Fields.mk0, Fields.withPred, Fields.t, Fields.pred, Fields.masked, rEng, eEng, Fields.space, Fields.hint, Fields.scope]

theorem FieldsBack.xbatch (d : SReg) : FieldsBack.Statement (.xbatch d) := by
  intro _ f hf
  have hf := Option.some.inj hf
  have ho : f.opc.toNat = 0xd1 := by rw [← hf]; rfl
  have hs : f.sub.toNat = 0 := by rw [← hf]; rfl
  rw [decEngine ho (by decide), rowsEngine, ho, hs]
  show checkRow (rEng _ _ _ _ _) = _
  subst hf
  simp_all [row, checkRow, Fields.mk0, Fields.withPred, Fields.t, Fields.pred, Fields.masked, rEng, eEng, Fields.space, Fields.hint, Fields.scope]

theorem FieldsBack.xwait (a : SReg) : FieldsBack.Statement (.xwait a) := by
  intro _ f hf
  have hf := Option.some.inj hf
  have ho : f.opc.toNat = 0xd2 := by rw [← hf]; rfl
  have hs : f.sub.toNat = 0 := by rw [← hf]; rfl
  rw [decEngine ho (by decide), rowsEngine, ho, hs]
  show checkRow (rEng _ _ _ _ _) = _
  subst hf
  simp_all [row, checkRow, Fields.mk0, Fields.withPred, Fields.t, Fields.pred, Fields.masked, rEng, eEng, Fields.space, Fields.hint, Fields.scope]

theorem FieldsBack.rinit (a : SReg) (b : SReg) : FieldsBack.Statement (.rinit a b) := by
  intro _ f hf
  have hf := Option.some.inj hf
  have ho : f.opc.toNat = 0xd3 := by rw [← hf]; rfl
  have hs : f.sub.toNat = 0 := by rw [← hf]; rfl
  rw [decEngine ho (by decide), rowsEngine, ho, hs]
  show checkRow (rEng _ _ _ _ _) = _
  subst hf
  simp_all [row, checkRow, Fields.mk0, Fields.withPred, Fields.t, Fields.pred, Fields.masked, rEng, eEng, Fields.space, Fields.hint, Fields.scope]

theorem FieldsBack.rawait (d : SReg) (a : SReg) : FieldsBack.Statement (.rawait d a) := by
  intro _ f hf
  have hf := Option.some.inj hf
  have ho : f.opc.toNat = 0xd4 := by rw [← hf]; rfl
  have hs : f.sub.toNat = 0 := by rw [← hf]; rfl
  rw [decEngine ho (by decide), rowsEngine, ho, hs]
  show checkRow (rEng _ _ _ _ _) = _
  subst hf
  simp_all [row, checkRow, Fields.mk0, Fields.withPred, Fields.t, Fields.pred, Fields.masked, rEng, eEng, Fields.space, Fields.hint, Fields.scope]

theorem FieldsBack.rrel (a : SReg) (b : SReg) : FieldsBack.Statement (.rrel a b) := by
  intro _ f hf
  have hf := Option.some.inj hf
  have ho : f.opc.toNat = 0xd5 := by rw [← hf]; rfl
  have hs : f.sub.toNat = 0 := by rw [← hf]; rfl
  rw [decEngine ho (by decide), rowsEngine, ho, hs]
  show checkRow (rEng _ _ _ _ _) = _
  subst hf
  simp_all [row, checkRow, Fields.mk0, Fields.withPred, Fields.t, Fields.pred, Fields.masked, rEng, eEng, Fields.space, Fields.hint, Fields.scope]

theorem FieldsBack.rfill (a : SReg) (b : SReg) : FieldsBack.Statement (.rfill a b) := by
  intro _ f hf
  have hf := Option.some.inj hf
  have ho : f.opc.toNat = 0xd6 := by rw [← hf]; rfl
  have hs : f.sub.toNat = 0 := by rw [← hf]; rfl
  rw [decEngine ho (by decide), rowsEngine, ho, hs]
  show checkRow (rEng _ _ _ _ _) = _
  subst hf
  simp_all [row, checkRow, Fields.mk0, Fields.withPred, Fields.t, Fields.pred, Fields.masked, rEng, eEng, Fields.space, Fields.hint, Fields.scope]

theorem FieldsBack.mvs (a : SReg) : FieldsBack.Statement (.mvs a) := by
  intro _ f hf
  have hf := Option.some.inj hf
  have ho : f.opc.toNat = 0xd7 := by rw [← hf]; rfl
  have hs : f.sub.toNat = 0 := by rw [← hf]; rfl
  rw [decEngine ho (by decide), rowsEngine, ho, hs]
  show checkRow (rEng _ _ _ _ _) = _
  subst hf
  simp_all [row, checkRow, Fields.mk0, Fields.withPred, Fields.t, Fields.pred, Fields.masked, rEng, eEng, Fields.space, Fields.hint, Fields.scope]

theorem FieldsBack.cred (d : SReg) (a : SReg) : FieldsBack.Statement (.cred d a) := by
  intro _ f hf
  have hf := Option.some.inj hf
  have ho : f.opc.toNat = 0xd8 := by rw [← hf]; rfl
  have hs : f.sub.toNat = 0 := by rw [← hf]; rfl
  rw [decEngine ho (by decide), rowsEngine, ho, hs]
  show checkRow (rEng _ _ _ _ _) = _
  subst hf
  simp_all [row, checkRow, Fields.mk0, Fields.withPred, Fields.t, Fields.pred, Fields.masked, rEng, eEng, Fields.space, Fields.hint, Fields.scope]

theorem FieldsBack.cmc (d : SReg) (a : SReg) : FieldsBack.Statement (.cmc d a) := by
  intro _ f hf
  have hf := Option.some.inj hf
  have ho : f.opc.toNat = 0xd9 := by rw [← hf]; rfl
  have hs : f.sub.toNat = 0 := by rw [← hf]; rfl
  rw [decEngine ho (by decide), rowsEngine, ho, hs]
  show checkRow (rEng _ _ _ _ _) = _
  subst hf
  simp_all [row, checkRow, Fields.mk0, Fields.withPred, Fields.t, Fields.pred, Fields.masked, rEng, eEng, Fields.space, Fields.hint, Fields.scope]

theorem FieldsBack.cag (d : SReg) (a : SReg) : FieldsBack.Statement (.cag d a) := by
  intro _ f hf
  have hf := Option.some.inj hf
  have ho : f.opc.toNat = 0xda := by rw [← hf]; rfl
  have hs : f.sub.toNat = 0 := by rw [← hf]; rfl
  rw [decEngine ho (by decide), rowsEngine, ho, hs]
  show checkRow (rEng _ _ _ _ _) = _
  subst hf
  simp_all [row, checkRow, Fields.mk0, Fields.withPred, Fields.t, Fields.pred, Fields.masked, rEng, eEng, Fields.space, Fields.hint, Fields.scope]

theorem FieldsBack.rlq (d : SReg) (a : SReg) : FieldsBack.Statement (.rlq d a) := by
  intro _ f hf
  have hf := Option.some.inj hf
  have ho : f.opc.toNat = 0xdb := by rw [← hf]; rfl
  have hs : f.sub.toNat = 0 := by rw [← hf]; rfl
  rw [decEngine ho (by decide), rowsEngine, ho, hs]
  show checkRow (rEng _ _ _ _ _) = _
  subst hf
  simp_all [row, checkRow, Fields.mk0, Fields.withPred, Fields.t, Fields.pred, Fields.masked, rEng, eEng, Fields.space, Fields.hint, Fields.scope]

theorem FieldsBack.issueCycle (core : Nat) (sub : Nat) : FieldsBack.Statement (.issueCycle core sub) := by
  intro _ f hf; cases hf

theorem FieldsBack.starvationPromotion (wid : Nat) : FieldsBack.Statement (.starvationPromotion wid) := by
  intro _ f hf; cases hf

theorem FieldsBack.instructionRetire (wid : Nat) (mismatch : Bool) : FieldsBack.Statement (.instructionRetire wid mismatch) := by
  intro _ f hf; cases hf

theorem FieldsBack.loadReply (wid : Nat) : FieldsBack.Statement (.loadReply wid) := by
  intro _ f hf; cases hf

theorem FieldsBack.branchMispredict (wid : Nat) : FieldsBack.Statement (.branchMispredict wid) := by
  intro _ f hf; cases hf

theorem FieldsBack.fetchParityRefetch (core : Nat) (key : LineKey) : FieldsBack.Statement (.fetchParityRefetch core key) := by
  intro _ f hf; cases hf

theorem FieldsBack.windowLineEvict (wid : Nat) : FieldsBack.Statement (.windowLineEvict wid) := by
  intro _ f hf; cases hf

theorem FieldsBack.windowLineFill (wid : Nat) (idx : Nat) : FieldsBack.Statement (.windowLineFill wid idx) := by
  intro _ f hf; cases hf

theorem FieldsBack.gateRequest (gate : Nat) (wid : Nat) (key : LineKey) : FieldsBack.Statement (.gateRequest gate wid key) := by
  intro _ f hf; cases hf

theorem FieldsBack.walkStart (gate : Nat) : FieldsBack.Statement (.walkStart gate) := by
  intro _ f hf; cases hf

theorem FieldsBack.walkComplete (gate : Nat) : FieldsBack.Statement (.walkComplete gate) := by
  intro _ f hf; cases hf

theorem FieldsBack.permissionUpgrade (core : Nat) (key : LineKey) : FieldsBack.Statement (.permissionUpgrade core key) := by
  intro _ f hf; cases hf

theorem FieldsBack.permissionProbe (core : Nat) (key : LineKey) : FieldsBack.Statement (.permissionProbe core key) := by
  intro _ f hf; cases hf

theorem FieldsBack.anchorRead (core : Nat) (key : LineKey) (repl : Bool) : FieldsBack.Statement (.anchorRead core key repl) := by
  intro _ f hf; cases hf

theorem FieldsBack.anchorWrite (core : Nat) (key : LineKey) (mask : LineMask) (data : LineData) : FieldsBack.Statement (.anchorWrite core key mask data) := by
  intro _ f hf; cases hf

theorem FieldsBack.countNotice : FieldsBack.Statement (.countNotice) := by
  intro _ f hf; cases hf

theorem FieldsBack.migrationEnd (key : LineKey) : FieldsBack.Statement (.migrationEnd key) := by
  intro _ f hf; cases hf

theorem FieldsBack.l1Eviction (core : Nat) (key : LineKey) : FieldsBack.Statement (.l1Eviction core key) := by
  intro _ f hf; cases hf

theorem FieldsBack.bankLineEvict (bank : Nat) (key : LineKey) : FieldsBack.Statement (.bankLineEvict bank key) := by
  intro _ f hf; cases hf

theorem FieldsBack.pinRequest (core : Nat) (key : LineKey) : FieldsBack.Statement (.pinRequest core key) := by
  intro _ f hf; cases hf

theorem FieldsBack.invalidation : FieldsBack.Statement (.invalidation) := by
  intro _ f hf; cases hf

theorem FieldsBack.collapseAck : FieldsBack.Statement (.collapseAck) := by
  intro _ f hf; cases hf

theorem FieldsBack.epochSweep (bank : Nat) : FieldsBack.Statement (.epochSweep bank) := by
  intro _ f hf; cases hf

theorem FieldsBack.windowReset : FieldsBack.Statement (.windowReset) := by
  intro _ f hf; cases hf

theorem FieldsBack.bankRetire (bank : Nat) : FieldsBack.Statement (.bankRetire bank) := by
  intro _ f hf; cases hf

theorem FieldsBack.linkRetire (north : Bool) (x : Nat) (y : Nat) : FieldsBack.Statement (.linkRetire north x y) := by
  intro _ f hf; cases hf

theorem FieldsBack.coreRetire (core : Nat) : FieldsBack.Statement (.coreRetire core) := by
  intro _ f hf; cases hf

theorem FieldsBack.mapAckDeadline (part : Nat) (ctx : Nat) : FieldsBack.Statement (.mapAckDeadline part ctx) := by
  intro _ f hf; cases hf

theorem FieldsBack.exchangeStoreArrive : FieldsBack.Statement (.exchangeStoreArrive) := by
  intro _ f hf; cases hf

theorem FieldsBack.groupArrival (core : Nat) : FieldsBack.Statement (.groupArrival core) := by
  intro _ f hf; cases hf

theorem FieldsBack.groupRelease (core : Nat) : FieldsBack.Statement (.groupRelease core) := by
  intro _ f hf; cases hf

theorem FieldsBack.slotRevocation : FieldsBack.Statement (.slotRevocation) := by
  intro _ f hf; cases hf

theorem FieldsBack.barrierArrival : FieldsBack.Statement (.barrierArrival) := by
  intro _ f hf; cases hf

theorem FieldsBack.mcCommandIssue (stack : Nat) : FieldsBack.Statement (.mcCommandIssue stack) := by
  intro _ f hf; cases hf

theorem FieldsBack.shareWindowStart : FieldsBack.Statement (.shareWindowStart) := by
  intro _ f hf; cases hf

theorem FieldsBack.scrubLine (stack : Nat) : FieldsBack.Statement (.scrubLine stack) := by
  intro _ f hf; cases hf

theorem FieldsBack.rateChangeRequest (stack : Nat) (code : BitVec 2) : FieldsBack.Statement (.rateChangeRequest stack code) := by
  intro _ f hf; cases hf

theorem FieldsBack.rateAutoLower (stack : Nat) : FieldsBack.Statement (.rateAutoLower stack) := by
  intro _ f hf; cases hf

theorem FieldsBack.rateDrainEnd (stack : Nat) : FieldsBack.Statement (.rateDrainEnd stack) := by
  intro _ f hf; cases hf

theorem FieldsBack.rateTrainingEnd (stack : Nat) (ok : Bool) : FieldsBack.Statement (.rateTrainingEnd stack ok) := by
  intro _ f hf; cases hf

theorem FieldsBack.cryptoErase (part : Nat) (kd : Nat) : FieldsBack.Statement (.cryptoErase part kd) := by
  intro _ f hf; cases hf

theorem FieldsBack.scrubCtlWrite (part : Nat) (stack : Nat) (v : Word32) : FieldsBack.Statement (.scrubCtlWrite part stack v) := by
  intro _ f hf; cases hf

theorem FieldsBack.mcShareWrite (part : Nat) (n : Nat) (v : Word32) : FieldsBack.Statement (.mcShareWrite part n v) := by
  intro _ f hf; cases hf

theorem FieldsBack.mcShctlWrite (part : Nat) (v : Word32) : FieldsBack.Statement (.mcShctlWrite part v) := by
  intro _ f hf; cases hf

theorem FieldsBack.wccRctWrite (part : Nat) (n : Nat) (v : Word32) : FieldsBack.Statement (.wccRctWrite part n v) := by
  intro _ f hf; cases hf

theorem FieldsBack.interleaveCommit (part : Nat) (v : Word32) : FieldsBack.Statement (.interleaveCommit part v) := by
  intro _ f hf; cases hf

theorem FieldsBack.stackEngineOp (stack : Nat) : FieldsBack.Statement (.stackEngineOp stack) := by
  intro _ f hf; cases hf

theorem FieldsBack.engineCompletion (op : Nat) : FieldsBack.Statement (.engineCompletion op) := by
  intro _ f hf; cases hf

theorem FieldsBack.copyEngineOp (core : Nat) : FieldsBack.Statement (.copyEngineOp core) := by
  intro _ f hf; cases hf

theorem FieldsBack.collectiveComplete (inst : Nat) : FieldsBack.Statement (.collectiveComplete inst) := by
  intro _ f hf; cases hf

theorem FieldsBack.engineStop (op : Nat) : FieldsBack.Statement (.engineStop op) := by
  intro _ f hf; cases hf

theorem FieldsBack.slotTakesRecord (core : Nat) (sub : Nat) : FieldsBack.Statement (.slotTakesRecord core sub) := by
  intro _ f hf; cases hf

theorem FieldsBack.warpStart (wid : Nat) : FieldsBack.Statement (.warpStart wid) := by
  intro _ f hf; cases hf

theorem FieldsBack.harvestRevocation (core : Nat) : FieldsBack.Statement (.harvestRevocation core) := by
  intro _ f hf; cases hf

theorem FieldsBack.kennelParkDone (wid : Nat) : FieldsBack.Statement (.kennelParkDone wid) := by
  intro _ f hf; cases hf

theorem FieldsBack.harvestPagesReturned (core : Nat) : FieldsBack.Statement (.harvestPagesReturned core) := by
  intro _ f hf; cases hf

theorem FieldsBack.harvestGrant (core : Nat) (sub : Nat) : FieldsBack.Statement (.harvestGrant core sub) := by
  intro _ f hf; cases hf

theorem FieldsBack.kennelLineReturn (wid : Nat) (idx : Nat) : FieldsBack.Statement (.kennelLineReturn wid idx) := by
  intro _ f hf; cases hf

theorem FieldsBack.contextSave (part : Nat) (ctx : Nat) : FieldsBack.Statement (.contextSave part ctx) := by
  intro _ f hf; cases hf

theorem FieldsBack.contextResume (part : Nat) (ctx : Nat) : FieldsBack.Statement (.contextResume part ctx) := by
  intro _ f hf; cases hf

theorem FieldsBack.warpKill (wid : Nat) (cause : Byte) : FieldsBack.Statement (.warpKill wid cause) := by
  intro _ f hf; cases hf

theorem FieldsBack.killedWarpDrained (wid : Nat) : FieldsBack.Statement (.killedWarpDrained wid) := by
  intro _ f hf; cases hf

theorem FieldsBack.faultRecordPost (part : Nat) (ctx : Nat) : FieldsBack.Statement (.faultRecordPost part ctx) := by
  intro _ f hf; cases hf

theorem FieldsBack.ctxResume (part : Nat) (ctx : Nat) (seq : Word32) : FieldsBack.Statement (.ctxResume part ctx seq) := by
  intro _ f hf; cases hf

theorem FieldsBack.ctxSkip (part : Nat) (ctx : Nat) (seq : Word32) : FieldsBack.Statement (.ctxSkip part ctx seq) := by
  intro _ f hf; cases hf

theorem FieldsBack.ctxKill (part : Nat) (ctx : Nat) (seq : Word32) : FieldsBack.Statement (.ctxKill part ctx seq) := by
  intro _ f hf; cases hf

theorem FieldsBack.ctxEnable (part : Nat) (ctx : Nat) (en : Bool) (asid : BitVec 12) : FieldsBack.Statement (.ctxEnable part ctx en asid) := by
  intro _ f hf; cases hf

theorem FieldsBack.ctxSuspend (part : Nat) (ctx : Nat) : FieldsBack.Statement (.ctxSuspend part ctx) := by
  intro _ f hf; cases hf

theorem FieldsBack.ctxResumeAll (part : Nat) (ctx : Nat) : FieldsBack.Statement (.ctxResumeAll part ctx) := by
  intro _ f hf; cases hf

theorem FieldsBack.ctxRelease (part : Nat) (ctx : Nat) : FieldsBack.Statement (.ctxRelease part ctx) := by
  intro _ f hf; cases hf

theorem FieldsBack.wqTailWrite (q : Nat) (v : Word32) : FieldsBack.Statement (.wqTailWrite q v) := by
  intro _ f hf; cases hf

theorem FieldsBack.wqCtlWrite (q : Nat) (v : Word32) : FieldsBack.Statement (.wqCtlWrite q v) := by
  intro _ f hf; cases hf

theorem FieldsBack.launchPacket (port : Nat) (src : Nat) (q : Nat) (rec : LineData) : FieldsBack.Statement (.launchPacket port src q rec) := by
  intro _ f hf; cases hf

theorem FieldsBack.launchAccept (part : Nat) : FieldsBack.Statement (.launchAccept part) := by
  intro _ f hf; cases hf

theorem FieldsBack.pendingLaunchStart (part : Nat) : FieldsBack.Statement (.pendingLaunchStart part) := by
  intro _ f hf; cases hf

theorem FieldsBack.gridCompletion (launch : Nat) : FieldsBack.Statement (.gridCompletion launch) := by
  intro _ f hf; cases hf

theorem FieldsBack.sliceBoundary (part : Nat) : FieldsBack.Statement (.sliceBoundary part) := by
  intro _ f hf; cases hf

theorem FieldsBack.slcWrite (part : Nat) (n : Nat) (v : Word) : FieldsBack.Statement (.slcWrite part n v) := by
  intro _ f hf; cases hf

theorem FieldsBack.partitionCommit (part : Option Nat) (v : Word32) : FieldsBack.Statement (.partitionCommit part v) := by
  intro _ f hf; cases hf

theorem FieldsBack.commitComplete : FieldsBack.Statement (.commitComplete) := by
  intro _ f hf; cases hf

theorem FieldsBack.quiesceRequest (part : Option Nat) (q : Nat) : FieldsBack.Statement (.quiesceRequest part q) := by
  intro _ f hf; cases hf

theorem FieldsBack.quiesceCancel (part : Option Nat) (q : Nat) : FieldsBack.Statement (.quiesceCancel part q) := by
  intro _ f hf; cases hf

theorem FieldsBack.partitionQuiesced (part : Nat) : FieldsBack.Statement (.partitionQuiesced part) := by
  intro _ f hf; cases hf

theorem FieldsBack.partNbndWrite (part : Option Nat) (v : Word32) : FieldsBack.Statement (.partNbndWrite part v) := by
  intro _ f hf; cases hf

theorem FieldsBack.seamRoutesReady : FieldsBack.Statement (.seamRoutesReady) := by
  intro _ f hf; cases hf

theorem FieldsBack.qownWrite (part : Option Nat) (q : Nat) (v : Word) : FieldsBack.Statement (.qownWrite part q v) := by
  intro _ f hf; cases hf

theorem FieldsBack.doorbell (ch : Nat) (tmpl : Word32) : FieldsBack.Statement (.doorbell ch tmpl) := by
  intro _ f hf; cases hf

theorem FieldsBack.hostMemRead (pa : Nat) : FieldsBack.Statement (.hostMemRead pa) := by
  intro _ f hf; cases hf

theorem FieldsBack.hostMemWrite (pa : Nat) (mask : LineMask) (data : LineData) : FieldsBack.Statement (.hostMemWrite pa mask data) := by
  intro _ f hf; cases hf

theorem FieldsBack.registerWrite (part : Nat) (num : Nat) (inst : Nat) (v : Word) : FieldsBack.Statement (.registerWrite part num inst v) := by
  intro _ f hf; cases hf

theorem FieldsBack.powerOn : FieldsBack.Statement (.powerOn) := by
  intro _ f hf; cases hf

theorem FieldsBack.bootGo : FieldsBack.Statement (.bootGo) := by
  intro _ f hf; cases hf

theorem FieldsBack.bringupStageDone (ok : Bool) (rpt : StageReport) : FieldsBack.Statement (.bringupStageDone ok rpt) := by
  intro _ f hf; cases hf

theorem FieldsBack.attestRequest : FieldsBack.Statement (.attestRequest) := by
  intro _ f hf; cases hf

theorem FieldsBack.attestReport : FieldsBack.Statement (.attestReport) := by
  intro _ f hf; cases hf

theorem FieldsBack.shutdown : FieldsBack.Statement (.shutdown) := by
  intro _ f hf; cases hf

theorem FieldsBack.clkWrite (v : BitVec 2) : FieldsBack.Statement (.clkWrite v) := by
  intro _ f hf; cases hf

theorem FieldsBack.throttle (draw : BitVec 16) : FieldsBack.Statement (.throttle draw) := by
  intro _ f hf; cases hf

theorem FieldsBack.overtempPowerOff : FieldsBack.Statement (.overtempPowerOff) := by
  intro _ f hf; cases hf

theorem FieldsBack.powerLoss : FieldsBack.Statement (.powerLoss) := by
  intro _ f hf; cases hf

theorem FieldsBack.portLinkFail (port : Nat) : FieldsBack.Statement (.portLinkFail port) := by
  intro _ f hf; cases hf

theorem FieldsBack.portTrained (port : Nat) (ok : Bool) (oneLane : Bool) : FieldsBack.Statement (.portTrained port ok oneLane) := by
  intro _ f hf; cases hf

theorem FieldsBack.portFence (part : Nat) (port : Nat) (fen : Bool) : FieldsBack.Statement (.portFence part port fen) := by
  intro _ f hf; cases hf

theorem FieldsBack.ptpSync (off : Int) : FieldsBack.Statement (.ptpSync off) := by
  intro _ f hf; cases hf

theorem FieldsBack.ptpSlaveSelect (port : Option Nat) : FieldsBack.Statement (.ptpSlaveSelect port) := by
  intro _ f hf; cases hf

theorem FieldsBack.throttleRelease (draw : BitVec 16) : FieldsBack.Statement (.throttleRelease draw) := by
  intro _ f hf; cases hf

end Sys2Proof.Laws
end

