-- ==== Sys2Proof/Laws/Steps.lean ====
section
/-!
SUPPORT. What a fetch of a held line and a scalar instruction of the table come to.
-/

namespace Sys2Proof.Machine

/-- A fetch of a line that the core holds and that passes its checks answers that line and changes nothing. -/
theorem fetchLine_held {s : State} {w : Warp} {pc : Word} {d : BitVec 512} (h : s.codeLine w pc = some d) :
    (fetchLine w.core w.part w.asid (pcLine pc).toNat).run s = (.ok d, s) := by
  unfold State.codeLine at h
  unfold fetchLine
  simp only [StateT.run, bind, StateT.bind, get, getThe, MonadStateOf.get, StateT.get, pure]
  revert h
  cases hl : (s.core w.core).icache.find? (fun l => l.part == w.part && l.asid == w.asid && l.ln == (pcLine pc).toNat) with
  | none => intro h; simp at h
  | some l =>
    intro h
    simp only at h
    split at h
    · rename_i hp; simp at h; simp at hp; have h1 := hp.1; rw [h] at h1; simp [hp.2, h, h1]; rfl
    · simp at h

/-- A scalar instruction of the table: its result and flags at the width of its type. -/
theorem scalar3_of {s : State} {w : Warp} {ty : Ty} {d a : SReg} {b : SSrc} (h : s.Executes w)
    (f : (n : Nat) → BitVec n → BitVec n → SRes n) (n : Nat) (hn : n = aluWidth ty) (r : SRes n)
    (hr : f n ((w.s a).setWidth n) ((w.ssrc b ty.signed).setWidth n) = r) :
    scalar3 ty d a b f s = scalarTo s w ty d r.val r.c r.v := by
  unfold scalar3
  rw [warpOp_of h]
  subst hn
  unfold Warp.salu scalarTo
  cases hw : ty.wide
  · have e : aluWidth ty = 32 := by simp [aluWidth, hw]
    revert r; rw [e]
    intro r hr
    subst hr
    simp [aluExt, Warp.flagsOf]
  · have e : aluWidth ty = 64 := by simp [aluWidth, hw]
    revert r; rw [e]
    intro r hr
    subst hr
    simp [aluExt, Warp.flagsOf]

end Sys2Proof.Machine
end

