-- ==== Sys2Proof/Tests/Slice0.lean ====
section
/-!
SUPPORT. The author's own tests: an ill-formed term for each check of WellFormed, a word written out from the tables of R236-R244 for each
encoded constructor, and, for each statement, concrete states and operands that meet its hypotheses.
-/

namespace Sys2Proof.Tests

-- One theorem after the other: each kernel evaluation that waits would hold a thread.
set_option Elab.async false

open Sys2Proof.Machine

/-! ## WellFormed -/

/-- Each check of WellFormed refuses a term: a type outside the instruction's set, an odd register of a 64-bit type, a field past its limit. -/
theorem test_ill_formed :
    [Instr.sadd .b32 1 2 (.reg 3), .sclz .i32 1 2, .sext .i64 1 2, .sbfx .i64 1 2 60 4, .sbfi 1 2 63 1, .trap 0xFFFF,
     .vadd ⟨0, false⟩ .f32 0 0 (.reg 0), .vadd ⟨0, false⟩ .i64 1 0 (.reg 0), .vsub ⟨0, false⟩ .i64 0 1 (.reg 0), .vmul ⟨0, false⟩ .i64 0 0 (.reg 1),
     .vmad ⟨0, false⟩ .n64 0 0 0 1, .vand ⟨0, false⟩ .i32 0 0 (.reg 0), .vabs ⟨0, false⟩ .n32 0 0, .vmov ⟨0, false⟩ .b64 0 255,
     .vsel ⟨0, false⟩ .b64 0 0 1 0, .vcmp ⟨0, false⟩ 6 .i32 0 0 (.reg 0), .vbcast ⟨0, false⟩ .b64 1 0, .vadds ⟨0, false⟩ .i64 0 0 (.reg 0),
     .fadd ⟨0, false⟩ .e4m3 0 0 (.reg 0), .fadd ⟨0, false⟩ .f16 0 0 (.imm 0x10000), .fma ⟨0, false⟩ .f64 0 0 0 1, .fclass ⟨0, false⟩ .i32 0 0,
     .fcopysign ⟨0, false⟩ .f64 0 0 1, .fcmp ⟨0, false⟩ 0 .i32 0 0 (.reg 0), .frcp ⟨0, false⟩ .f64 0 0, .fsqrt ⟨0, false⟩ .f64 0 1,
     .fdiv ⟨0, false⟩ .f16 0 0 0, .fscale ⟨0, false⟩ .i32 0 0 (.reg 0), .cvt ⟨0, false⟩ .b32 .i8 0 0, .cvtb ⟨0, false⟩ .f32 5 0 0,
     .pack ⟨0, false⟩ .f32 .f32 0 0 0, .unpack ⟨0, false⟩ .i16 .i32 2 0 0, .shflIdx ⟨0, false⟩ .i32 0 0 0, .voteEq ⟨0, false⟩ .b64 0 1,
     .reds ⟨0, false⟩ .and .i32 0 0, .scan ⟨0, false⟩ .add .b32 false 0 0, .ld ⟨0, false⟩ .b64 1 ⟨.s 0, 0, 0⟩ .none .warp,
     .st ⟨0, false⟩ .b64 ⟨.s 0, 0, 0⟩ 1 .none .warp, .lds .f32 0 0 0 0 .none .warp, .ldl ⟨0, false⟩ .i32 0 0 0, .stl ⟨0, false⟩ .b64 0 0 1,
     .mld ⟨0, false⟩ .f32 (.t 0) 0 0 0 .none .warp, .mst ⟨0, false⟩ .bf16 0 0 0 (.a 0) .none .warp,
     .atom ⟨0, false⟩ .fadd .i32 false 0 ⟨.s 0, 0, 0⟩ 0 .relaxed .warp, .atom ⟨0, false⟩ .cas .b64 false 0 ⟨.s 0, 0, 0⟩ 254 .relaxed .warp,
     .atom ⟨0, false⟩ .cas .b32 false 0 ⟨.s 0, 0, 0⟩ 255 .relaxed .warp, .red ⟨0, false⟩ .xch .b32 false ⟨.s 0, 0, 0⟩ 0 .relaxed .warp,
     .fence .relaxed .core, .barSync 0 .warp 0, .barArrive 0 .core 16, .barWait 0 .quad 8, .barExcuse 0 .ret 16, .mma ⟨0, false⟩ 9 0 0 0 0,
     .mms ⟨0, false⟩ 14 0 0 0 0 0].all (fun i => !i.wf) = true := by decide

/-! ## Words (R236-R244) -/

/-- Words of the scalar group.  Source: the opcode map of R244, the fields of R236-R242. -/
def wordsScalar : List (Nat × Instr) :=
  [(0x80000001000000FC01604002, .sadd .i64 1 63 (.imm 0x80000001)),
   (0x150F802407003, .ssub .n32 2 62 (.reg 21)),
   (0x80000003000000F403603004, .smul .i32 3 61 (.imm 0x80000003)),
   (0x170F004408104, .smulh .n64 4 60 (.reg 23)),
   (0x80000005000000EC05603005, .sdiv .i32 5 59 (.imm 0x80000005)),
   (0x190E806408105, .srem .n64 6 58 (.reg 25)),
   (0x80000007000000E40760F006, .sand .b64 7 57 (.imm 0x80000007)),
   (0x1B0E008400106, .sor .b32 8 56 (.reg 27)),
   (0x80000009000000DC0960F206, .sxor .b64 9 55 (.imm 0x80000009)),
   (0x1D0D80A400306, .sandn .b32 10 54 (.reg 29)),
   (0x8000000B000000D40B600007, .sshl .b32 11 53 (.imm 0x8000000B)),
   (0x1F0D00C40F107, .sshr .b64 12 52 (.reg 31)),
   (0x8000000D000000CC0D600207, .ssra .b32 13 51 (.imm 0x8000000D)),
   (0x210C80E40F307, .srot .b64 14 50 (.reg 33)),
   (0x8000000F000000C40F604008, .smin .i64 15 49 (.imm 0x8000000F)),
   (0x230C010407108, .smax .n32 16 48 (.reg 35)),
   (0x1805400009, .sclz .b32 5 6),
   (0x180540F109, .spop .b64 5 6),
   (0x1805400209, .sctz .b32 5 6),
   (0x180540F309, .sbrev .b64 5 6),
   (0x180540600B, .sext .n16 5 6),
   (0x400001, .nop),
   (0x180540F00A, .smov 5 (.reg 6)),
   (0xFFFFFFFE000000000560F10A, .smovh 5 0xFFFFFFFE),
   (0x2C8000000100340800C, .sbfx .n64 3 4 8 11),
   (0x3F000000100340F10C, .sbfi 3 4 63 0),
   (0x7000050100340F00D, .slea 3 4 5 7),
   (0x50100040800E, .scmp .n64 4 (.reg 5)),
   (0xA000050100340F00F, .ssel 3 4 5 10),
   (0x50080340F010, .srd 3 2 5),
   (0x9400011, .sflgGet 9),
   (0x2400400111, .sflgSet 9)]
theorem test_decode_wordsScalar : wordsScalar.all (fun q => decide (decodeTableWord 96 q.1 = some q.2)) = true := by decide +kernel

/-- Words of the control group.  Source: the opcode map of R244, the fields of R236-R242. -/
def wordsControl : List (Nat × Instr) :=
  [(0xFFFFFFF00000000000C00020, .br 0xFFFFFFF0),
   (0x40000000000C00D21, .bcc 13 4),
   (0x50000003C00C00022, .bmz 15 5),
   (0x60000000400C00122, .bmnz 1 6),
   (0x73200000000C00023, .call 200 7),
   (0xC0002000C00123, .calli 8 3),
   (0xC00024, .ret),
   (0xC00025, .exit),
   (0xC00028, .yield),
   (0xC00029, .region),
   (0x2C00C00026, .post 11),
   (0x2C0CC00027, .join 12 11),
   (0xB03000C0002A, .quota 12 11),
   (0xFFFE0000000000E00030, .trap 0xFFFE),
   (0xE00031, .rte),
   (0x4010000001805E0F032, .sysrd 5 6 0x0401),
   (0x4020000601400E0F033, .syswr 5 6 0x0402),
   (0x1C00E00034, .rmack 7),
   (0x240801C00E00035, .pgpurge 7 8 9),
   (0x12C0000000000E00036, .pause 300),
   (0xE00037, .park)]
theorem test_decode_wordsControl : wordsControl.all (fun q => decide (decodeTableWord 96 q.1 = some q.2)) = true := by decide +kernel

/-- Words of the vector group.  Source: the opcode map of R244, the fields of R236-R242. -/
def wordsVector : List (Nat × Instr) :=
  [(0x1FE59100004040, .vadd ⟨0, false⟩ .i64 0 100 (.reg 254)),
   (0x800000599023F7041, .vsub ⟨15, true⟩ .n32 2 102 (.imm 8)),
   (0x1FA5A104033042, .vmul ⟨3, false⟩ .i32 4 104 (.reg 250)),
   (0xA000005A906208142, .vmulh ⟨0, false⟩ .n64 6 106 (.imm 10)),
   (0x1F65B1081F0044, .vand ⟨15, true⟩ .b32 8 108 (.reg 246)),
   (0xC000005B90A23F144, .vor ⟨3, false⟩ .b64 10 110 (.imm 12)),
   (0x1F25C10C00F244, .vxor ⟨0, false⟩ .b64 12 112 (.reg 242)),
   (0xE000005C90E3F0344, .vandn ⟨15, true⟩ .b32 14 114 (.imm 14)),
   (0x1EE5D110030045, .vshl ⟨3, false⟩ .b32 16 116 (.reg 238)),
   (0x10000005D91220F145, .vshr ⟨0, false⟩ .b64 18 118 (.imm 16)),
   (0x1EA5E1141F0245, .vsra ⟨15, true⟩ .b32 20 120 (.reg 234)),
   (0x12000005E91623F345, .vrot ⟨3, false⟩ .b64 22 122 (.imm 18)),
   (0x1E65F118003046, .vmin ⟨0, false⟩ .i32 24 124 (.reg 230)),
   (0x14000005F91A3F8146, .vmax ⟨15, true⟩ .n64 26 126 (.imm 20)),
   (0x1E26011C03304D, .vadds ⟨3, false⟩ .i32 28 128 (.reg 226)),
   (0x16000006091E20714D, .vsubs ⟨0, false⟩ .n32 30 130 (.imm 22)),
   (0x4210641102118043, .vmad ⟨1, true⟩ .n64 2 4 6 8),
   (0x42908024047, .vabs ⟨2, false⟩ .i64 8 10),
   (0x42908023147, .vneg ⟨2, false⟩ .i32 8 10),
   (0x42908020048, .vclz ⟨2, false⟩ .b32 8 10),
   (0x4290802F148, .vpop ⟨2, false⟩ .b64 8 10),
   (0x4290802F04B, .vmov ⟨2, false⟩ .b64 8 10),
   (0x390340901000049, .vsel ⟨0, false⟩ .b32 1 2 3 14),
   (0x1FF4040701754A, .vcmp ⟨1, false⟩ 5 .n32 7 1 (.reg 255)),
   (0x850600F14B, .vbcast ⟨0, false⟩ .b64 6 33),
   (0x3F800000000000010630024B, .vmovi ⟨0, true⟩ .b32 6 0x3F800000),
   (0x14D00704C, .vlane ⟨0, false⟩ 77)]
theorem test_decode_wordsVector : wordsVector.all (fun q => decide (decodeTableWord 96 q.1 = some q.2)) = true := by decide +kernel

/-- Words of the float group.  Source: the opcode map of R244, the fields of R236-R242. -/
def wordsFloat : List (Nat × Instr) :=
  [(0x1FE59100009060, .fadd ⟨0, false⟩ .f16 0 100 (.reg 254)),
   (0x800000599023FC061, .fsub ⟨15, true⟩ .f64 2 102 (.imm 8)),
   (0x1FA5A10403A062, .fmul ⟨3, false⟩ .bf16 4 104 (.reg 250)),
   (0xA000005A90620B064, .fmin ⟨0, false⟩ .f32 6 106 (.imm 10)),
   (0x1F65B1081FC164, .fmax ⟨15, true⟩ .f64 8 108 (.reg 246)),
   (0xC000005B90A239264, .fminnum ⟨3, false⟩ .f16 10 110 (.imm 12)),
   (0x1F25C10C00B364, .fmaxnum ⟨0, false⟩ .f32 12 112 (.reg 242)),
   (0xE000005C90E3FC06B, .fscale ⟨15, true⟩ .f64 14 114 (.imm 14)),
   (0x421064110200C063, .fma ⟨0, false⟩ .f64 2 4 6 8),
   (0x421064110200C163, .fms ⟨0, false⟩ .f64 2 4 6 8),
   (0x421064110200C263, .fnma ⟨0, false⟩ .f64 2 4 6 8),
   (0x421064110200C363, .fnms ⟨0, false⟩ .f64 2 4 6 8),
   (0x4290815C065, .fabs ⟨5, true⟩ .f64 8 10),
   (0x4290815A165, .fneg ⟨5, true⟩ .bf16 8 10),
   (0x4290815B067, .fclass ⟨5, true⟩ .f32 8 10),
   (0x4290815B069, .frcp ⟨5, true⟩ .f32 8 10),
   (0x42908159169, .frsq ⟨5, true⟩ .f16 8 10),
   (0x4290815C269, .fsqrt ⟨5, true⟩ .f64 8 10),
   (0x4290815A369, .fexp2 ⟨5, true⟩ .bf16 8 10),
   (0x4290815B469, .flog2 ⟨5, true⟩ .f32 8 10),
   (0x4290815B569, .fsin ⟨5, true⟩ .f32 8 10),
   (0x42908159669, .fcos ⟨5, true⟩ .f16 8 10),
   (0x4290815B769, .ftanh ⟨5, true⟩ .f32 8 10),
   (0x1034090100B265, .fcopysign ⟨0, false⟩ .f32 1 2 3),
   (0x6000004090100B068, .frnd ⟨0, false⟩ .f32 1 2 6),
   (0x1064110200C06A, .fdiv ⟨0, false⟩ .f64 2 4 6),
   (0xFFC00000000004080420B766, .fcmp ⟨0, false⟩ 7 .f32 4 2 (.imm 0xFFC00000))]
theorem test_decode_wordsFloat : wordsFloat.all (fun q => decide (decodeTableWord 96 q.1 = some q.2)) = true := by decide +kernel

/-- Words of the collective group.  Source: the opcode map of R244, the fields of R236-R242. -/
def wordsCollective1 : List (Nat × Instr) :=
  [(0x10000040D0201C080, .cvt ⟨1, false⟩ .f64 .i8 2 3),
   (0x40000040D0200A081, .cvtb ⟨0, false⟩ .bf16 4 2 3),
   (0xB0010440D0200D082, .pack ⟨0, false⟩ .e4m3 .f32 2 3 4),
   (0x330000040D02005083, .unpack ⟨0, false⟩ .n8 .i32 3 2 3),
   (0x1054110200F084, .shflIdx ⟨0, false⟩ .b64 2 4 5),
   (0x941102000184, .shflUp ⟨0, false⟩ .b32 2 4 (.reg 9)),
   (0x100000041102200284, .shflDn ⟨0, false⟩ .b32 2 4 (.imm 16)),
   (0x10000041102320384, .shflXor ⟨2, true⟩ .b32 2 4 (.imm 1)),
   (0x801000085, .voteAll ⟨0, false⟩ 1 2),
   (0x801000185, .voteAny ⟨0, false⟩ 1 2),
   (0x4080100F285, .voteEq ⟨0, false⟩ .b64 1 2),
   (0x828000385, .voteBallot ⟨0, false⟩ 40 2),
   (0x4180300C086, .reds ⟨0, false⟩ .add .f64 3 6),
   (0x4190800C087, .scan ⟨0, false⟩ .add .f64 false 8 6),
   (0x41803008186, .reds ⟨0, false⟩ .min .n64 3 6),
   (0x10000041908008187, .scan ⟨0, false⟩ .min .n64 true 8 6),
   (0x4180300B286, .reds ⟨0, false⟩ .max .f32 3 6),
   (0x4190800B287, .scan ⟨0, false⟩ .max .f32 false 8 6),
   (0x41803000386, .reds ⟨0, false⟩ .and .b32 3 6),
   (0x10000041908000387, .scan ⟨0, false⟩ .and .b32 true 8 6),
   (0x4180300F486, .reds ⟨0, false⟩ .or .b64 3 6),
   (0x4190800F487, .scan ⟨0, false⟩ .or .b64 false 8 6),
   (0x41803000586, .reds ⟨0, false⟩ .xor .b32 3 6),
   (0x10000041908000587, .scan ⟨0, false⟩ .xor .b32 true 8 6),
   (0x300801000088, .mand ⟨0, false⟩ 1 2 3),
   (0x300801000188, .mor ⟨0, false⟩ 1 2 3),
   (0x300801000288, .mxor ⟨0, false⟩ 1 2 3),
   (0x801000388, .mnot ⟨0, false⟩ 1 2),
   (0x801000089, .mmovMask ⟨0, false⟩ 1 2),
   (0xA801000189, .mmovFromScalar ⟨0, false⟩ 1 42),
   (0x82A000289, .mmovToScalar ⟨0, false⟩ 42 2),
   (0x82A00008A, .mcnt ⟨0, false⟩ 42 2)]
theorem test_decode_wordsCollective1 : wordsCollective1.all (fun q => decide (decodeTableWord 96 q.1 = some q.2)) = true := by decide +kernel

/-- Words of the collective group.  Source: the opcode map of R244, the fields of R236-R242. -/
def wordsCollective2 : List (Nat × Instr) :=
  [(0x82A00018A, .mfirst ⟨0, false⟩ 42 2)]
theorem test_decode_wordsCollective2 : wordsCollective2.all (fun q => decide (decodeTableWord 96 q.1 = some q.2)) = true := by decide +kernel

/-- Words of the memory group.  Source: the opcode map of R244, the fields of R236-R242. -/
def wordsMemory1 : List (Nat × Instr) :=
  [(0x25FFFF8000034250290C0A0, .ld ⟨0, true⟩ .f64 2 ⟨.v 9, 3, 0xFFFF8⟩ .pin .sys),
   (0x460000541000024008010A1, .st ⟨0, false⟩ .i8 ⟨.s 9, 0, 5⟩ 4 .strm .pod),
   (0x610000400003008018070A2, .lds .n32 1 2 3 4 .repl .core),
   (0x200004004030080080F0A3, .sts .b64 2 3 1 4 .none .quad),
   (0x8000000000009018000A4, .ldl ⟨0, false⟩ .b32 1 2 0x80000),
   (0x8410000080080F0A5, .stl ⟨0, false⟩ .b64 2 8 4),
   (0x43000800000300A3F80A0A6, .mld ⟨0, false⟩ .bf16 (.t 63) 2 3 128 .strm .ret),
   (0x80C7C030080081B0A7, .mst ⟨1, false⟩ .f32 2 3 128 (.a 31) .none .warp),
   (0x640000300002404008000A8, .pld ⟨0, false⟩ ⟨.v 1, 2, 3⟩ .repl .wafer),
   (0x1000000300002005018020A9, .ldpd ⟨0, false⟩ .i16 1 ⟨.s 1, 2, 3⟩),
   (0x1000000340402004008020AA, .stpd ⟨0, false⟩ .i16 ⟨.s 1, 2, 3⟩ 1),
   (0x20000003404024040080B0AB, .xst ⟨0, false⟩ .f32 ⟨.v 1, 2, 3⟩ 1),
   (0x2000000042007018058000AC, .mcst ⟨0, false⟩ .b32 5 6 7 8),
   (0x18058000AD, .gjoin 5 6),
   (0x8001AD, .gleave),
   (0x8000AE, .gbar),
   (0x50000841800411028080AF, .atom ⟨0, false⟩ .add .n64 false 2 ⟨.v 4, 0, 8⟩ 6 .relaxed .sys),
   (0x10000841800410008080B0, .red ⟨0, false⟩ .add .n64 false ⟨.v 4, 0, 8⟩ 6 .relaxed .core),
   (0x10D0000841800411028031AF, .atom ⟨0, false⟩ .min .i32 true 2 ⟨.v 4, 0, 8⟩ 6 .acq .sys),
   (0x1090000841800410008031B0, .red ⟨0, false⟩ .min .i32 true ⟨.v 4, 0, 8⟩ 6 .acq .core),
   (0x150000841800411028042AF, .atom ⟨0, false⟩ .max .i64 false 2 ⟨.v 4, 0, 8⟩ 6 .rel .sys),
   (0x110000841800410008042B0, .red ⟨0, false⟩ .max .i64 false ⟨.v 4, 0, 8⟩ 6 .rel .core),
   (0x11D0000841800411028003AF, .atom ⟨0, false⟩ .and .b32 true 2 ⟨.v 4, 0, 8⟩ 6 .ar .sys),
   (0x1190000841800410008003B0, .red ⟨0, false⟩ .and .b32 true ⟨.v 4, 0, 8⟩ 6 .ar .core),
   (0x500008418004110280F4AF, .atom ⟨0, false⟩ .or .b64 false 2 ⟨.v 4, 0, 8⟩ 6 .relaxed .sys),
   (0x100008418004100080F4B0, .red ⟨0, false⟩ .or .b64 false ⟨.v 4, 0, 8⟩ 6 .relaxed .core),
   (0x10D0000841800411028005AF, .atom ⟨0, false⟩ .xor .b32 true 2 ⟨.v 4, 0, 8⟩ 6 .acq .sys),
   (0x1090000841800410008005B0, .red ⟨0, false⟩ .xor .b32 true ⟨.v 4, 0, 8⟩ 6 .acq .core),
   (0x1500008418004110280F6AF, .atom ⟨0, false⟩ .xch .b64 false 2 ⟨.v 4, 0, 8⟩ 6 .rel .sys),
   (0x11D00008418004110280F7AF, .atom ⟨0, false⟩ .cas .b64 true 2 ⟨.v 4, 0, 8⟩ 6 .ar .sys),
   (0x50000841800411028078AF, .atom ⟨0, false⟩ .incw .n32 false 2 ⟨.v 4, 0, 8⟩ 6 .relaxed .sys),
   (0x10000841800410008078B0, .red ⟨0, false⟩ .incw .n32 false ⟨.v 4, 0, 8⟩ 6 .relaxed .core)]
theorem test_decode_wordsMemory1 : wordsMemory1.all (fun q => decide (decodeTableWord 96 q.1 = some q.2)) = true := by decide +kernel

/-- Words of the memory group.  Source: the opcode map of R244, the fields of R236-R242. -/
def wordsMemory2 : List (Nat × Instr) :=
  [(0x10D00008418004110280C9AF, .atom ⟨0, false⟩ .fadd .f64 true 2 ⟨.v 4, 0, 8⟩ 6 .acq .sys),
   (0x10900008418004100080C9B0, .red ⟨0, false⟩ .fadd .f64 true ⟨.v 4, 0, 8⟩ 6 .acq .core),
   (0x1E0000000000000008000B1, .fence .ar .pod),
   (0x10000F00000000038000B2, .barSync 3 .core 15),
   (0x20000700000000038001B2, .barArrive 3 .quad 7),
   (0x30000F00000000038002B2, .barWait 3 .ret 15),
   (0x50003F00000000038003B2, .barExcuse 3 .sys 63),
   (0x5000000000400C008000B3, .clean 3 4 .sys),
   (0x5000000000400C008001B3, .inval 3 4 .sys),
   (0x5000000000400C008002B3, .flush 3 4 .sys),
   (0x20000400003009018000B4, .ldacq ⟨0, false⟩ .b32 1 ⟨.s 2, 3, 4⟩ .none .quad),
   (0x20000440403008008000B5, .strel ⟨0, false⟩ .b32 ⟨.s 2, 3, 4⟩ 1 .none .quad)]
theorem test_decode_wordsMemory2 : wordsMemory2.all (fun q => decide (decodeTableWord 96 q.1 = some q.2)) = true := by decide +kernel

/-- Words of the matrix group.  Source: the opcode map of R244, the fields of R236-R242. -/
def wordsMatrix : List (Nat × Instr) :=
  [(0x4260380B01A400C0, .mma ⟨4, false⟩ 0 1 2 3 9),
   (0xF7FE008FF1FA000C1, .mmb ⟨0, false⟩ 15 31 63 0 255),
   (0xC884120380B01A000C2, .mms ⟨0, false⟩ 8 200 1 2 3 4),
   (0x4110380A01A000C3, .spcmp ⟨0, false⟩ 1 2 3 4),
   (0x80A01A000C4, .mtrn ⟨0, false⟩ 1 2),
   (0x201A000C5, .mzero ⟨0, false⟩ (.t 1)),
   (0x40C00C0A01A000C6, .mcvt ⟨0, false⟩ 1 2 3),
   (0x103C0B01A000C7, .mscale ⟨0, false⟩ 1 2 3),
   (0x24008000D0, .xcp .d1 9),
   (0x24008001D0, .xcp .d2 9),
   (0x24008002D0, .xcp .d3 9),
   (0x24008003D0, .xcpTmpl 9),
   (0x98000D1, .xbatch 9),
   (0x24008000D2, .xwait 9),
   (0x9020008000D3, .rinit 8 9),
   (0x24088000D4, .rawait 8 9),
   (0x9020008000D5, .rrel 8 9),
   (0x9020008000D6, .rfill 8 9),
   (0x24008000D7, .mvs 9),
   (0x24088000D8, .cred 8 9),
   (0x24088000D9, .cmc 8 9),
   (0x24088000DA, .cag 8 9),
   (0x24088000DB, .rlq 8 9)]
theorem test_decode_wordsMatrix : wordsMatrix.all (fun q => decide (decodeTableWord 96 q.1 = some q.2)) = true := by decide +kernel

/-- Which check of R243 refuses a word. -/
def refusedBy (w : BitVec 96) : Option DecodeErr :=
  match decode w with
  | .ok _ => none
  | .error e => some e

/-- Steps 2 and 3 of R243: the all-zero word, an unassigned OPC, a SUB that the map does not list, an operand of the wrong class, a reserved XAF,
SPACE 3; then a non-zero unused field and MSK on an instruction without lanes.  Source: R241-R243. -/
theorem test_decode_refused :
    [0x0#96, 0x4000F0#96, 0x400F01#96, 0x200503403002#96, 0x94260380B01A000C0#96, 0x3000000000000409018000A0#96].map refusedBy =
        List.replicate 6 (some .illegal) ∧
      [0x10000000000400001#96, 0x410001#96].map refusedBy = List.replicate 2 (some .reserved) := by decide +kernel

/-! ## A small machine -/

/-- A code line of five NOPs with the given TGT bits (R228-R230). -/
def nops (tgt : BitVec 15) : BitVec 512 :=
  let n : BitVec 96 := 0x400001
  let lw : Word32 := tgt.setWidth 32 ||| (if oddOnes tgt then 0x4000 else 0)
  lw ++ n ++ n ++ n ++ n ++ n

/-- Every permission, key domain 0. -/
def allPerm : Perm := { rd := true, wr := true, ex := true, us := true, cls := 0, kd := 0 }

/-- A line that the L1 holds whole, for a warp of partition 0. -/
def held (asid : BitVec 12) (va : Nat) (d : LineData) : L1Line :=
  { key := { part := 0, asid := asid, ln := va / 128 }, data := d, valid := BitVec.allOnes 128, dirty := 0, perm := allPerm, pa := va, pin := false,
    poi := false, own := none }

/-- A running warp of core 0 at slot 0 of code line 16 that holds its first 64 window lines: v0-v9, t0-t5, a0-a1. -/
def warp (asid : BitVec 12) : Warp :=
  { Warp.init with
      wid := 1, st := .running, asid := asid, pc := mkPc 16 0, img := 0x10000, wres := 400, wbo := 4, vt := 10, va := 34, ql := 1280, launch := 7
      tvec := mkPc 17 0, ten := 0xFFFFFFFF, prog := 3, blv := 15
      lines := (List.range 64).map (fun i => { idx := i, data := 0, dirty := false }) }

/-- A launch of one workgroup. -/
def launch7 : Launch :=
  { uid := 7, lid := 7, part := 0, ctx := 0, asid := 5, queue := 0, lrec := 0, desc := 0, st := .running, depc := 0, place := [0], imgs := [0],
    gone := [], left := 1, outst := [], kills := [], cin := [], cout := [], edges := [], failed := false, started := true, fed := 0, late := false, excused := [] }

/-- A formed partition of the whole wafer with a warp that executes, two code lines (the second without TGT bits), two L1 lines, one granted page. -/
def mach (w : Warp) : State :=
  let q : Machine.Part := { Part.init 0 with formed := true, quarters := [0, 1, 2, 3] }
  let code (ln : Nat) (t : BitVec 15) : ILine := { part := 0, asid := w.asid, ln := ln, data := nops t, poi := false }
  let c : Core :=
    { Core.init with icache := [code 16 31, code 17 31, code 18 0], l1 := [held w.asid 0x20000 0, held w.asid 0x10400 (mkPc 17 0).toNat]
                     grants := [{ page := 0, part := 0, ctx := 0, launch := 7 }] }
  { State.reset with
      plat := { Plat.init with stage := 0x08 }, wafer := { Wafer.init with shape := 0, seams := 15, nbnd := 15 }
      parts := #v[q, Part.init 1, Part.init 2, Part.init 3], cores := [(0, c)], warps := [w], cur := some w.wid, launches := [launch7] }

/-- A user warp and a supervisor warp in their machines. -/
def uw : Warp := warp 5
def sw : Warp := warp 0
def us : State := mach uw
def ss : State := mach sw

/-- EncodedNeverStops, ScalarResults, ScalarMovesAndFields, FlagsReadAndSet, ExitEndsTheWarp, TrapAndPark and every statement about one warp:
a warp executes, at user and at supervisor level; at reset none does. -/
theorem test_warp_executes : us.Executes uw ∧ ss.Executes sw ∧ uw.sup = false ∧ sw.sup = true ∧ State.reset.curWarp = none ∧
    us.launch? uw.launch = some launch7 := by
  refine ⟨rfl, rfl, ?_, ?_, rfl, rfl⟩ <;> decide

/-- The warp goes on after its accesses, as a Bool. -/
def goesOn (s t : State) (w : Warp) : Bool := (s.stalled t).isNone && !(t.warp? w.wid).any (fun x => x.st == .killed && w.st != .killed)

/-- An action that may trap answers, and the warp goes on. -/
def okM {α : Type} (m : M α) (s : State) (w : Warp) : Bool :=
  match m.run.run s with
  | (.ok _, u) => goesOn s u w
  | (.error _, _) => false

theorem goesOn_of {s t : State} {w : Warp} (h : goesOn s t w = true) : s.GoesOn t w := by
  simpa [goesOn, State.GoesOn] using h

theorem answers_of {α : Type} {m : M α} {s : State} {w : Warp} (h : okM m s w = true) : ∃ a u, Answers m s a u ∧ s.GoesOn u w := by
  unfold okM at h
  split at h
  · exact ⟨_, _, by assumption, goesOn_of h⟩
  · cases h

/-- A given answer of an action that may trap, after which the warp goes on. -/
theorem answers_val {α : Type} [DecidableEq α] {m : M α} {s : State} {w : Warp} {a : α}
    (h : (match m.run.run s with
      | (.ok b, u) => decide (b = a) && goesOn s u w
      | (.error _, _) => false) = true) : ∃ u, Answers m s a u ∧ s.GoesOn u w := by
  split at h
  · rename_i b u he
    simp only [Bool.and_eq_true, decide_eq_true_eq] at h
    exact ⟨u, by rw [Answers, he, h.1], goesOn_of h.2⟩
  · cases h

theorem gives_of {α : Type} {m : SM α} {s : State} {w : Warp} (h : goesOn s (m.run s).2 w = true) : ∃ a u, Gives m s a u ∧ s.GoesOn u w :=
  ⟨_, _, rfl, goesOn_of h⟩

/-- A value and the state in which the warp goes on. -/
theorem gives_val {α : Type} {m : SM α} {s : State} {w : Warp} {a : α} (ha : (m.run s).1 = a) (h : goesOn s (m.run s).2 w = true) :
    ∃ u, Gives m s a u ∧ s.GoesOn u w :=
  ⟨_, Prod.ext ha rfl, goesOn_of h⟩

/-- Two actions in turn, and the warp goes on after the second. -/
theorem gives_then {β : Type} {m : SM Unit} {n : SM β} {s : State} {w : Warp} (h : goesOn s (n.run (m.run s).2).2 w = true) :
    ∃ u, Gives m s () u ∧ ∃ r v, Gives n u r v ∧ s.GoesOn v w :=
  ⟨_, rfl, _, _, rfl, goesOn_of h⟩

/-- The values that several statements give bit by bit exist: SBFI, TRP_CAUSE, VCMP, the votes, the mask instructions, FCMP. -/
theorem test_bitwise :
    (∀ j < 64, (0 : Word).getLsbD j = if 3 ≤ j ∧ j ≤ 9 then (uw.s 1).getLsbD (j - 3) else (uw.s 2).getLsbD j) ∧
      (∀ j < 64, (0 : Word).getLsbD j = if j = 63 ∨ (32 ≤ j ∧ j < 36) then (uw.s 1).getLsbD j else uw.trpCause.getLsbD j) ∧
      (∀ l < 32, (0 : Word32).getLsbD l = if (uw.active ⟨0, false⟩).getLsbD l then (uw.m 1).getLsbD l else (uw.m 2).getLsbD l) ∧
      (∀ l < 32, (0 : Word32).getLsbD l = if (uw.active ⟨0, false⟩).getLsbD l then decide (uw.laneN .i32 1 l ≠ uw.blaneN .i32 (.reg 2) l)
        else (uw.m 1).getLsbD l) ∧
      (∀ l < 32, (0 : Word32).getLsbD l = if (uw.active ⟨0, false⟩).getLsbD l then (uw.fval .f32 1 l).lt (uw.fvalB .f32 (.reg 2) l)
        else (uw.m 1).getLsbD l) := by
  refine ⟨?_, ?_, ?_, ?_, ?_⟩ <;> decide +kernel

/-! ## Control and traps: states that meet the hypotheses -/

/-- Branches, TrapDelivery, CallAndReturn: a target that R234 takes, one that it refuses, a branch not taken. -/
theorem test_targets :
    us.isTarget uw (branchTarget uw.pc 5) ∧ us.notTarget uw (branchTarget uw.pc 10) ∧ uw.cond 15 = false ∧ uw.cond 14 = true ∧
      us.isTarget uw uw.tvec ∧ us.notTarget { uw with tvec := 7 } 7 := by
  refine ⟨⟨?_, nops 31, ?_, ?_⟩, .inr ⟨nops 0, ?_, ?_⟩, ?_, ?_, ⟨?_, nops 31, ?_, ?_⟩, .inl ?_⟩ <;> decide +kernel

/-- ProgramCounter: slot 4 of the last line and slot 0 of the first, whose neighbours wrap around the address space. -/
theorem test_pc_ends :
    (4 < 5 ∧ nextSlot (mkPc (BitVec.allOnes 50) 4) = mkPc 0 0) ∧ (0 < 5 ∧ branchTarget (mkPc 0 0) 0xFFFFFFFF = mkPc (BitVec.allOnes 50) 4) := by
  decide +kernel

/-- CallAndReturn: the depth and the window at their limits, the L1 line of the link record, a link read back. -/
theorem test_call_and_return :
    ({ uw with depth := 256 } : Warp).depth ≥ 256 ∧ uw.wbo < (5 : Byte).toNat ∧ (4 : Byte).toNat ≤ uw.wbo ∧ uw.img % 128 = 0 ∧
      us.l1Grants uw.core (uw.key (uw.img + 0x0400 + 16 * uw.depth)) 0 .store false (held 5 0x10400 (mkPc 17 0).toNat) ∧
      (us.part uw.part).qst ≠ .reshaping ∧
      (let v : Warp := { uw with depth := 1 }
       let l := held 5 0x10400 (mkPc 17 0).toNat
       0 < v.depth ∧ (mach v).l1Grants v.core (v.key (v.img + 0x0400)) (BitVec.allOnes 128) .load false l ∧
         (mach v).isTarget v (l.data.extractLsb' 0 64) ∧ ∃ a u, Answers (loadLink v) (mach v) a u ∧ (mach v).GoesOn u v) := by
  refine ⟨?_, ?_, ?_, ?_, ⟨?_, ?_, ?_, ?_⟩, ?_, ?_, ⟨?_, ?_, ?_, ?_⟩, ⟨?_, nops 31, ?_, ?_⟩, ?_⟩
  all_goals first | decide +kernel | exact answers_of (by decide +kernel)

/-- YieldPauseAndQuota: a PAUSE that has ended, and a quota move to another warp of the workgroup, at 32 lines left and at 31. -/
theorem test_quota :
    (let w : Warp := { uw with warps := 2, ql := 40, sr := uw.sr.set 1 1 |>.set 2 8 }
     let x : Warp := { uw with wid := 2, widx := 1, warps := 2, ql := 1272 }
     let s : State := { mach w with warps := [w, x] }
     w.s 2 ≠ 0 ∧ (w.s 1).toNat ≠ w.index ∧ s.quotaTarget w (w.s 1) (w.s 2) = some x ∧
       ({ s with warps := [{ w with ql := 39 }, x] } : State).quotaTarget { w with ql := 39 } (w.s 1) (w.s 2) = none ∧
       (w.s 0 = 0 ∧ ({ w with pause := some 0 } : Warp).pause = some 0 ∧ 0 ≤ s.plat.cc)) := by
  decide +kernel

/-- TrapDelivery, HandlerEntry, ReturnFromTrap: a cause of each row of R266, enabled and not, at either trap level; TRP_PC well formed and not. -/
theorem test_traps :
    (trapOf 0x01).cause ≠ 0 ∧ uw.tl = false ∧ uw.ten.getLsbD 1 = true ∧ ({ uw with ten := 0 } : Warp).ten.getLsbD 1 = false ∧
      ({ uw with tl := true } : Warp).tl = true ∧ pcOK ({ uw with tl := true } : Warp).trpPc = true ∧
      pcOK ({ uw with tl := true, trpPc := 5 } : Warp).trpPc = false ∧
      (let t : Trap := { cause := 255, wst := 15, code := 65535 }; t.cause < 256 ∧ t.wst < 16 ∧ t.code < 65536) := by decide +kernel

/-! ## System registers, shoot-down, records -/

/-- SystemRegisterAccess, RegisterWrites: a number below, at and past each kind of range, an instance that the partition owns and one that does not
exist, both levels. -/
theorem test_system_registers :
    ss.ownsStack sw.part 0 = true ∧ ss.ownsStack sw.part 47 = true ∧ ss.ownsStack sw.part 48 = false ∧
      [0x5, 0x7, 0xC, 0x14, 0x103, 0x208, 0x2D0, 0x341, 0x37F, 0x383, 0x3D0, 0x403, 0x411, 0x601, 0x802, 0x810, 0xFFFF].all (fun n => (regInfo n).isNone) = true ∧
      [0x0, 0x4, 0x8, 0xB, 0x10, 0x13, 0x20, 0x100, 0x102, 0x400, 0x410].all (fun n => (regInfo n).any (fun r => r.rdUser)) = true ∧
      [0x200, 0x207, 0x280, 0x2CF, 0x300, 0x340, 0x380, 0x382, 0x390, 0x3CF, 0x401, 0x402, 0x404, 0x40B, 0x440, 0x5FF, 0x600, 0x800, 0x801, 0x808, 0x80F].all
        (fun n => (regInfo n).any (fun r => !r.rdUser)) = true := by decide +kernel

/-- MapAcknowledge, ShootDown: the version acknowledged and another; an empty range, a base that is not canonical, a range to purge at each end. -/
theorem test_map_and_purge :
    sw.part < 4 ∧ sw.ctx < 64 ∧ (sw.s 0).toNat = (ss.part sw.part).version ∧
      (let v : Warp := { sw with sr := sw.sr.set 1 0x100000000000000 |>.set 2 0xFFFFFFFFFFFFFF |>.set 3 1 }
       (v.s 3).toNat ≠ (ss.part v.part).version ∧ v.sup = true ∧ v.s 0 = 0 ∧ v.s 3 ≠ 0 ∧ (v.s 1).toNat ≥ 2 ^ 56 ∧ (v.s 2).toNat < 2 ^ 56 ∧ v.mid = 0 ∧
         (mach v).ops = [] ∧ (mach v).mcq = [] ∧ (mach v).cache.dir = [] ∧ (∀ e ∈ (mach v).cores, ∀ l ∈ e.2.l1, l.dirty = 0)) := by decide +kernel
theorem test_purge_goes_on :
    let v := ((do purgeGates 0 5 0 0x20000; purgeLines 0 5 0 0x20000 : SM Unit).run ss).2
    ∃ u, Gives (mcFlush 0 5) v true u ∧ ss.GoesOn u sw :=
  ⟨_, by rw [Gives]; exact Prod.ext (by decide +kernel) rfl, goesOn_of (by decide +kernel)⟩

/-- A line of a bank that is the home of the line at 0x20000. -/
def homeLine (asid : BitVec 12) (d : LineData) : BLine :=
  { bank := 5, way := 0, key := { part := 0, asid := asid, ln := 0x400 }, role := .home, age := 0, pin := false, data := d, dirty := 0, epoch := 0, perm := allPerm,
    pa := 0, poi := false }

/-- A directory entry of that line. -/
def homeEnt (s : State) (asid : BitVec 12) : DirEnt :=
  { anchor := s.anchor { part := 0, asid := asid, ln := 0x400 }, key := { part := 0, asid := asid, ln := 0x400 }, st := .home, home := 5, rmask := [], vloc := 0,
    vv := false, cpend := 0, hist := [], hcnt := 0, cls := 0 }

/-- The small machine with that home. -/
def hmach (w : Warp) (d : LineData) : State :=
  let s := mach w
  { s with cache := { s.cache with dir := [homeEnt s w.asid], lines := [homeLine w.asid d] } }

/-- A line with bytes at some offsets, zero elsewhere. -/
def lineWith (l : List (Nat × Nat)) : LineData := BitVec.ofNat 1024 ((l.map (fun e => e.2 * 256 ^ e.1)).sum)

/-- PostAndJoin: a misaligned, a non-canonical and a good address; the answers of the record's atomics in a machine without page tables; a record at a home,
with counts 0 and 2. -/
theorem test_post_and_join :
    (let w : Warp := { uw with sr := uw.sr.set 1 0x20010 |>.set 2 0x100000000000000 |>.set 3 0x20000 }
     (w.s 1).toNat % 32 ≠ 0 ∧ ((w.s 2).toNat % 32 = 0 ∧ (w.s 2).toNat ≥ 2 ^ 56) ∧ (w.s 3).toNat % 32 = 0 ∧ (w.s 3).toNat < 2 ^ 56) ∧
      (let k := uw.key 0x20000
       let s := hmach uw (lineWith [(16, 2)])
       (∃ u, Gives (relAt uw .wafer) s () u ∧ ∃ r v, Gives (recDecrement uw.core k 0x20000 true) u r v ∧ s.GoesOn v uw) ∧
         let s := hmach uw (lineWith [(16, 2), (20, 1)])
         ∃ u, Gives (relAt uw .wafer) s () u ∧ ∃ r v, Gives (recPost uw.core uw.part uw.ctx k 0x20000 uw.launch true) u r v ∧ s.GoesOn v uw) :=
  ⟨by decide +kernel, gives_then (by decide +kernel), gives_then (by decide +kernel)⟩
theorem test_record_at_home :
    (let d := lineWith [(16, 2), (22, 0xFF), (23, 0xFF)]
     let s := hmach uw d
     s.Executes uw ∧ s.quiet uw ∧ s.homeTakes uw (uw.key 0x20000) (homeLine 5 d) ∧ lineNat d 16 4 = 2 ∧ lineNat d 21 1 = 0 ∧ lineNat d 28 4 = 0 ∧
       lineNat d 20 1 = uw.ctx ∧ lineNat d 22 2 = 0xFFFF ∧ s.coreLive uw.core = true ∧ s.partOfCore uw.core = uw.part ∧ s.launch? uw.launch = some launch7) := by
  refine ⟨rfl, ?_, ⟨?_, homeEnt us 5, ?_⟩, ?_⟩
  · unfold State.quiet; decide +kernel
  · unfold State.reachesAnchor; decide +kernel
  · decide +kernel
  · decide +kernel

/-! ## Vector, floating-point and matrix instructions -/

/-- Every part of the window test, as a Bool. -/
def holds (s : State) (w : Warp) (rs : List Span) : Bool :=
  w.spansOK rs && (rs.isEmpty || !s.renameWaits w) && (w.spanLines rs).all (fun i => w.hasLine i) &&
    (w.wholeLines rs ++ w.spanLines rs).all (fun i => !w.inKennel i)

theorem holds_of {s : State} {w : Warp} {rs : List Span} (h : holds s w rs = true) : s.Holds w rs := by
  simpa [holds, State.Holds, and_assoc] using h

/-- A warp with a mask in m1 whose first half is whole and whose second is part, and one in G16 mode. -/
def mw : Warp := { uw with mr := uw.mr.set 1 0x00FFFFFF |>.set 2 0x0000FFFF }

/-- VectorResults, FloatArithmeticResults, FloatOtherResults, Conversions, LanesAndMasks, Reductions: the operands of a 64-bit type, with a mask and
with none; the limits of the operands' small ranges; a half that is partly active and one that is not; both modes. -/
theorem test_vector_operands :
    us.Holds uw (uw.vDst .f64 8 ⟨0, false⟩ :: uw.vSrc .f64 0 :: uw.bSrc .f64 (.reg 2)) ∧
      (mach mw).Holds mw (mw.vDst .i32 9 ⟨1, true⟩ :: mw.vSrc .i32 0 :: mw.bSrc .i32 (.imm 7)) ∧
      us.Holds uw [uw.vSrc .f64 4, uw.vSrc .f64 6] ∧ us.Holds uw [uw.vDst .n32 255 ⟨0, false⟩] ∧ us.Holds uw (uw.bSrc .i32 (.reg 9)) ∧
      us.Holds uw [⟨uw.vOff 1, 1, true⟩, uw.vSrc .i32 2, uw.vSrc .i32 3] ∧ us.Holds uw [uw.vDst .b32 1 ⟨0, false⟩, uw.vSrc .f32 2] ∧
      us.Holds uw [uw.vDst .i32 1 ⟨0, false⟩, uw.vSrc .i32 2, uw.vSrc .n32 3] := by
  refine ⟨?_, ?_, ?_, ?_, ?_, ?_, ?_, ?_⟩ <;> exact holds_of (by decide +kernel)
theorem test_vector_limits :
    (5 : BitVec 3).toNat < 6 ∧ (let on (m : BitVec 4) (h : Nat) : Nat := ((List.range 16).filter (fun i => (mw.active ⟨m, false⟩).getLsbD (16 * h + i))).length
        [on 1 0, on 1 1, on 2 0, on 2 1] = [16, 8, 16, 0]) ∧
      exactRed .add .i64 = true ∧ exactRed .xor .b32 = true ∧ uw.g16 = false ∧ ({ uw with g16 := true } : Warp).g16 = true ∧ Ty.wide .i64 = true ∧
      Ty.wide .i32 = false := by decide +kernel

/-- FloatRounding, ConversionRules: the ends of each format's codes, a value and a NaN of each, and sums and products that are finite. -/
theorem test_float_values :
    formats.map (fun f => (decide (2 ^ f.width - 1 < 2 ^ f.width), f.flush)) = [(true, false), (true, false), (true, true), (true, true), (true, false), (true, false)] ∧
      fmt16.decode 0x7E00 = .nan ∧ fmt16.decode 0x7C00 = .inf false ∧ (0x8001 % 2 ^ fmt16.fb ≠ 0 ∧ 0x8001 / 2 ^ fmt16.fb % 2 ^ fmt16.eb = 0) ∧
      (∃ r k g, FVal.add .rdn (.fin false 1 0) (.fin true 1 0) = .fin r k g) ∧ (∃ r k g, FVal.mul (.fin false 3 (-2)) (.fin true 5 7) = .fin r k g) ∧
      (0xFF < 2 ^ (Ty.bits .i8) ∧ Ty.isInt .i8 = true ∧ Ty.isInt .f32 = false ∧ fmt32.decode 0x3F800000 ≠ .nan) ∧
      (∃ s m e, fmt32.decode 0x3F800000 = .fin s m e) := by
  refine ⟨?_, ?_, ?_, ?_, ⟨_, _, _, rfl⟩, ⟨_, _, _, rfl⟩, ?_, ⟨_, _, _, rfl⟩⟩ <;> decide +kernel

/-- A warp whose v9 holds a format word in every lane, and the same with no active lane or a word that differs in lane 31. -/
def fw (x : Word32) : Warp :=
  { uw with mr := uw.mr.set 3 0, lines := uw.lines.map (fun l => if l.idx = 13 then { l with data := ofLanes (fun _ => x) } else l) }

/-- FormatWordChecks, MatrixProducts, MatrixMoves, SparseCompress: a voted word of each operand shape (bf16, i8, n4, e4m3 and e5m2, sparse), no vote, no
active lane, a format register outside the window, tiles that end at t63, and the lines of the operands. -/
theorem test_format_words :
    ([0x800#32, 0x555#32, 0x833#32, 0x876#32, 0x8811#32].all fun x =>
      (List.range 32).all (fun l => ((fw x).active ⟨0, false⟩).getLsbD l && laneW ((fw x).vreg 9) l == x)) = true ∧
      (fw 0x800).active ⟨0, false⟩ ≠ 0 ∧ (fw 0x800).active ⟨3, false⟩ = 0 ∧
      (let w : Warp := { uw with wres := 13 }
       w.active ⟨0, false⟩ ≠ 0 ∧ w.spansOK [⟨w.vOff 9, 1, false⟩] = false) ∧
      (let w : Warp := { uw with lines := uw.lines.map (fun l => if l.idx = 13 then { l with data := (1 : LineData) <<< 992 } else l) }
       laneW (w.vreg 9) 30 ≠ laneW (w.vreg 9) 31) ∧ (60 + (16 * 64 + 511) / 512 ≤ 64) ∧
      (∀ r < 16, ((fw 0x800).active ⟨0, false⟩).getLsbD (2 * r) = ((fw 0x800).active ⟨0, false⟩).getLsbD (2 * r + 1)) := by decide +kernel
theorem test_matrix_operands :
    (let w := fw 0x833
     let s := mach w
     s.Holds w [⟨w.vOff 9, 1, true⟩] ∧ s.Holds w [⟨w.aOff 0, 8, true⟩, ⟨w.tOff 0, (16 * 48 + 127) / 128, true⟩, ⟨w.tOff 2, (16 * 48 + 127) / 128, true⟩] ∧
       s.Holds w [⟨w.aOff 0, 8, false⟩, ⟨w.aOff 1, 8, true⟩, ⟨w.vOff 1, 1, true⟩] ∧ s.Holds w [⟨w.tOff 5, 4, false⟩, ⟨w.tOff 0, 4, true⟩] ∧
       s.Holds w [⟨w.tOff 3, (192 + 127) / 128, true⟩, ⟨w.aOff 1, 8, true⟩] ∧
       s.Holds w [⟨w.aOff 0, 8, false⟩, ⟨w.tOff 0, 4, false⟩, ⟨w.tOff 2, 4, false⟩, ⟨w.vOff 9, 1, false⟩]) ∧
      (let w := fw 0x800
       (mach w).Holds w [⟨w.tOff 3, 4, false⟩, ⟨w.tOff 0, 8, true⟩, ⟨w.vOff 1, 1, false⟩]) ∧
      (let w := fw 0x8811
       (mach w).Holds w [⟨w.vOff 2, 1, true⟩, ⟨w.aOff 0, 8, true⟩, ⟨w.tOff 0, 4, true⟩, ⟨w.tOff 2, 8, true⟩]) := by
  refine ⟨⟨?_, ?_, ?_, ?_, ?_, ?_⟩, ?_, ?_⟩ <;> exact holds_of (by decide +kernel)

/-! ## Memory instructions -/

/-- The L1 line of the small machine whose bytes loads and stores use. -/
def dataLine : L1Line := held 5 0x20000 0

/-- A warp whose s1 is the address of that line, s2 one byte past it, s3 not canonical, s4 = 0, s5 = 4. -/
def aw : Warp := { uw with sr := uw.sr.set 1 0x20000 |>.set 2 0x20001 |>.set 3 0x100000000000000 |>.set 5 4 }

theorem loads_of {s : State} {w : Warp} {xs : List LA} (h : s.accessible w false xs)
    (hx : ∀ x ∈ xs, s.l1Line w.core (w.laKey x) = some dataLine ∧ dataLine.perm.check .load (!w.sup) = 0 ∧ aperOf dataLine.pa = none ∧
      spanMask (x.va.toNat % 128) x.n &&& ~~~dataLine.valid = 0 ∧ dataLine.poi = false) : s.loadsHeld w xs := ⟨h, fun x m => ⟨_, hx x m⟩⟩
theorem stores_of {s : State} {w : Warp} {xs : List LA} (h : s.accessible w true xs)
    (hx : ∀ x ∈ xs, s.l1Line w.core (w.laKey x) = some dataLine ∧ dataLine.perm.check .store (!w.sup) = 0 ∧ aperOf dataLine.pa = none) :
    s.storesHeld w xs :=
  ⟨h, fun x m => ⟨_, hx x m⟩⟩

/-- LoadsFromL1, StoresToL1: accesses that the L1 serves: all 32 lanes of a line, a scalar at its end, the rows of a tile. -/
theorem test_l1_serves :
    (mach aw).loadsHeld aw (aw.accs ⟨0, false⟩ ⟨.s 1, 0, 0⟩ 4) ∧ (mach aw).storesHeld aw (aw.accs ⟨0, false⟩ ⟨.s 1, 0, 0⟩ 4) ∧
      (mach aw).loadsHeld aw [{ lane := 0, va := 0x20078, n := 8 }] ∧ (mach aw).storesHeld aw [{ lane := 0, va := 0x20078, n := 8 }] ∧
      (mach aw).loadsHeld aw (aw.rowAccs ⟨0, false⟩ 8 1 0 0) ∧ (mach aw).storesHeld aw (aw.rowAccs ⟨0, false⟩ 16 1 0 0) := by
  refine ⟨loads_of ⟨?_, ?_⟩ ?_, stores_of ⟨?_, ?_⟩ ?_, loads_of ⟨?_, ?_⟩ ?_, stores_of ⟨?_, ?_⟩ ?_, loads_of ⟨?_, ?_⟩ ?_, stores_of ⟨?_, ?_⟩ ?_⟩ <;>
    decide +kernel
theorem test_memory_operands :
    (mach aw).Holds aw (aw.vDst .b32 1 ⟨0, false⟩ :: aw.adSpan ⟨.s 1, 0, 0⟩) ∧ (mach aw).Holds aw (aw.vSrc .b32 1 :: aw.adSpan ⟨.v 2, 1, 0⟩) ∧
      (mach aw).Holds aw [⟨aw.taOff (.t 1), 8 / 4, true⟩] ∧ (mach aw).Holds aw [⟨aw.taOff (.a 1), 32 / 4, true⟩] := by
  refine ⟨?_, ?_, ?_, ?_⟩ <;> exact holds_of (by decide +kernel)

/-- LoadsFromL1, StoresToL1: accesses that answer, and the warp goes on: a load, a load before an acquire, a store that writes no aperture. -/
theorem test_accesses_answer :
    (∃ f t, Answers (loadLanes aw true (loadKind .none .warp false) (aw.accs ⟨0, false⟩ ⟨.s 1, 0, 0⟩ 4)) (mach aw) f t ∧ (mach aw).GoesOn t aw) ∧
      (let t := (loadLanes aw true (loadKind .none .warp (wideScope .warp)) (aw.accs ⟨0, false⟩ ⟨.s 1, 0, 0⟩ 4)).run.run (mach aw)
       ∃ v, Gives (acqAt aw .warp) t.2 () v ∧ (mach aw).GoesOn v aw) ∧
      ∃ t, Answers (storeLanes aw true false false (pure ()) ((aw.accs ⟨0, false⟩ ⟨.s 1, 0, 0⟩ 4).map (fun x => (x, [1, 2, 3, 4])))) (mach aw) [] t ∧
        (mach aw).GoesOn t aw :=
  ⟨answers_of (by decide +kernel), ⟨_, rfl, goesOn_of (by decide +kernel)⟩, answers_val (by decide +kernel)⟩

/-- LaneChecksInOrder: lanes that are misaligned, not canonical, and locked by a copy of the same core. -/
theorem test_lane_checks :
    (let xs (r : SReg) := aw.accs ⟨0, false⟩ ⟨.s r, 0, 0⟩ 4
     let lock : EngOp := { newOp aw.agent 1 7 (.copy { src := 0, dst := 0, sstr1 := 0, dstr1 := 0, sstr2 := 0, dstr2 := 0, len := 1, rows := 1, planes := 1,
                                                       spad := false, dpad := false }) 0 0 [{ pad := false, lo := 0x400, hi := 0x400, wr := true }] false with oid := 9 }
     let s : State := { mach aw with ops := [lock] }
     (s.part aw.part).qst ≠ .reshaping ∧ (xs 2).filter (fun x => x.va.toNat % x.n != 0) ≠ [] ∧
       ((xs 3).filter (fun x => x.va.toNat % x.n != 0) = [] ∧ (xs 3).filter (fun x => decide (2 ^ 56 ≤ x.va.toNat)) ≠ []) ∧
       ((xs 1).filter (fun x => x.va.toNat % x.n != 0) = [] ∧ (xs 1).filter (fun x => decide (2 ^ 56 ≤ x.va.toNat)) = [] ∧
         (xs 1).filter (fun x => s.locked aw.agent false (x.va.toNat / 128) false) ≠ [])) := by decide +kernel

/-- ScratchpadAccess, Atomics: 32 lanes on the granted page, at offset 0, and an acquire that need not wait. -/
theorem test_pads :
    us.padsHeld uw true (uw.accs ⟨0, false⟩ ⟨.s 0, 0, 0⟩ 4) ∧ us.padsHeld uw false (uw.accs ⟨0, false⟩ ⟨.s 0, 0, 0⟩ 4) ∧ us.pads.wf = true ∧
      (us.core uw.core).xch.e ≤ 0x100000 ∧ us.acqWaits uw .sys = false ∧
      us.Holds uw (uw.vDst .b32 1 ⟨0, false⟩ :: uw.atomSpans .cas .b32 ⟨.s 0, 0, 0⟩ 2) ∧
      (∃ vs t, Answers (atomGo uw ⟨0, false⟩ .add .i32 true ⟨.s 0, 0, 0⟩ 2 .rel .wafer) us vs t ∧ us.GoesOn t uw) ∧
      (∃ a t, Gives (acqAt uw .sys) us a t ∧ us.GoesOn t uw) ∧ (Ty.wide .i32 = false ∧ (0xFFFFFFFF : Word).toNat < 2 ^ 32) := by
  refine ⟨?_, ?_, ?_, ?_, ?_, holds_of ?_, answers_of ?_, gives_of ?_, ?_⟩
  all_goals first | decide +kernel | (unfold State.padsHeld; decide +kernel)

/-- Atomics, FencesAndCacheControl: an acquire at `.sys` that must wait: 128 system acquires of the ASID have ended in the last sweep. -/
theorem test_acquire_waits :
    (let s : State := { us with parts := us.parts.set 0 { us.part 0 with acqs := (List.range 128).map (fun i => ((5 : BitVec 12), i)) } }
     s.acqWaits uw .sys = true ∧ s.curWarp = some uw) := by decide +kernel

/-- WindowMoves: a range that starts in the last line of the window and leaves it, a misaligned one, one that is good, and no active lane. -/
theorem test_window_moves :
    (let w : Warp := { fw 0 with sr := uw.sr.set 1 51088 |>.set 2 2 }
     let win (o : Nat) : Span := ⟨o / 128, (o + 32 * 4 + 127) / 128 - o / 128, true⟩
     w.active ⟨0, false⟩ ≠ 0 ∧ w.active ⟨3, false⟩ = 0 ∧ w.spansOK [win (w.s 1).toNat, w.vDst .b32 1 ⟨0, false⟩] = false ∧
       w.spansOK [win 50560, w.vDst .b32 1 ⟨0, false⟩] = true ∧ w.spansOK [win (w.s 1).toNat, w.vSrc .b32 1] = false ∧
       ((w.s 2).toNat % 4 ≠ 0 ∧ w.spansOK [win 2, w.vDst .b32 1 ⟨0, false⟩] = true ∧ w.spansOK [win 2, w.vSrc .b32 1] = true) ∧ (0 : Nat) % 4 = 0) ∧
      (mach (fw 0)).Holds (fw 0) [⟨0, 1, true⟩, (fw 0).vDst .b32 1 ⟨0, false⟩] ∧ (mach (fw 0)).Holds (fw 0) [⟨0, 1, true⟩, (fw 0).vSrc .b32 1] ∧
      (mach (fw 0)).Holds (fw 0) [(fw 0).vDst .b32 1 ⟨3, false⟩] ∧ (mach (fw 0)).Holds (fw 0) [(fw 0).vSrc .b32 1] := by
  refine ⟨by decide +kernel, holds_of ?_, holds_of ?_, holds_of ?_, holds_of ?_⟩ <;> decide +kernel

/-- FencesAndCacheControl: a release, an acquire and a clean after which the warp goes on, an empty and a non-canonical range, a PLD lane
that is not canonical, one that asks for no allocation, and lanes whose lines the L1 holds; a machine with nothing to release. -/
theorem test_fences :
    (∃ u, Gives (released uw .sys) us true u ∧ us.GoesOn u uw) ∧ (∃ u, Gives (acqAt uw .pod) us () u ∧ us.GoesOn u uw) ∧
      (∃ u, Gives (releaseAct aw.core aw.part aw.asid false (fun ln => decide (0x400 ≤ ln) && decide (ln < 0x401))) (mach aw) () u ∧ (mach aw).GoesOn u aw) ∧
      (∃ u, Gives (invalRange aw .wafer (fun ln => decide (0x400 ≤ ln) && decide (ln < 0x401))) (mach aw) () u ∧ (mach aw).GoesOn u aw) ∧
      (∃ u, Gives ((aw.accs ⟨0, false⟩ ⟨.s 1, 0, 0⟩ 0).forM (prefetch aw (loadKind .none .warp false))) (mach aw) () u ∧ (mach aw).GoesOn u aw) ∧
      (aw.s 4 = 0 ∧ aw.s 5 ≠ 0 ∧ (aw.s 3).toNat ≥ 2 ^ 56 ∧ (aw.s 1).toNat < 2 ^ 56) ∧
      (aw.accs ⟨0, false⟩ ⟨.s 3, 0, 0⟩ 0).filter (fun x => decide (2 ^ 56 ≤ x.va.toNat)) ≠ [] ∧ wideScope .core = false ∧ wideScope .quad = true ∧
      sysScope .sys = true := by
  refine ⟨gives_val ?_ ?_, gives_val ?_ ?_, gives_val ?_ ?_, gives_val ?_ ?_, gives_val ?_ ?_, ?_, ?_, ?_, ?_, ?_⟩ <;> first | exact Subsingleton.elim _ _ | decide +kernel
theorem test_nothing_to_release :
    us.quiet uw ∧ us.mcq = [] ∧ (∀ e ∈ us.cache.dir, ¬(e.key.part = uw.part ∧ e.key.asid = uw.asid)) ∧
      (∀ l ∈ us.cache.lines, ¬(l.key.part = uw.part ∧ l.key.asid = uw.asid)) ∧
      ∀ x ∈ aw.accs ⟨0, false⟩ ⟨.s 1, 0, 0⟩ 0, (mach aw).l1Grants aw.core (aw.laKey x) (BitVec.allOnes 128) .load (!aw.sup) dataLine := by
  unfold State.quiet State.l1Grants
  decide +kernel

/-! ## Exchange stores, groups, barriers -/

/-- A machine whose core 0 has an exchange region of 8 KiB in an exchange state. -/
def xmach (w : Warp) (x : Exch) : State := (mach w).updCore 0 (fun c => { c with xch := { x with e := 8192, launch := 7 } })

/-- A member of group 3 whose copy names itself and core 1. -/
def member : Exch := { Exch.none with mem := some (3, 0), copy := [(0, 0), (1, 1)] }

/-- A warp whose s1-s5 are group-window offsets: slot 1, misaligned, past the course of slot 0, slot 2, slot 64; s6, s7 an MCST operand and mask. -/
def gw : Warp :=
  { mw with sr := mw.sr.set 1 0x2000 |>.set 2 0x2002 |>.set 3 0x1000 |>.set 4 0x4000 |>.set 5 0x80000 |>.set 6 0x2300000000 |>.set 7 2 |>.set 8 1 |>.set 9 4096 }

/-- ExchangeStores: lanes that are misaligned, outside a course, without a member, and good; MCST targets outside the partition, not
members, bytes past the course, none. -/
theorem test_exchange :
    (let x := ((xmach gw member).core 0).xch
     let xs (r : SReg) := gw.accs ⟨0, false⟩ ⟨.s r, 0, 0⟩ 4
     let odd (r : SReg) := ((xs r).filter (fun a => a.va.toNat % 4 != 0)).isEmpty
     let out (r : SReg) := ((xs r).filter (fun a => decide (64 ≤ a.va.toNat / x.e) || decide (x.e / 2 < a.va.toNat % x.e + 4))).isEmpty
     let gone (r : SReg) := ((xs r).filter (fun a => x.mem.isNone || (x.slotCore (a.va.toNat / x.e)).isNone)).isEmpty
     odd 2 = false ∧ (odd 3 = true ∧ out 3 = false) ∧ out 5 = false ∧ (odd 4 = true ∧ out 4 = true ∧ gone 4 = false) ∧
       (odd 1 = true ∧ out 1 = true ∧ gone 1 = true)) ∧
      (let s := xmach gw member
       let x := (s.core 0).xch
       let ts (a b : SReg) := ((List.range 64).filter (fun i => (gw.s b).getLsbD i)).map (fun i => ((gw.s a).toNat / 2 ^ 32 % 64 + i % 8, (gw.s a).toNat / 2 ^ 40 % 64 + i / 8))
       let bad (a b : SReg) := (ts a b).any (fun t => decide (35 < t.1) || decide (35 < t.2) || !s.inPart 0 (36 * t.2 + t.1))
       let gone (a b : SReg) := (ts a b).any (fun t => !x.copy.any (fun m => m.2 == 36 * t.2 + t.1))
       bad 6 7 = true ∧ (bad 6 8 = false ∧ gone 6 8 = true) ∧ (bad 0 7 = false ∧ gone 0 7 = false) ∧ x.e / 2 < 4096 + 4 * 32 ∧ ¬x.e / 2 < 0 + 4 * 32 ∧
         gw.s 0 = 0 ∧ (gw.s 2).toNat % 2 ^ 20 % 4 ≠ 0) ∧ gw.active ⟨0, false⟩ ≠ 0 := by decide +kernel
theorem test_exchange_operands :
    (xmach gw member).Executes gw ∧ (xmach gw member).Holds gw (gw.vSrc .b32 0 :: gw.adSpan ⟨.s 1, 0, 0⟩) ∧ (fw 0).active ⟨3, false⟩ = 0 :=
  ⟨rfl, holds_of (by decide +kernel), by decide +kernel⟩

/-- GroupInstructions: no region, a member, a joiner, the first core, and each answer of a group that exists; a warp in each state of a wait. -/
theorem test_groups :
    ((us.core 0).xch.e = 0 ∧ us.Executes uw) ∧ ((xmach uw member).Executes uw ∧ ((xmach uw member).core 0).xch.mem = some (3, 0)) ∧
      (let s := xmach uw { Exch.none with join := some 5 }
       (s.core 0).xch.mem = none ∧ (s.core 0).xch.join = some 5 ∧ 5 ≠ (uw.s 0).toNat % 1024) ∧
      (let s := xmach uw Exch.none
       (s.core 0).xch.e ≠ 0 ∧ (s.core 0).xch.mem = none ∧ (s.core 0).xch.join = none ∧ s.group? 0 0 = none) ∧
      (let g : Machine.Group :=
         { part := 0, gid := 0, asid := 5, launch := 7, e := 8192, phase := 0, members := [⟨0, 0, 1⟩], leaving := [], joiners := [], arr := [], rels := [], revs := [] }
       let s (g : Machine.Group) : State := { xmach uw Exch.none with groups := [g] }
       ((s g).group? 0 0 = some g ∧ g.size ≠ 0 ∧ g.asid = uw.asid ∧ g.launch = ((s g).core 0).xch.launch ∧ g.e = ((s g).core 0).xch.e ∧ g.size < 64) ∧
         ({ g with asid := 6 } : Machine.Group).asid ≠ uw.asid ∧ ({ g with e := 16384 } : Machine.Group).e ≠ 8192 ∧
         64 ≤ ({ g with members := List.replicate 64 ⟨0, 0, 1⟩ } : Machine.Group).size ∧
         ({ g with members := [] } : Machine.Group).size = 0) ∧
      (let w (m : Nat) : Warp := { uw with mid := m }
       [joinWait, joinedAt 63, joinGone, leaveWait, leaveDone, gbarWait, gbarDone true true].all (fun m => (mach (w m)).curWarp == some (w m)) = true ∧
         uw.mid < joinWait ∧ uw.mid < gbarWait ∧ uw.mid ≠ leaveWait ∧ uw.mid ≠ leaveDone) := by
  refine ⟨⟨?_, rfl⟩, ⟨rfl, ?_⟩, ?_, ?_, ?_, ?_⟩ <;> decide +kernel

/-- Barriers: a level not declared, a posted warp, a wait with no arrival, an arrival, an instance that has not released and one that has. -/
theorem test_barriers :
    (let w : Warp := { uw with prog := 2 }
     let a : BarSt := { lvl := 4, bid := 63, phase := 0, open' := true, exc := false, seen := 0 }
     let v : Warp := { w with bars := [a] }
     let b : Bar := { part := 0, launch := 7, lvl := 4, ext := 0, bid := 63, phase := 1, arr := [], exc := [], rels := [(0, false, false)], seen := 0 }
     ({ uw with prog := 0 } : Warp).barLegal .core = false ∧ w.barLegal .warp = false ∧ w.barLegal .core = true ∧ w.barLegal .pod = true ∧
       ({ w with posted := true } : Warp).posted = true ∧ wideScope .core = false ∧ w.barAlone 4 63 = false ∧ w.barSt 4 63 = none ∧ w.mid = 0 ∧
       v.barSt 4 63 = some a ∧ ((mach v).barOf v 4 63).phase ≤ a.phase ∧ a.phase < (({ mach v with bars := [b] } : State).barOf v 4 63).phase ∧
       lvlKey .wafer = 4) := by decide +kernel
theorem test_barrier_release :
    (let w : Warp := { uw with prog := 2 }
     ∃ u, Gives (released w .wafer) (mach w) true u ∧ (mach w).GoesOn u w ∧ (u.barOf w 4 63).phase = ((mach w).barOf w 4 63).phase) :=
  ⟨_, rfl, goesOn_of (by decide +kernel), by decide +kernel⟩

/-! ## Engines -/

/-- A machine in which the line at 0x20000 holds a descriptor, VAs below 2^30 lie in interleaved memory and those of the next 2^30 in stack 0's local
region, page 1 of the scratchpad is granted too, and the gates hold both translations. -/
def emach (w : Warp) (d : LineData) : State :=
  let s := (mach w).updCore 0 (fun c =>
    { c with l1 := [held w.asid 0x20000 d], grants := { page := 1, part := 0, ctx := 0, launch := 7 } :: c.grants })
  let pte (pin : Word) : Word := 0x40003F ||| pin
  let leaf (g vpn : Nat) (pin : Word) : GtcEnt := { gate := g, part := 0, asid := w.asid, lvl := 2, vpn := vpn, pte := pte pin }
  { s with
      gates := { s.gates with gtc := (List.range 36).flatMap (fun g => [leaf g 0 0, leaf g 1 0x400]) }
      parts := s.parts.set 0 { s.part 0 with count := 1, split := 32, ivl := [0] } }

/-- An XCP descriptor: 16 bytes from scratchpad offset 0 to scratchpad offset 0x2000. -/
def copyLine : LineData := lineWith [(0, 0), (8, 0), (9, 0x20), (48, 16), (52, 1), (56, 1), (60, 3)]
/-- A warp whose s1 names the line, s2 is misaligned, s3 names a ring header at scratchpad offset 0. -/
def dw : Warp := { uw with sr := uw.sr.set 1 0x20000 |>.set 2 0x20020 |>.set 3 0x8000000000000000 |>.set 4 1 }

/-- That copy, as a request and as the operation of the warp. -/
def someCopy : XDesc :=
  { src := 0, dst := 0x2000, sstr1 := 0, dstr1 := 0, sstr2 := 0, dstr2 := 0, len := 16, rows := 1, planes := 1, spad := true, dpad := true }
def copyReqOf (x : XDesc) : CopyReq := { x := x, ring := none, crec := 0, jrec := 0 }
def copyOf (x : XDesc) : EngOp := newOp dw.agent 1 7 (.copy x) 0 0 [] false

/-- What the gates of a state give a page of the warp, when they hold a leaf of it. -/
def gateLeaf (s : State) (w : Warp) (va : Nat) : Option Leaf :=
  (s.gates.gtc.find? (fun e => e.holds (bankRet (s.anchor (w.agent.key va))) w.part w.asid va)).bind (fun e =>
    match leafPa (s.part w.part) e.pte e.lvl va with
    | .ok f => some f
    | .error _ => none)

theorem gate_of {s : State} {w : Warp} {va : Nat} {a : Acc} {f : Leaf}
    (h : (onMapPage va == false && decide (va < 2 ^ 56) && f.perm.check a (!w.sup) == 0 && gateLeaf s w va == some f) = true) : s.gateGrants w va a f := by
  simp only [Bool.and_eq_true, beq_iff_eq, decide_eq_true_eq] at h
  obtain ⟨⟨⟨h1, h2⟩, h3⟩, h4⟩ := h
  unfold gateLeaf at h4
  simp only [Option.bind_eq_some_iff] at h4
  obtain ⟨e, he, hf⟩ := h4
  refine ⟨h1, h2, h3, e, he, ?_⟩
  split at hf
  · rename_i g hg
    rw [hg, Option.some.inj hf]
  · cases hf

/-- A descriptor that lies in one line of the L1. -/
theorem desc_of {s : State} {w : Warp} {a : Word} {n : Nat} {bs : List Byte} (l : L1Line)
    (h : (a.toNat % 64 = 0 ∧ a.toNat + n ≤ 2 ^ 56 ∧ (s.part w.part).qst ≠ .reshaping ∧ bs.length = n) ∧
      ∀ i < n, (s.l1Line w.core (w.key (a.toNat + i)) = some l ∧ l.perm.check .load (!w.sup) = 0 ∧ aperOf l.pa = none ∧
        BitVec.allOnes 128 &&& ~~~l.valid = 0 ∧ l.poi = false) ∧ bs[i]? = some (LineData.byte l.data ((a.toNat + i) % 128))) : s.descHeld w a n bs :=
  ⟨h.1.1, h.1.2.1, h.1.2.2.1, h.1.2.2.2, fun i hi => ⟨l, h.2 i hi⟩⟩

/-- A range of the scratchpad that passes its probe. -/
theorem rng_of {s : State} {w : Warp} {r : Rng}
    (h : r.pad = true ∧ s.padOK w.core w.part w.ctx r.a.toNat r.n = true ∧ s.padWait w.core r.a.toNat r.n = false) : s.rngFree w r := by
  rw [State.rngFree, if_pos h.1]
  exact h.2

/-- CopiesStart: a misaligned descriptor; a descriptor that is read; checks that pass and a copy that starts, now and in a machine in which the warp keeps
its operation; a full queue. -/
theorem test_copies :
    (let s := emach dw copyLine
     (dw.s 2).toNat % 64 ≠ 0 ∧ (dw.s 1).toNat % 64 = 0 ∧ dw.hold = none ∧ (∃ bs u, Answers (descRead dw.agent 0x20000 128) s bs u ∧ s.GoesOn u dw) ∧
       (∃ sys v, Answers (copyChecks dw.agent (copyReqOf someCopy)) s sys v ∧ s.GoesOn v dw) ∧
       (∃ o t, Answers (copyStart dw.agent (copyOf someCopy) (issueRelease dw.agent)) (s.holding dw (copyOf someCopy)) o t ∧ s.GoesOn t dw) ∧
       64 ≤ ((({ s with copyq := List.replicate 64 (0, 9) } : State).copyq).filter (fun e => e.1 == dw.core)).length) := by
  refine ⟨?_, ?_, ?_, answers_of ?_, answers_of ?_, answers_of ?_, ?_⟩ <;> decide +kernel
theorem test_copy_again :
    (let w : Warp := { dw with hold := some { op := some (copyOf someCopy), turn := 0, head := 0 } }
     let s := emach w copyLine
     s.Executes w ∧ ∃ o t, Answers (copyStart w.agent (copyOf someCopy) (issueRelease w.agent)) s o t ∧ s.GoesOn t w) :=
  ⟨rfl, answers_of (by decide +kernel)⟩
theorem test_copy_descriptors :
    [lineWith [(48, 1), (52, 1), (56, 1), (64, 1)], lineWith [(72, 1)], lineWith [], lineWith [(50, 0), (51, 2)], copyLine].map (fun d =>
      match (descRead dw.agent 0x20000 128).run.run (emach dw d) with
      | (.ok bs, _) => (leNat ((bs.drop 64).take 8) % 32 != 0, leNat ((bs.drop 72).take 8) % 32 != 0, leNat ((bs.drop 48).take 4))
      | _ => (false, false, 7)) = [(true, false, 1), (false, true, 0), (false, false, 0), (false, false, 0x2000000), (false, false, 16)] := by decide +kernel

/-- CopiesStart: a copy between scratchpad rows that starts on the state alone. -/
theorem test_copy_starts :
    (let s := emach dw copyLine
     let bs := (List.range 128).map (fun i => LineData.byte copyLine i)
     s.descHeld dw 0x20000 128 bs ∧ leNat ((bs.drop 48).take 4) = 16 ∧ leNat ((bs.drop 60).take 4) = 3 ∧ s.quiet dw ∧ 2 ≤ s.freeLocks dw.core ∧
       (∀ r ∈ someCopy.srcRngs ++ someCopy.dstRngs, s.rngFree dw r) ∧
       someCopy.rowList.all (fun r => someCopy.rowList.all (fun r' =>
         decide ((r.1.toNat + 15) / 128 < r'.2.toNat / 128) || decide ((r'.2.toNat + 15) / 128 < r.1.toNat / 128))) = true) := by
  refine ⟨desc_of (held 5 0x20000 copyLine) (by decide +kernel), by decide +kernel, by decide +kernel, ?_, by decide +kernel,
    fun r hr => rng_of ((show ∀ r ∈ someCopy.srcRngs ++ someCopy.dstRngs, r.pad = true ∧ (emach dw copyLine).padOK dw.core dw.part dw.ctx r.a.toNat r.n = true ∧
      (emach dw copyLine).padWait dw.core r.a.toNat r.n = false by decide +kernel) r hr), by decide +kernel⟩
  unfold State.quiet
  decide +kernel

/-- BatchesAndLocks: 63 batches and none; a batch with an operation that runs, with one that ended, and empty; places past each space. -/
theorem test_batches :
    (let w : Warp := { uw with batches := List.replicate 63 (1, []) }
     63 ≤ w.batches.length ∧ uw.batches.length < 63) ∧
      (let o : EngOp := { copyOf someCopy with oid := 9 }
       let s (p : Bool) : State := { us with ops := [{ o with posted := p }] }
       (([(65535, [9])].flatMap (fun (b : Nat × List Nat) => b.2)).filterMap (s true).op? ≠ []) ∧ (s true).op? 9 = some { o with posted := true } ∧
         ((1 + 65535 - 65535) % 65535 < 32768)) ∧ (us.acqWaits uw .wafer = false) ∧ (∃ u, Gives (acqAt uw .wafer) us () u ∧ us.GoesOn u uw) ∧
      ((0x8000000000100000 : Word).msb = true ∧ (0x8000000000100000 : Word).toNat % 2 ^ 63 ≥ 2 ^ 20 ∧ (0x100000000000000 : Word).msb = false) := by
  refine ⟨?_, ?_, ?_, gives_val rfl ?_, ?_⟩ <;> decide +kernel

/-- A machine whose scratchpad holds a ring header at 0: two slots of 128 bytes at 0x2000, CL = WR = 1 (and one that is full and taken). -/
def rmach (tk : Byte) : State :=
  { emach dw 0 with pads := [(1, 0x20), (8, 0x80), (12, 2), (14, 1), (16, 1), (20, 1)] ++ (if tk = 0 then [] else [(24, tk)]) }
/-- A fill of its next slot from scratchpad offset 0x100. -/
def fillOf (r : Ring) : XDesc :=
  { src := 0x100, dst := dw.s 3, sstr1 := 0, dstr1 := 0, sstr2 := 0, dstr2 := 0, len := r.slotsz, rows := 1, planes := 1, spad := true, dpad := false }

/-- RingInstructions: a header that is read, accepted, with a filled slot, with a taken one; a slot number out of place; a fill that starts. -/
theorem test_rings :
    ((rmach 0).padHeader dw (dw.s 3) ∧ (rmach 0).Executes dw ∧ (dw.s 2).toNat % 64 ≠ 0) ∧
      (∃ r u, Answers (ringHead dw (dw.s 3)) (rmach 0) r u ∧ (rmach 0).GoesOn u dw) ∧
      (let r := (rmach 0).padRing 0 (dw.s 3)
       r.baseOK = true ∧ r.ok 0 = true ∧ r.cl = r.wr ∧ r.tk ≠ r.wr ∧ r.tk = r.rl ∧ (rmach 0).awaitTurn dw (dw.s 3) = true ∧ (∀ o ∈ (rmach 0).ops, o.sys = false)) ∧
      (let r := (rmach 1).padRing 0 (dw.s 3)
       r.ok 0 = true ∧ r.tk = r.wr ∧ r.tk ≠ r.rl ∧ (dw.s 0).toNat = r.rl % r.nslot ∧ (dw.s 4).toNat ≠ r.rl % r.nslot) ∧
      (us.padRing 0 (dw.s 3)).baseOK = false ∧ (1 ≤ 4096 ∧ 4096 ≤ 4096) := by
  refine ⟨⟨?_, rfl, ?_⟩, answers_of ?_, ?_, ?_, ?_, ?_⟩
  · unfold State.padHeader
    decide +kernel
  all_goals decide +kernel
theorem test_ring_actions :
    (∃ v, Gives (do relAt dw .wafer; ringWrite dw.agent (dw.s 3) [(12, 2, 2), (15, 1, 0), (16, 24, 0), (40, 2, 0)]; dropFills dw (dw.s 3) (fun _ => true)) (rmach 0) () v ∧
        (rmach 0).GoesOn v dw) ∧
      (∃ v, Gives (do ringWrite dw.agent (dw.s 3) [(24, 4, 1)]; acqAt dw .wafer; dropFills dw (dw.s 3) (fun q => q == 0)) (rmach 0) () v ∧
        (rmach 0).GoesOn v dw) ∧
      (∃ v, Gives (do relAt dw .wafer; ringWrite dw.agent (dw.s 3) [(28, 4, 1)]) (rmach 1) () v ∧ (rmach 1).GoesOn v dw) ∧
      (let r := (rmach 0).padRing 0 (dw.s 3)
       let o : EngOp := { copyOf (fillOf r) with ring := some (dw.s 3, 0) }
       (∃ sys v, Answers (copyChecks dw.agent { x := fillOf r, ring := some (dw.s 3), crec := 0, jrec := 0 }) (rmach 0) sys v ∧ (rmach 0).GoesOn v dw) ∧
         ∃ p t, Answers (copyStart dw.agent o (issueRelease dw.agent)) ((rmach 0).holding dw o) p t ∧ (rmach 0).GoesOn t dw) := by
  refine ⟨gives_val rfl ?_, gives_val rfl ?_, gives_val rfl ?_, answers_of ?_, answers_of ?_⟩ <;> decide +kernel
/-- The slots of that ring. -/
def ringRng : Rng := { pad := true, a := 0x2000, n := 256, acc := [.store] }
theorem test_ring_fill :
    (let s := rmach 0
     let r := s.padRing 0 (dw.s 3)
     s.quiet dw ∧ r.pad = true ∧ r.base = 0x2000 ∧ r.slotsz * r.nslot = 256 ∧ (∀ q ∈ ringRng :: (fillOf r).srcRngs, s.rngFree dw q) ∧
       (0x100 + r.slotsz - 1) / 128 < r.base / 128 ∧ ctrDiff r.cl r.rl < r.nslot ∧ ctrDiff r.cl r.wr < 64 ∧ 2 ≤ s.freeLocks dw.core ∧
       (s.copyq.filter (fun e => e.1 == dw.core)).length < 64) := by
  refine ⟨?_, by decide +kernel, by decide +kernel, by decide +kernel, fun q hq => rng_of ((show ∀ q ∈ ringRng :: (fillOf ((rmach 0).padRing 0 (dw.s 3))).srcRngs, q.pad = true ∧
    (rmach 0).padOK dw.core dw.part dw.ctx q.a.toNat q.n = true ∧ (rmach 0).padWait dw.core q.a.toNat q.n = false by decide +kernel) q hq),
    by decide +kernel, by decide +kernel, by decide +kernel, by decide +kernel, by decide +kernel⟩
  unfold State.quiet
  decide +kernel

/-- An MVS descriptor: a 1 x 16 matrix of bf16 at 2^30 in stack 0, X and Y in the scratchpad. -/
def mvsLine : LineData := lineWith [(3, 0x40), (8, 0), (17, 0x20), (24, 1), (28, 16), (32, 32), (36, 12)]
def someMvs : MDesc :=
  { wva := 0x40000000, xva := 0, yva := 0x2000, m := 1, k := 16, wstr := 32, wfmt := 0, xsrc := true, ydst := true, yfmt := false, stack := 0 }
def mvsOf : EngOp :=
  newOp dw.agent 1 7 (.mvs someMvs) 0 0 (boundLock someMvs.wRngs false ++ boundLock [someMvs.xRng] false ++ boundLock [someMvs.yRng] true) false

/-- StackProduct: the descriptor is read, its probes pass, its matrix lies in one stack; the same when the warp keeps its operation. -/
theorem test_stack_product :
    (let s := emach dw mvsLine
     (∃ bs u, Answers (descRead dw.agent 0x20000 64) s bs u ∧ s.GoesOn u dw) ∧
       (∃ u, Answers (orProbe (probeAll dw.agent (rngPages (someMvs.wRngs ++ [someMvs.xRng, someMvs.yRng])))) s () u ∧ s.GoesOn u dw) ∧
       (∃ u, Answers (stackOf dw.agent someMvs.wRngs) s 0 u ∧ s.GoesOn u dw) ∧
       (∃ u, Answers (probeRngs dw.agent ([someMvs.xRng, someMvs.yRng].filter (fun r => r.pad))) s () u ∧ s.GoesOn u dw) ∧
       (∃ u, Gives (rngSys dw.agent [someMvs.xRng, someMvs.yRng]) s false u ∧ s.GoesOn u dw) ∧
       (∃ v, Gives (issueRelease dw.agent mvsOf.locks) (s.holding dw mvsOf) () v ∧ s.GoesOn v dw) ∧
       mvsOf.locks.length ≤ s.freeLocks dw.core ∧ (s.stack 0).queue.length < 64) := by
  refine ⟨answers_of ?_, answers_val ?_, answers_val ?_, answers_val ?_, gives_val ?_ ?_, gives_val rfl ?_, ?_, ?_⟩ <;> decide +kernel
/-- The page of its matrix, and a page of interleaved memory. -/
def affLeaf : Leaf := { perm := allPerm, pa := 2 ^ 50, aff := true }
theorem test_stack_product_starts :
    (let s := emach dw mvsLine
     let bs := (List.range 64).map (fun i => LineData.byte mvsLine i)
     s.descHeld dw 0x20000 64 bs ∧ leNat ((bs.drop 36).take 4) = 12 ∧ s.quiet dw ∧ s.rngFree dw someMvs.xRng ∧ s.rngFree dw someMvs.yRng ∧
       (∀ q ∈ rngPages someMvs.wRngs, ∃ g, s.gateGrants dw q.1 q.2 g ∧ g.aff = true ∧ g.pa / 2 ^ 36 % 64 = 0)) := by
  refine ⟨desc_of (held 5 0x20000 mvsLine) (by decide +kernel), by decide +kernel, ?_, rng_of (by decide +kernel), rng_of (by decide +kernel), fun q hq => ?_⟩
  · unfold State.quiet
    decide +kernel
  · have hq : q = (0x40000000, .load) := by
      simpa using (show ∀ q ∈ rngPages someMvs.wRngs, q ∈ [((0x40000000 : Nat), Acc.load)] by decide +kernel) q hq
    subst hq
    exact ⟨_, gate_of (f := affLeaf) (by decide +kernel), by decide +kernel, by decide +kernel⟩

/-- A CRED of the small machine's group and a multicast copy to core 1 of the wafer. -/
def someCred : CDesc := { src := 0x30000, dst := 0x30080, len := 4, count := 1, op := 0, ty := 3, whr := 0, key := 9, root := 0xFFFF, tmask := 0, gid := 3, member := 0 }
def someCmc : CDesc := { src := 0x30000, dst := 0x2000, len := 4, count := 0, op := 0, ty := 0, whr := 63, key := 0, root := 0, tmask := 1, gid := 0, member := 0 }
def credLine : LineData := lineWith [(2, 3), (8, 0x80), (10, 3), (16, 4), (20, 1), (22, 3), (24, 9), (28, 0xFF), (29, 0xFF)]
/-- The machine of a core that is member 0 of a group of one, with a home of the source line. -/
def cmach : State :=
  let s := (emach dw credLine).updCore 0 (fun k => { k with xch := { member with e := 8192, launch := 7 } })
  let g : Machine.Group :=
    { part := 0, gid := 3, asid := 5, launch := 7, e := 8192, phase := 0, members := [⟨0, 0, 0⟩], leaving := [], joiners := [], arr := [], rels := [], revs := [] }
  let key : LineKey := { part := 0, asid := 5, ln := 0x600 }
  { s with groups := [g]
           cache := { s.cache with dir := [{ homeEnt s 5 with key := key, anchor := s.anchor key }], lines := [{ homeLine 5 0 with key := key }] } }
def credOf' : EngOp :=
  newOp dw.agent 1 7 (.cred someCred) 0 0
    (boundLock [{ pad := false, a := 0x30000, n := 4, acc := [.load] }] false ++ boundLock [{ pad := false, a := 0x30080, n := 4, acc := [.store] }] true) false

/-- CollectivesStart: descriptors that are read, legal and not; a member and none; the probes, the locks, the reads; targets inside the partition and
outside it, bytes past the scratchpad, no target. -/
theorem test_collectives :
    (let s := cmach
     let src : Rng := { pad := false, a := 0x30000, n := 4, acc := [.load] }
     let dst : Rng := { pad := false, a := 0x30080, n := 4, acc := [.store] }
     (∃ bs u, Answers (descRead dw.agent 0x20000 64) s bs u ∧ s.GoesOn u dw) ∧ (∃ u, Answers (probeRngs dw.agent [src, dst]) s () u ∧ s.GoesOn u dw) ∧
       (∃ u, Answers (probeRngs dw.agent [src]) s () u ∧ s.GoesOn u dw) ∧ (∃ u, Gives (rngSys dw.agent [src, dst]) s false u ∧ s.GoesOn u dw) ∧
       (∃ v, Gives (issueRelease dw.agent credOf'.locks) (s.holding dw credOf') () v ∧ s.GoesOn v dw) ∧
       (∃ a u, Gives (engBytes dw.agent 0x30000 (lineCap 4) 4) s a u ∧ s.GoesOn u dw) ∧
       (∃ n u, Gives (engPut dw.agent 0x30080 (lineCap 4) (fillElems 0 4 4)) s n u ∧ s.GoesOn u dw) ∧
       (∃ u, Gives (completeOp 9) { s with ops := [{ credOf' with oid := 9, status := 3, locks := [] }] } () u ∧ s.GoesOn u dw)) := by
  refine ⟨answers_of ?_, answers_val ?_, answers_val ?_, gives_val ?_ ?_, gives_val rfl ?_, gives_of ?_, gives_of ?_, gives_val rfl ?_⟩ <;> decide +kernel
theorem test_collective_checks :
    (let z := List.replicate 64 (0 : Byte)
     (cmach.core 0).xch.mem = some (3, 0) ∧ (us.core 0).xch.mem = none ∧ collBad z someCred false = false ∧ collBad z { someCred with count := 65 } false = true ∧
       collBad z { someCred with count := 0 } false = false ∧ credOf'.locks.length ≤ cmach.freeLocks 0 ∧ cmach.openColl 0 0 3 9 = none ∧
       cmach.liveMembers dw 0 3 = 1 ∧ cmach.liveMembers dw 0 4 = 0 ∧
       cmcBad z { someCmc with dst := 0xFFFFC } = false ∧ cmcBad z { someCmc with key := 1 } = true ∧
       (cmach.partOfCore (coreAt 35 35) = 0 ∧ (2 ^ 20 : Nat) < 0xFFFFD + 4 ∧ 0xFFFFC + 4 ≤ 2 ^ 20 ∧ (36 : Nat) ≤ 35 + 1)) := by decide +kernel
def memLeaf : Leaf := { perm := allPerm, pa := 0x30000, aff := false }
theorem test_collective_starts :
    (let s := cmach
     let bs := (List.range 64).map (fun i => LineData.byte credLine i)
     let key := dw.agent.key 0x30000
     s.Executes dw ∧ bs.length = 64 ∧ s.quiet dw ∧ (∃ f, s.gateGrants dw 0x30000 .load f) ∧ s.homeServes dw key) := by
  refine ⟨rfl, by decide +kernel, ?_, ?_, ?_⟩
  · unfold State.quiet
    decide +kernel
  · exact ⟨_, gate_of (f := memLeaf) (by decide +kernel)⟩
  · refine ⟨?_, { homeEnt (emach dw credLine) 5 with key := dw.agent.key 0x30000, anchor := cmach.anchor (dw.agent.key 0x30000) },
      { homeLine 5 0 with key := dw.agent.key 0x30000 }, ?_, ?_, ?_, ?_, ?_, ?_, ?_⟩ <;> (try unfold State.reachesAnchor) <;> decide +kernel

/-! ## Decoding, the step, the steps of the other agents -/

/-- EncodedDecodesBack: an instruction of the encoded groups that is well formed and has its word. -/
theorem test_has_word : (Instr.trap 0x42).wf = true ∧ encode (.trap 0x42) = some 0x000000420000000000E00030 ∧ (Instr.trap 0x42).encoded = true := by
  decide +kernel

/-- StepRunsDecoded, StepKeepsMemoriesCanonical: the warp of the small machine comes next; reset takes a step. -/
theorem test_step_runs :
    us.plat.on = true ∧ us.agenda = [] ∧ us.tick.urgent.isNone = true ∧ us.tick.plat.cc % 2 = 1 ∧ us.tick.pick = some uw ∧
      (let v : Warp := { uw with since := us.tick.plat.cc, promo := false }
       (us.tick.setWarp v).codeLine uw uw.pc = some (nops 31)) ∧
      (lineWord (nops 31)).extractLsb' 15 17 = 0#17 ∧ (uw.g16 && isMatrix .nop) = false ∧ decode (slotWord (nops 31) (pcSlot uw.pc)) = .ok .nop ∧
      State.reset.memoriesOK = true ∧ (match step State.reset with | .next _ => true | _ => false) = true := by
  refine ⟨?_, ?_, ?_, ?_, ?_, ?_, ?_, ?_, rfl, ?_, ?_⟩ <;> decide +kernel

/-- The small machine with code line 16 whose PAIR bit stands for slots 0 and 1. -/
def pmach (w : Warp) : State := (mach w).updCore 0 (fun c => { c with icache := [{ part := 0, asid := w.asid, ln := 16, data := nops 32, poi := false }] })

/-- PipelineSteps: a head of its sub-core whose next slot pairs, and one past the slots; a warp that waited; an operation in flight; a trap taken again. -/
theorem test_pipeline :
    (us.headOf (us.cands 0 0) = some uw ∧ (us.codeLine uw uw.nextIssue).isSome = true ∧ (pmach uw).headOf ((pmach uw).cands 0 0) = some uw ∧
        (let pair (s : State) : Bool := decide (pcSlot uw.nextIssue < 4) && (s.codeLine uw uw.nextIssue).any (fun d => (lineWord d).getLsbD (5 + pcSlot uw.nextIssue) &&
           !sameKind (slotWord d (pcSlot uw.nextIssue)) (slotWord d (pcSlot uw.nextIssue + 1)) && !takenBranch uw (slotWord d (pcSlot uw.nextIssue)))
         pair (pmach uw) = true ∧ pair us = false) ∧
        (let x : Warp := { uw with wid := 2, age := 1 }
         let s : State := { us with warps := [uw, x] }
         s.headOf (s.cands 0 0) = some uw ∧ s.headOf ((s.cands 0 0).filter (fun x => x.wid != uw.wid)) = some x)) ∧
      (let s : State := { us with plat := { us.plat with cc := 300 } }
       s.ready? uw = true ∧ 256 ≤ s.waited uw) ∧
      (let e : RobEntry := { pc := uw.pc, done := false }
       let w : Warp := { uw with rob := [e] }
       (mach w).warp? w.wid = some w ∧ w.liveRob = [] ++ e :: []) ∧
      (let w : Warp := { uw with chk := true }
       (mach w).ready? w = true ∧ w.mid = 0 ∧ w.rcnt ≠ 3 ∧ ({ w with rcnt := 3 } : Warp).rcnt = 3) := by
  refine ⟨⟨?_, ?_, ?_, ?_, ?_⟩, ?_, ?_, ?_⟩ <;> decide +kernel

/-- The warp's fetch gives a branch that goes elsewhere than the prediction. -/
def misses (s : State) (w : Warp) : Bool :=
  match (fetchInstr w).run { s with cur := some w.wid } with
  | (.ok i, u) => (branchDest i w u).any (fun t => t != w.fpc)
  | _ => false

theorem misses_of {s : State} {w : Warp} (h : misses s w = true) :
    ∃ i u t, Gives (fetchInstr w) { s with cur := some w.wid } (.ok i) u ∧ branchDest i w u = some t ∧ t ≠ w.fpc := by
  unfold misses at h
  split at h
  · rename_i i u he
    cases hb : branchDest i w u with
    | none => simp [hb] at h
    | some t => exact ⟨i, u, t, he, hb, by simpa [hb] using h⟩
  · cases h

/-- PipelineSteps: the entry of a BR -1 whose prediction is the next slot. -/
theorem test_mispredict :
    let e : RobEntry := { pc := mkPc 16 0, done := false }
    let w : Warp := { uw with rob := [e] }
    let s := (mach w).updCore 0 (fun c => { c with icache := [{ part := 0, asid := 5, ln := 16, data := codeLineOf 0xFFFFFFFB0000000000C00021, poi := false }] })
    w.liveRob = e :: [] ∧ ∃ i u t, Gives (fetchInstr w) { s with cur := some w.wid } (.ok i) u ∧ branchDest i w u = some t ∧ t ≠ w.fpc :=
  ⟨by decide +kernel, misses_of (by decide +kernel)⟩

/-- PipelineSteps: a window beyond its quota whose line used least recently is clean or dirty, in the register cache or in the Kennel; a line that is in
neither; a line in the Kennel; code lines to fetch again. -/
theorem test_window_lines :
    (let w (b : Bool) : Warp := { uw with ql := 1, lines := [{ idx := 1, data := 0, dirty := false }, { idx := 2, data := 5, dirty := b }] }
     let s (b : Bool) := mach (w b)
     let l (b : Bool) : WLine := { idx := 2, data := 5, dirty := b }
     ∀ b ∈ [true, false], (s b).warp? (w b).wid = some (w b) ∧ ((w b).kennel ++ (w b).lines).getLast? = some (l b) ∧ (s b).mustEvict (w b) = true ∧
       (s b).evictsFirst (w b) = true ∧ ((w b).lines ++ (w b).kennel).find? (fun x => x.idx == 2) = some (l b)) ∧
      (uw.st = .running ∧ 399 < uw.wres ∧ uw.hasLine 399 = false ∧ uw.inKennel 399 = false ∧ us.renameWaits uw = false) ∧
      (let l : WLine := { idx := 399, data := 0, dirty := true }
       ({ uw with kennel := [l] } : Warp).kennel.find? (fun x => x.idx == 399) = some l) ∧ us.codeOf 0 { part := 0, asid := 5, ln := 8 } ≠ [] := by
  refine ⟨?_, ⟨rfl, ?_, ?_, ?_, ?_⟩, ?_, ?_⟩ <;> decide +kernel

/-- MemorySteps: a request whose page the gate holds, with a leaf and without, one whose page is being walked and one whose page is not; a queued walk; a walk in
its slot; a line held without Wr; a line the L1 does not hold. -/
theorem test_walks :
    (let key : LineKey := { part := 0, asid := 5, ln := 0x400 }
     let s := emach uw 0
     let gate := bankRet (s.anchor key)
     let hit (s : State) := s.gates.gtc.find? (fun e => e.holds gate key.part key.asid (keyVa key))
     let ok (pte : Word) : Bool := match leafPa (s.part 0) pte 2 (keyVa key) with | .ok _ => true | .error _ => false
     let k : Walk := { gate := gate, key := key, wid := 1 }
     let q : State := { s with gates := { s.gates with slots := [k], queue := [{ k with key := { key with ln := 0x800000 } }] } }
     s.warp? 1 = some uw ∧ ((hit s).isSome = true ∧ ok 0x40003F = true ∧ ok 0x417C3F = false ∧ (hit us).isNone = true) ∧
       q.gates.queue.find? (fun x => x.gate == gate) = some { k with key := { key with ln := 0x800000 } } ∧
       (q.gates.slots.any (fun x => q.samePage x k) = true ∧ us.gates.slots.any (fun x => us.samePage x k) = false) ∧
       q.slotsBusy gate = false ∧ q.gates.slots.find? (fun x => x.gate == gate) = some k ∧
       s.ownKey 0 key = true ∧ (s.l1Line 0 key).isSome = true ∧ us.l1Line 0 { key with ln := 0x401 } = none) := by decide +kernel
theorem test_upgrade :
    (let l : L1Line := { held 5 0x20000 0 with perm := { allPerm with wr := false } }
     let s := us.updCore 0 (fun c => { c with l1 := [l] })
     s.ownKey 0 l.key = true ∧ (s.cache.lines.any (fun x => x.key == l.key && !x.perm.wr) || (s.l1Line 0 l.key).any (fun l => !l.perm.wr)) = true) ∧ us.powered ∧ us.plat.cc % 16384 = 0 ∧ us.plat.cc % 65536 = 0 := by
  refine ⟨?_, rfl, ?_, ?_⟩ <;> decide +kernel

/-- MemorySteps: messages in flight; a migration; lines that may leave. -/
theorem test_cache_steps :
    (let key : LineKey := { part := 0, asid := 5, ln := 0x400 }
     let e : DirEnt := { anchor := us.anchor key, key := key, st := .migrating, home := 5, rmask := [], vloc := 9, vv := true, cpend := 0, hist := [], hcnt := 0, cls := 0 }
     let l (r : Role) : BLine := { bank := 5, way := 0, key := key, role := r, age := 0, pin := false, data := 0, dirty := 0, epoch := 0, perm := allPerm, pa := 0, poi := false }
     let s (e : DirEnt) (l : BLine) : State := { us with cache := { us.cache with notices := [⟨key, 5, 3⟩], invs := [⟨5, key⟩], acks := [key], dir := [e], lines := [l] } }
     us.ownKey 0 key = true ∧ (s e (l .home)).dirEnt key = some e ∧ (s e (l .home)).cache.notices = ⟨key, 5, 3⟩ :: [] ∧
       (s e (l .home)).cache.invs = ⟨5, key⟩ :: [] ∧ (s e (l .home)).cache.acks = key :: [] ∧
       (∀ r ∈ [Role.home, .replica], (s { e with st := .home } (l r)).bankLine 5 key = some (l r) ∧ (s { e with st := .home } (l r)).migrating key 5 = false) ∧
       (us.l1Line 0 key).isSome = true) := by decide +kernel

/-- MessageAndRetirementSteps: a packet, an arrival, a release and a revocation on their way; a barrier message, and an instance that is complete. -/
theorem test_messages :
    (let g : Machine.Group :=
       { part := 0, gid := 3, asid := 5, launch := 7, e := 8192, phase := 0, members := [⟨0, 0, 0⟩, ⟨1, 1, 1⟩], leaving := [], joiners := [], arr := [],
         rels := [(0, true)], revs := [(0, 1)] }
     let w : Warp := { uw with mid := gbarWait }
     let s : State := { xmach w member with groups := [g] }
     let b : Bar := { part := 0, launch := 7, lvl := 4, ext := 0, bid := 63, phase := 0, arr := [9], exc := [], rels := [], seen := 0 }
     s.canArrive 0 = true ∧ s.releasing 0 = some (g, true) ∧ s.revoking = some (g, 0, 1) ∧
       ({ us with bars := [b], barq := [] } : State).doneBar = some (launch7, b)) ∧
      ({ us with pkts := [{ src := 0, dst := 1, ph := false, bytes := [] }] } : State).pkts ≠ [] ∧
      ({ us with barq := [{ part := 0, launch := 7, lvl := 4, ext := 0, bid := 63, who := 0, exc := false }] } : State).barq ≠ [] := by
  refine ⟨?_, ?_, ?_⟩ <;> decide +kernel

/-- MessageAndRetirementSteps: the last bank, core and links of a formed partition are live; a context whose acknowledgement is late. -/
theorem test_retirements :
    (us.part (us.partOfQ (retQuarter (bankRet 3455)))).formed = true ∧ us.mapBank 0 3455 = true ∧ us.mapCore 0 1295 = true ∧
      us.mapLinkN 0 (36 * 34 + 35) = true ∧ us.mapLinkE 0 (36 * 35 + 34) = true ∧ us.partOfCore 1295 = 0 ∧
      (let s : State := State.updCtx { us with plat := { us.plat with cc := 70000 } } 0 63 (fun k => { k with en := true, owes := some 0 })
       (s.ctx 0 63).en = true ∧ (s.ctx 0 63).susp = false ∧ (s.ctx 0 63).saved = false ∧ (s.ctx 0 63).owes = some 0 ∧ 0 + 70000 ≤ s.plat.cc) := by
  refine ⟨?_, ?_, ?_, ?_, ?_, ?_, ?_⟩ <;> decide +kernel

/-- StackSteps: a command to select; the phases of a change of data rate; a rate that errors lower; an erase of a quiesced partition and of a running one;
register writes accepted and refused. -/
theorem test_stacks :
    (let c : McCmd :=
       { stack := 47, addr := 0, mask := 0, data := 0, part := 0, asid := 5, kd := 0, poi := false, rd := false, done := false, save := false, held := false, at' := 0 }
     let s : State := { us with mcq := [c] }
     (s.stack 47).phase = .idle ∧ s.mcSelect 47 = some c ∧ s.plat.cc % 1400 = 0) ∧
      ((us.stack 47).en = true ∧ (us.stack 47).cur ≠ 3 ∧ (us.stack 47).phase = .idle ∧ (us.stack 47).scrubbed = false ∧ (us.stack 47).auto = true ∧
        (us.stack 47).busy = false) ∧
      (let s := us.updStack 47 (fun x => { x with corr := List.replicate 65 (31, us.timeNs) })
       ∃ c < 32, 64 < ((recentCorr s.timeNs (s.stack 47).corr).filter (fun e => e.1 == c)).length) ∧
      (let s (f : RatePhase) := us.updStack 47 (fun x => { x with phase := f })
       (s .drain).mcQueue 47 = [] ∧ ((s .drain).stack 47).phase = .drain ∧ ((s .training).stack 47).phase = .training) ∧
      (us.quiesced 0 = false ∧ (us.part 0).formed = true ∧ us.ownsStack 0 47 = true) ∧
      (let s := us.updPart 0 (fun q => { q with qst := .quiesced })
       s.quiesced 0 = true ∧ (∀ k < 48, s.ownsStack 0 k = true → (s.stack k).act = false) ∧ s.ivlRefused 0 0 = false ∧ s.ivlRefused 0 49 = true) ∧
      ((us.part 0).shareRefused 63 0 = false ∧ (us.part 0).shareRefused 63 0x1FF = true ∧ (0xF1#32).toNat % 512 = 241) := by
  refine ⟨?_, ?_, ?_, ?_, ?_, ?_, ?_⟩ <;> decide +kernel
/-- EngineAndSlotSteps: operations at the heads of a core and of a stack; an instance that can end; a multicast copy; one to stop; one that has ended. -/
theorem test_engine_steps :
    (let o : EngOp := { copyOf someCopy with oid := 9 }
     let s : State := { us with ops := [o], copyq := [(0, 9)] }
     s.copyHead 0 = some o) ∧
      (let o : EngOp := { mvsOf with oid := 9 }
       let s : State := State.updStack { us with ops := [o] } 0 (fun k => { k with queue := [9] })
       s.stackHead 0 = some o) ∧
      (let x : Coll := { cid := 3, part := 0, whr := 0, gid := 3, key := 9, len := 4, op := 0, ty := 3, count := 1, root := 0, cag := false,
                         contribs := [(0, 9, [])], bad := false, gone := false }
       let s : State := { us with colls := [x], ops := [{ credOf' with oid := 9 }] }
       s.colls.find? (fun y => y.cid == 3) = some x ∧ s.collReady x = true) ∧
      (let o : EngOp := { credOf' with oid := 9, desc := .cmc { someCmc with whr := 255 }, locks := [] }
       let s : State := { us with ops := [o] }
       s.op? 9 = some o ∧ o.active = true ∧ s.cmcReady { someCmc with whr := 255 } = true ∧ s.colls.find? (fun y => y.cid == 9) = none) ∧
      (let o : EngOp := { copyOf someCopy with oid := 9, stop := true }
       let s : State := { us with ops := [o] }
       s.op? 9 = some o ∧ o.stop = true ∧ o.status = 0) ∧
      (let o : EngOp := { copyOf someCopy with oid := 9, status := 1 }
       let s : State := { us with ops := [o] }
       s.op? 9 = some o ∧ o.status ≠ 0 ∧ o.held = false ∧ o.posted = false) := by
  refine ⟨?_, ?_, ?_, ?_, ?_, ?_⟩ <;> decide +kernel

/-- A launch of one workgroup of one warp with 4 images and a quota of 32 lines, and the partition of the small machine without warps. -/
def launch1 : Launch :=
  { launch7 with lrec := lineWith [(8, 1), (12, 1), (16, 1), (40, 4)], desc := BitVec.ofNat 512 ((32 * 256 ^ 4 + 1 * 256 ^ 36 : Nat)), imgs := [] }
def lmach (ws : List Warp) : State :=
  State.updCtx { us with launches := [launch1], warps := ws } 0 0 (fun k => { k with en := true })

/-- EngineAndSlotSteps: a record for sub-core 0; a warp to start; harvest warps to revoke, to park and to grant again. -/
theorem test_slot_steps :
    (let r : Ready := { core := 0, cls := 1, stamp := 0, part := 0, ctx := 0, launch := 7, src := .launch 0 0 }
     let s : State := { lmach [] with ready := [r] }
     s.nextRecord 0 0 = some r) ∧
      (let w : Warp := { uw with st := .ready }
       (mach w).warp? 1 = some w ∧ w.st = .ready) ∧
      (let w : Warp := { uw with harvest := true }
       (mach w).revocable 0 = true) ∧
      (let w : Warp := { uw with harvest := true, st := .parkedHarvest }
       (mach w).warp? 1 = some w ∧ w.st = .parkedHarvest ∧ w.overQuota = false) ∧
      (let s := us.updCore 0 (fun c => { c with ret := c.grants })
       (s.core 0).ret ≠ []) ∧
      (let s := (lmach [{ uw with harvest := true, st := .kennel, ql := 32 }]).updCore 0 (fun c => { c with revoked := [(0, 0)] })
       s.nextGrant 0 0 = some (0, 0)) := by
  refine ⟨?_, ?_, ?_, ?_, ?_, ?_⟩ <;> decide +kernel

/-- ContextSteps: contexts to save and to resume; warps to kill and killed; a waiting record with room; a parked warp; enables accepted and refused; a
boundary that is due; a gang in use. -/
theorem test_context_steps :
    (let s := lmach [uw]
     (s.ctx 0 0).en = true ∧ (s.ctx 0 0).fail = false ∧ (s.ctx 0 0).saved = false ∧ s.warp? 1 = some uw ∧ uw.st ≠ .killed ∧ uw.st ≠ .saved) ∧
      (let s := State.updCtx us 0 63 (fun k => { k with en := true, saved := true })
       s.resumable 0 63 = true ∧ ∀ d < 64, s.resumable 0 d = true → (s.ctx 0 63).savedAt ≤ (s.ctx 0 d).savedAt) ∧
      (let w : Warp := { uw with st := .killed }
       (mach w).warp? 1 = some w) ∧
      (let r : FaultRec := { cause := 1, wst := 0, nxt := false, code := 0, kind := 0, ctx := 63, asid := 5, pc := 0, va := 0, warp := 0, lanes := 0, seq := 1, mapv := 0,
                             time := 0, aux := 0 }
       let k : Ctx := { Ctx.init with waiting := [r], fqb := 1 }
       let s := State.updCtx us 0 63 (fun _ => k)
       (s.ctx 0 63).waiting = r :: [] ∧ ((s.ctx 0 63).tail + 65536 - (s.ctx 0 63).head) % 65536 < (s.ctx 0 63).ring.2) ∧
      (let w : Warp := { uw with st := .parkedFault, fseq := 4 }
       (mach w).parkedWarp 0 0 4 = some w ∧ (mach w).parkedWarp 0 0 0 = none) ∧
      ((us.ctx 0 63).en = false ∧ ((lmach []).ctx 0 0).en = true ∧ (6 : BitVec 12) ≠ ((lmach []).ctx 0 0).asid) ∧
      (let s := us.updPart 0 (fun q => { q with slcW := 0x80000064, gangW := q.gangW.set 1 2 })
       s.boundaryDue 0 = true ∧ us.gangRefused 0 7 0 = false ∧ s.gangRefused 0 7 3 = true ∧ (99 : Nat) % 65536 < 100) := by
  refine ⟨?_, ?_, ?_, ?_, ?_, ?_, ?_⟩ <;> decide +kernel

/-- QueueAndReshapeSteps: a packet taken and one dropped; a queue whose head is a packet, and one whose ring is not mapped; a launch that is due; a grid
that is done. -/
theorem test_queue_steps :
    (let s : State := State.updPort (us.updQueue 255 (fun k => { k with en := true, asid := 5, log2n := 1 })) 127 (fun x => { x with st := 2, len := true, qcnt := 256 })
     s.packetOK 127 63 255 = true ∧ s.packetOK 127 63 256 = false ∧ s.plat.hostUp = false ∧
       ({ s with plat := { s.plat with stage := 0x80 } } : State).plat.hostUp = true) ∧
      (let s (d : Option LineData) : State := us.updQueue 255 (fun k => { k with en := true, asid := 5, log2n := 1, tail := 1, arr := [(0, d)] })
       (s none).nextQueue 0 = some 255 ∧ (s (some 0)).nextQueue 0 = some 255 ∧ ((s none).part 0).qst ≠ .reshaping) ∧
      (let l : Launch := { launch1 with st := .waitDep }
       let s : State := { us with launches := [l] }
       s.launches.find? (fun l => l.part == 0 && l.st != .running && s.dueLaunch l) = some l) ∧
      (let l : Launch := { launch1 with fed := 1 }
       let s : State := { us with launches := [l], warps := [] }
       s.launch? 7 = some l ∧ s.gridDone l = true) := by
  refine ⟨?_, ?_, ?_, ?_⟩ <;> decide +kernel

/-- The four partitions of reset, formed and quiesced. -/
def quietWafer : State := { us with wafer := Wafer.init, parts := State.reset.parts.map (fun q => { q with formed := true, qst := .quiesced }) }

/-- QueueAndReshapeSteps: shapes refused, accepted without change and with change, by the host and by a partition; seams; QOWN; a partition that
drained; a commit to complete. -/
theorem test_reshape_steps :
    (us.auth 0 = false ∧ (∀ b, some 3 = some b → b < 4 ∧ (quietWafer.part b).formed = true) ∧ us.partOfQ 3 = 0 ∧ quietWafer.partOfQ 3 = 3) ∧
      (quietWafer.shapeWhy true 0xE4 = 0 ∧ changedParts quietWafer.wafer.shape 0xE4 = [] ∧ quietWafer.shapeWhy true 0xE0 = 0 ∧ changedParts quietWafer.wafer.shape 0xE0 ≠ [] ∧
        quietWafer.shapeWhy true 0xE5 = 1 ∧ quietWafer.shapeWhy false 0xE4 = 2 ∧ us.shapeWhy true 0xE4 = 5) ∧
      (quietWafer.nbndRefused 0 = false ∧ quietWafer.nbndRefused 1 = true ∧ quietWafer.qownRefused 0 0xFFFF = false ∧ quietWafer.qownRefused 0 0x10000 = true) ∧
      (let s : State := State.updPart { us with launches := [] } 0 (fun q => { q with qst := .draining })
       s.drained 0 = true) ∧
      (let s : State := { us with wafer := { us.wafer with seams := 1, newShape := some 0 } }
       s.wafer.nbnd ≠ s.wafer.seams ∧ s.wafer.newShape = some 0) := by
  refine ⟨?_, ?_, ?_, ?_, ?_⟩ <;> decide +kernel

/-- HostSteps, PlatformSteps: device memory that is routed and not, before and after a failed bring-up; a register of each kind of instance; the stages; held
and free clocks; the ports; the time base. -/
theorem test_host_steps :
    (let s := emach uw 0
     (s.hostRoute 0xFFF).isSome = true ∧ s.hostRoute (2 ^ 50 - 1) = none ∧ ¬0xE0 < s.plat.stage ∧
       0xE0 < ({ s with plat := { s.plat with stage := 0xE2 } } : State).plat.stage ∧ (2 ^ 54 : Nat) ≤ (2 ^ 54 + 1) % 2 ^ 56) ∧
      ((regInfo 0x340).isSome = true ∧ us.instOK 0 .stack 47 = true ∧ us.instOK 0 .port 127 = true) ∧
      ({ us with plat := { us.plat with stage := 0x80 } } : State).plat.hostUp = true := by
  refine ⟨?_, ?_, ?_⟩ <;> decide +kernel
theorem test_platform_steps :
    ({ State.reset with plat := { Plat.init with on := false } } : State).plat.on = false ∧ us.powered ∧
      ((∀ r : StageReport, (State.reset.plat.stage = 3 → (State.reset.wafer.found r).deadCores.length ≤ 72)) ∧ (3 ≤ (7 : Nat) ∧ (7 : Nat) ≤ 7) ∧ us.plat.shut = false) ∧
      ((∀ p < 4, (quietWafer.part p).formed = true → quietWafer.quiesced p = true) ∧ ¬(∀ p < 4, (us.part p).formed = true → us.quiesced p = true) ∧ (2 : BitVec 2) ≠ 3) ∧
      ((us.port 127).st ∈ [0, 2, 3] ∧ us.partOfPort 127 = 0 ∧ ((us.updPort 127 (fun x => { x with st := 1, fails := [0, 0] })).port 127).st = 1 ∧
        ((us.updPort 127 (fun x => { x with st := 3 })).port 127).st = 3) ∧
      (us.slicing = false ∧ (1000 : Int) < 1001 ∧ ({ us.plat with slave := some 127 } : Plat).slave.isSome = true ∧ 2300 < (2301#16).toNat ∧ (2300#16).toNat ≤ 2300) := by
  refine ⟨rfl, rfl, ⟨fun r h => ?_, ?_, ?_⟩, ?_, ?_, ?_⟩
  · exact absurd h (by decide)
  all_goals decide +kernel

/-! ## Further clauses -/

/-- ShootDown: an operation of the ASID with a lock that meets the range at its end, and operations whose locks stand on both sides of it, in the
scratchpad, or in another ASID; a directory entry within. -/
theorem test_shoot_down :
    (let v : Warp := { sw with sr := sw.sr.set 1 5 |>.set 2 0x20000 |>.set 3 1 }
     let o (asid : BitVec 12) (pad : Bool) (n m : Nat) : EngOp :=
       { newOp { dw.agent with asid := asid } 1 7 (.copy someCopy) 0 0 [{ pad := pad, lo := n, hi := m, wr := false }] false with oid := 9 }
     let hits (o : EngOp) : Bool := o.part == v.part && o.asid == 5 && !o.posted && o.locks.any (fun l => !l.pad && decide (l.lo < 0x600) && decide (0x400 ≤ l.hi))
     (v.s 1).extractLsb' 0 12 = 5 ∧ (v.s 2).toNat / 65536 * 65536 / 128 = 0x400 ∧
       (min ((v.s 2).toNat + (v.s 3).toNat) (2 ^ 56) + 65535) / 65536 * 65536 / 128 = 0x600 ∧ v.mid = 0 ∧ v.sup = true ∧
       [o 5 false 0x5FF 0x700, o 5 false 0 0x400, o 5 false 0 0x3FF, o 5 false 0x600 0x600, o 5 true 0x400 0x400, o 6 false 0x400 0x400].map hits =
         [true, true, false, false, false, false]) := by decide +kernel

/-- RegisterWrites: writes of the interleaving, of the shares, of keys, of the shape and of the slices that are refused and accepted; an owned
stack and port; a context that is on and one that is off. -/
theorem test_supervisor_writes :
    (ss.ivlRefused 0 0 = true ∧ ss.ownsStack 0 47 = true ∧ ss.partOfPort 127 = 0 ∧ (ss.part 0).shareRefused 63 0x1FF = true ∧
       (ss.part 0).qst ≠ .quiesced ∧ (ss.ctx 0 63).en = false ∧ ((lmach [sw]).ctx 0 0).en = true ∧ (lmach [sw]).curWarp = some sw) ∧
      (let s : State := ss.updPart 0 (fun q => { q with qst := .quiesced, gangW := q.gangW.set 1 2 })
       s.curWarp = some sw ∧ s.ivlRefused 0 0 = false ∧ (s.part 0).qst = .quiesced ∧ (∀ k < 48, s.ownsStack 0 k = true → (s.stack k).act = false) ∧
         s.gangRefused 0 7 0 = false ∧ s.gangRefused 0 7 3 = true) ∧
      (ss.auth 0 = false ∧ ss.shapeWhy (ss.auth 0) 0xE4 = 2 ∧ ss.partOfQ 3 = 0) ∧
      (let s : State := { quietWafer with warps := [sw], plat := { quietWafer.plat with auth := 1 } }
       s.curWarp = some sw ∧ s.auth 0 = true ∧ s.nbndRefused 0 = false ∧ s.nbndRefused 1 = true ∧ s.qownRefused 0 0xFFFF = false ∧
         s.qownRefused 0 0x10000 = true ∧ s.partOfQ 3 = 3 ∧ s.shapeWhy (s.auth 0) 0xE5 = 1) := by
  refine ⟨?_, ?_, ?_, ?_⟩ <;> decide +kernel

/-- LaneChecksInOrder: the operands of LDACQ, ATOM, RED, MLD and MST, an acquire that need not wait; scratchpad lanes that are misaligned, outside the
granted pages and locked; a scalar access that is misaligned, not canonical and locked. -/
theorem test_lane_checks_wide :
    (let op : EngOp := { newOp aw.agent 1 7 (.copy someCopy) 0 0 [{ pad := true, lo := 0, hi := 0, wr := true }, { pad := false, lo := 0x400, hi := 0x400, wr := true }] false with oid := 9 }
     let s : State := { mach aw with ops := [op] }
     let xs (r : SReg) := aw.accs ⟨0, false⟩ ⟨.s r, 0, 0⟩ 4
     let odd (xs : List LA) : List LA := xs.filter (fun x => x.va.toNat % x.n != 0)
     let far (xs : List LA) : List LA := xs.filter (fun x => decide (2 ^ 56 ≤ x.va.toNat))
     let off (xs : List LA) : List LA := xs.filter (fun x => !s.padOK aw.core aw.part aw.ctx x.va.toNat x.n)
     let held (pad : Bool) (xs : List LA) : List LA := xs.filter (fun x => s.locked aw.agent pad (x.va.toNat / 128) false)
     let y (r : SReg) : List LA := [aw.scalarAcc .b32 r 4 0]
     s.acqWaits aw .sys = false ∧ odd (xs 2) ≠ [] ∧ (odd (xs 1) = [] ∧ off (xs 1) ≠ []) ∧ (odd (xs 0) = [] ∧ off (xs 0) = [] ∧ held true (xs 0) ≠ []) ∧
       odd (y 2) ≠ [] ∧ (odd (y 3) = [] ∧ far (y 3) ≠ []) ∧ (odd (y 1) = [] ∧ far (y 1) = [] ∧ held false (y 1) ≠ [])) ∧
      (mach aw).Holds aw (aw.vDst .b32 1 ⟨0, false⟩ :: aw.atomSpans .cas .b32 ⟨.s 1, 0, 0⟩ 2) := by
  refine ⟨?_, holds_of ?_⟩ <;> decide +kernel

/-- Barriers: a warp that completes alone because it is posted, excused by an exit, or neither; an arrival whose instance has not released and one whose
instance has; a WAIT that was interrupted; an acquire that must wait. -/
theorem test_barriers_later :
    (let w : Warp := { uw with prog := 2 }
     let a : BarSt := { lvl := 4, bid := 63, phase := 0, open' := true, exc := false, seen := 0 }
     let x : BarSt := { a with exc := true, open' := false }
     let v : Warp := { w with bars := [a], mid := 1 }
     let b : Bar := { part := 0, launch := 7, lvl := 4, ext := 0, bid := 63, phase := 1, arr := [], exc := [], rels := [(0, false, false)], seen := 0 }
     let s (w : Warp) : State := { mach w with parts := us.parts.set 0 { us.part 0 with acqs := (List.range 128).map (fun i => ((5 : BitVec 12), i)) } }
     ({ w with posted := true } : Warp).barAlone 4 63 = true ∧ ({ w with bars := [x] } : Warp).barAlone 4 63 = true ∧ v.barAlone 4 63 = false ∧
       v.barSt 4 63 = some a ∧ a.phase ≥ ((mach v).barOf v 4 63).phase ∧ a.phase < (({ mach v with bars := [b] } : State).barOf v 4 63).phase ∧ v.mid ≠ 0 ∧
       (s w).acqWaits w .sys = true ∧ ({ mach v with bars := [b] } : State).acqWaits v .sys = false ∧ launch7.kills = [] ∧
       (∀ r ∈ b.rels, r.2 = (false, false)) ∧ w.barLegal .sys = true) := by decide +kernel

/-- CollectivesStart: a contribution that waited for lock entries while another warp of the member made it. -/
theorem test_contributed :
    (let o : EngOp := credOf'
     let w : Warp := { dw with hold := some { op := some o, turn := 0, head := 0 } }
     let x : Coll := { cid := 3, part := 0, whr := 0, gid := 3, key := 9, len := 4, op := 0, ty := 3, count := 1, root := 0, cag := false,
                       contribs := [(0, 8, [])], bad := false, gone := false }
     let s : State := { cmach with warps := [w], colls := [x] }
     s.curWarp = some w ∧ (w.s 1).toNat % 64 = 0 ∧ w.hold.isSome = true ∧ o.coll.count ≠ 0 ∧ o.locks.length ≤ s.freeLocks w.core ∧
       s.contributed w.part o.coll = true) := by decide +kernel

/-- FloatRounding: finite values in each order, the largest of a block and a block of zeros. -/
theorem test_exact_values :
    ((FVal.fin false 1 0).lt (.fin false 3 (-1)) = true ∧ (FVal.fin false 3 (-1)).lt (.fin false 1 0) = false ∧ FVal.fin true 0 0 ≠ .nan ∧ (-1 : Int) ≤ 0 ∧ (3 : Nat) ≠ 0) ∧
      (let a (i : Nat) : Nat := if i = 5 then 3 else if i = 6 then 1 else 0
       a 5 ≠ 0 ∧ (128 : Int) = max 0 (min 254 ((0 : Int) + Nat.log2 (a 5) + 127)) ∧ ∀ j < 16, a j ≠ 0 → (0 : Int) + Nat.log2 (a j) ≤ 0 + Nat.log2 (a 5)) := by
  refine ⟨?_, ?_⟩ <;> decide +kernel

/-- What an action of the machine gives, as a Bool: it ends with a value that meets a condition. -/
def givesOk {α : Type} (m : SM (Except Nat α)) (s : State) (p : α → Bool) : Bool :=
  match (m.run s).1 with
  | .ok a => p a
  | .error _ => false

theorem gives_ok {α : Type} {m : SM (Except Nat α)} {s : State} {p : α → Bool} (h : givesOk m s p = true) : ∃ a u, Gives m s (.ok a) u ∧ p a = true := by
  unfold givesOk at h
  split at h
  · exact ⟨_, _, Prod.ext (by assumption) rfl, h⟩
  · cases h

/-- A machine whose walk cache leads to a table at PA 0x10000 with a leaf for the page at 0x20000. -/
def walked : State :=
  let s := (emach uw 0).updPart 0 (fun q => { q with astb := 1 })
  let gate := bankRet (s.anchor { part := 0, asid := 5, ln := 0x400 })
  { s with gates := { s.gates with wc := [{ gate := gate, part := 0, asid := 5, lvl := 2, pfx := 0, next := 0x10000 }] }
           dram := [(0x10000, 0x3D), (0x10002, 0x20)], mcq := [{ readCmd 0 0x10000 0 5 with done := true }] }

/-- MemorySteps: an upgrade that is granted, a probe of a line that its home serves. -/
theorem test_gate_answers :
    (∃ f u, Gives (upgrade { part := 0, asid := 5, ln := 0x400 }) walked (.ok f) u ∧ f.perm.wr = true) ∧
      (∃ x u, Gives (probeStore 0 { part := 0, asid := 5, ln := 0x400 } .store true) (hmach uw 0) (.ok x) u ∧ x.2.2.isNone = true) := by
  exact ⟨gives_ok (by decide +kernel), gives_ok (by decide +kernel)⟩

/-- MemorySteps: a home without copies that serves its core's reads, takes a pin and a write; a notice of that home; lines of a sweep. -/
theorem test_home_steps :
    (let key : LineKey := { part := 0, asid := 5, ln := 0x400 }
     let s := hmach uw 0
     let e := homeEnt s 5
     let l := homeLine 5 0
     s.ownKey 0 key = true ∧ s.dirEnt key = some e ∧ e.st = .home ∧ s.bankLine e.home key = some l ∧ l.role = .home ∧ l.epoch = s.epochOf key ∧
       l.perm.check .load true = 0 ∧ l.perm.check .store true = 0 ∧ e.rmask = [] ∧ e.vv = false ∧ s.clsRepl 0 e.cls = false ∧
       s.clsPol 0 e.cls ≠ 1 ∧ s.clsPol 0 e.cls ≠ 2 ∧ (s.updPart 0 (fun q => { q with rct := q.rct.set 0 0x0400FFFF })).pinOK e.home key e.cls = true ∧
       ({ s with cache := { s.cache with notices := [⟨key, e.home, 3⟩] } } : State).cache.notices = ⟨key, 5, 3⟩ :: [] ∧ s.plat.cc % 16384 = 0 ∧
       (let r : State := { s with cache := { s.cache with dir := [], lines := [{ l with role := .replica, epoch := 7 }] } }
        ∀ l ∈ r.cache.lines, l.bank = 5 → l.epoch ≠ r.epochOf l.key ∧ l.role ≠ .home)) := by decide +kernel

/-- MessageAndRetirementSteps: a store to a live core with a region, one between two partitions, one that must wait for a page on its way back; arrivals that
complete their group's instance and one that does not; barrier messages that complete their instance and one that does not. -/
theorem test_message_ends :
    (let k : XPkt := { src := 0, dst := 0, ph := false, bytes := [(4, 7)] }
     let s := xmach uw member
     let f (s : State) : State := s.updCore 0 (fun c => { c with ret := [{ page := 127, part := 0, ctx := 0, launch := 7 }] })
     s.pktWaits k = false ∧ (s.core 0).xch.e ≠ 0 ∧ s.coreLive 0 = true ∧ s.routed (coreQuarter 0) (coreQuarter 0) = true ∧ s.pads.wf = true ∧
       quietWafer.routed (coreQuarter 0) (coreQuarter 1295) = false ∧ (f s).pktWaits k = true) ∧
      (let g (ms : List Machine.Member) : Machine.Group :=
         { part := 0, gid := 3, asid := 5, launch := 7, e := 8192, phase := 0, members := ms, leaving := [], joiners := [], arr := [], rels := [], revs := [] }
       let s (ms : List Machine.Member) : State := { xmach { uw with mid := gbarWait } member with groups := [g ms] }
       let all (ms : List Machine.Member) : Bool := ms.all (fun m => m.ix == 0)
       ∀ ms ∈ [[⟨0, 0, 0⟩], [⟨0, 0, 0⟩, ⟨1, 1, 1⟩]], (s ms).canArrive 0 = true ∧ ((s ms).core 0).xch.mem = some (3, 0) ∧
         (s ms).group? ((s ms).partOfCore 0) 3 = some (g ms) ∧ ms ≠ [] ∧ (all [⟨0, 0, 0⟩] = true ∧ all [⟨0, 0, 0⟩, ⟨1, 1, 1⟩] = false)) ∧
      (let l (n : Nat) : Launch := { launch1 with desc := BitVec.ofNat 512 (n * 256 ^ 36) }
       let s (n : Nat) : State := { us with launches := [l n] }
       (s 1).launch? 7 = some (l 1) ∧ (s 2).launch? 7 = some (l 2) ∧ (l 1).participants 4 0 = [0] ∧ (l 2).participants 4 0 = [0, 1] ∧ (l 2).gone = []) := by
  refine ⟨?_, ?_, ?_⟩ <;> decide +kernel

/-- MessageAndRetirementSteps: a release on its way to a core that joins. -/
theorem test_join_release :
    (let g : Machine.Group :=
       { part := 0, gid := 3, asid := 5, launch := 7, e := 8192, phase := 1, members := [⟨0, 0, 0⟩], leaving := [], joiners := [], arr := [], rels := [(0, true)], revs := [] }
     let s : State := { xmach uw { Exch.none with join := some 3 } with groups := [g] }
     s.releasing 0 = some (g, true) ∧ (s.core 0).xch.mem = none ∧ g.members.find? (fun y => y.core == 0) = some ⟨0, 0, 0⟩) := by decide +kernel

/-- The source of a multicast copy of that machine, as its step reads it. -/
def cmcRead : Option (List Byte) × State :=
  (engBytes dw.agent (BitVec.ofNat 64 0x30000) (lineCap 4) 4).run { cmach with ops := [{ credOf' with oid := 9, desc := .cmc { someCmc with whr := 255 }, locks := [] }] }

/-- EngineAndSlotSteps: a copy between two places of the granted pages; a product whose share entry is disabled; an instance that a member left; a multicast
copy whose source is read; operations to stop: one held, one without a record; one that has ended. -/
theorem test_engine_ends :
    (let o : EngOp := { copyOf someCopy with oid := 9 }
     let s : State := { emach dw 0 with ops := [o], copyq := [(0, 9)] }
     s.copyHead 0 = some o ∧ s.padOK 0 0 0 0 16 = true ∧ s.padOK 0 0 0 0x2000 16 = true ∧ s.pads.wf = true ∧
       (∀ i < 16, ∀ j < 16, s.padPhys 0 i ≠ s.padPhys 0 (0x2000 + j))) ∧
      ((us.part 0).emaxl 5 = none ∧ (cmcRead.1.isSome && (cmcRead.2.op? 9).isSome) = true ∧ ({ someCmc with whr := 255 } : CDesc).own = true) ∧
      (let x : Coll := { cid := 3, part := 0, whr := 0, gid := 3, key := 9, len := 4, op := 0, ty := 3, count := 2, root := 0, cag := false,
                         contribs := [(0, 9, [])], bad := false, gone := true }
       let s : State := { us with colls := [x], ops := [{ credOf' with oid := 9 }] }
       s.colls.find? (fun y => y.cid == 3) = some x ∧ s.collReady x = true ∧ s.op? 9 = some { credOf' with oid := 9 } ∧ credOf'.status = 0) ∧
      (let o : EngOp := { copyOf someCopy with oid := 9, stop := true }
       o.sys = false ∧ o.ring = none ∧ o.crec = 0 ∧ o.jrec = 0 ∧ o.held = false ∧ o.posted = false ∧ ({ o with held := true } : EngOp).held = true ∧
         us.plat.on = true ∧ (us.part o.part).qst ≠ .reshaping) := by
  refine ⟨?_, ?_, ?_, ?_⟩ <;> decide +kernel

/-- EngineAndSlotSteps: a launch's record; a warp whose image's page is not mapped and one whose image the gate holds, at a target; a warp that may park in the Kennel;
a Kennel warp of a context without saved pages. -/
theorem test_slot_ends :
    (let r : Ready := { core := 0, cls := 1, stamp := 0, part := 0, ctx := 0, launch := 7, src := .launch 0 0 }
     let s : State := { lmach [] with ready := [r] }
     s.nextRecord 0 0 = some r ∧ s.launch? 7 = some launch1 ∧ r.core = 0) ∧
      (let s := (lmach [{ uw with harvest := true, st := .kennel, ql := 32 }]).updCore 0 (fun c => { c with revoked := [(0, 0)] })
       s.nextGrant 0 0 = some (0, 0) ∧ s.padSlot 0 (0, 0) = none ∧ (s.kennelWarp 0 0 (0, 0)).isSome = true) ∧
      (let w : Warp := { uw with harvest := true, st := .parkedHarvest }
       (mach w).kennelRoom w = true) ∧
      (let w : Warp := { uw with st := .ready, back := .ready }
       let probe (s : State) : Option (Nat × Nat) := ((imgProbe w.part w.asid w.img (8192 + 128 * w.wres)).run s).1
       (emach w 0).warp? 1 = some w ∧ w.back = .ready ∧ probe (emach w 0) = none ∧ probe (mach w) = some (2, 0x10000) ∧ pcOK w.pc = true ∧
         (emach w 0).codeLine w w.pc = some (nops 31) ∧ (lineWord (nops 31)).getLsbD (pcSlot w.pc) = true) := by
  refine ⟨?_, ?_, ?_, ?_⟩ <;> decide +kernel

/-- A partition whose slices begin, with no gangs. -/
def sliced : State := us.updPart 0 (fun q => { q with slcW := 0x80000064 })

/-- ContextSteps: a record whose warp is gone; gangs that are empty at a boundary that is due.  HostSteps, PlatformSteps: channels that are up and not; a report that was
asked for; a shutdown of quiesced partitions. -/
theorem test_step_ends :
    (let r : FaultRec := { cause := 1, wst := 0, nxt := false, code := 0, kind := 0, ctx := 63, asid := 5, pc := 0, va := 0, warp := 0, lanes := 0, seq := 1, mapv := 0,
                           time := 0, aux := 0 }
     let s := State.updCtx us 0 63 (fun _ => { Ctx.init with waiting := [r], fqb := 1 })
     (s.recWarp 0 63 r).isNone = true) ∧
      ((sliced.part 0).gangW.toList.all (fun m => m == 0#64) = true ∧ sliced.boundaryDue 0 = true) ∧
      (({ us.plat with stage := 7 } : Plat).chanUp = true ∧ ({ us.plat with stage := 0xE7 } : Plat).chanUp = false ∧ ({ us.plat with code := 1 } : Plat).code = 1) ∧
      (({ us.plat with shut := true } : Plat).shut = true ∧ ∀ p < 4, (quietWafer.part p).formed = true → quietWafer.quiesced p = true) := by
  refine ⟨?_, ⟨?_, ?_⟩, ?_, ?_⟩ <;> decide +kernel

end Sys2Proof.Tests
end

/-! # Calls and returns (R56, R257) -/

section
namespace Sys2Proof.Machine

/-! ## The check of a target (R234) -/

section Target
variable {s : State} {w : Warp} {pc : Word}

/-- The TGT bit of a target whose line the core holds; nothing changes. -/
theorem tgtBit_held {d : BitVec 512} (h : s.codeLine w pc = some d) : (tgtBit w pc).run s = (some ((lineWord d).getLsbD (pcSlot pc)), s) := by
  unfold tgtBit
  simp only [SM.run_bind, fetchLine_held h, SM.run_pure]

theorem badTarget_isTarget (h : s.isTarget w pc) : (badTarget w pc).run s = (false, s) := by
  obtain ⟨hok, d, hd, hbit⟩ := h
  unfold badTarget
  rw [if_pos hok]
  simp only [SM.run_bind, tgtBit_held hd, hbit, SM.run_pure, Bool.not_true]

theorem badTarget_notTarget (h : s.notTarget w pc) : (badTarget w pc).run s = (true, s) := by
  unfold badTarget
  rcases h with hbad | ⟨d, hd, hbit⟩
  · rw [hbad]
    rfl
  · split
    · simp only [SM.run_bind, tgtBit_held hd, hbit, SM.run_pure, Bool.not_false]
    · rfl

/-- The check, as an action that may trap. -/
theorem badTarget_run {b : Bool} {t : State} (h : (badTarget w pc).run s = (b, t)) :
    (monadLift (badTarget w pc) : M Bool).run.run s = (.ok b, t) := by
  rw [M.run_lift, h]

end Target

/-! ## Lines that the L1 holds -/

/-- A byte of an L1 line, when it is valid. -/
def L1Line.byte? (l : L1Line) (b : Nat) : Option Byte := if l.valid.getLsbD b then some (LineData.byte l.data b) else none

theorem State.l1Byte_of_line {s : State} {core : Nat} {k : LineKey} {l : L1Line} (h : s.l1Line core k = some l) (b : Nat) :
    s.l1Byte core k b = l.byte? b := by
  unfold State.l1Byte
  rw [h]
  rfl

/-- The bytes of an L1 after one of its lines was touched. -/
theorem State.l1Byte_touchL1 (s : State) (core c : Nat) (l : L1Line) (k : LineKey) (b : Nat) :
    (s.touchL1 core l).l1Byte c k b = if c = core ∧ k = l.key then l.byte? b else s.l1Byte c k b := by
  by_cases hit : c = core ∧ k = l.key
  · rw [if_pos hit, State.l1Byte_of_line (l := l)]
    rw [State.l1Line_touchL1, if_pos hit]
  · rw [if_neg hit]
    unfold State.l1Byte
    rw [State.l1Line_touchL1, if_neg hit]

/-- A touch of an L1 line changes no code line. -/
theorem State.codeLine_touchL1 (s : State) (core : Nat) (l : L1Line) (w : Warp) (pc : Word) :
    (s.touchL1 core l).codeLine w pc = s.codeLine w pc := by
  have hcode : ((s.touchL1 core l).core w.core).icache = (s.core w.core).icache := by
    unfold State.touchL1
    by_cases hc : w.core = core
    · subst hc
      rw [State.core_updCore_same]
    · rw [State.core_updCore_other _ _ _ _ hc]
  unfold State.codeLine
  rw [hcode]

theorem State.isTarget_touchL1 {s : State} {w : Warp} {pc : Word} (core : Nat) (l : L1Line) (h : s.isTarget w pc) :
    (s.touchL1 core l).isTarget w pc := by
  unfold State.isTarget
  rw [State.codeLine_touchL1]
  exact h

theorem State.executes_touchL1 {s : State} {w : Warp} (core : Nat) (l : L1Line) (h : s.Executes w) : (s.touchL1 core l).Executes w := h

/-- The line that an L1 gives for a key is a line of that key. -/
theorem State.l1Line_key {s : State} {core : Nat} {k : LineKey} {l : L1Line} (h : s.l1Line core k = some l) : l.key = k := by
  simpa using List.find?_some h

/-! ## Lines of the image (R46) -/

/-- An L1 line after bytes of it were stored. -/
def L1Line.stored (l : L1Line) (mask : LineMask) (d : LineData) : L1Line :=
  { l with data := mergeLine mask l.data d, valid := l.valid ||| mask, dirty := l.dirty ||| mask, poi := l.poi && !(mask == BitVec.allOnes 128) }

/-- A byte of a line after a store: the new one under the mask, every other as before. -/
theorem L1Line.byte?_stored (l : L1Line) (mask : LineMask) (d : LineData) (b : Nat) :
    (l.stored mask d).byte? b = if mask.getLsbD b then some (LineData.byte d b) else l.byte? b := by
  unfold L1Line.byte? L1Line.stored
  by_cases hb : b < 128
  · rw [BitVec.getLsbD_or, byte_mergeLine _ _ _ _ hb]
    cases mask.getLsbD b <;> simp
  · simp [BitVec.getLsbD_of_ge _ _ (Nat.le_of_not_lt hb)]

/-- A line access that answers raises no trap. -/
theorem orTrap_ok {α : Type} {va : Nat} {m : SM (Except Nat α)} {s t : State} {a : α} (h : m.run s = (.ok a, t)) :
    (orTrap va m).run.run s = (.ok a, t) := by
  unfold orTrap
  rw [M.run_bind_ok (a := .ok a) (s' := t) (by rw [M.run_lift, h])]
  rfl

section Image
variable {s : State} {w : Warp} {va : Nat} {l : L1Line} (hq : (s.part w.part).qst ≠ .reshaping)
include hq

/-- While its partition is not reshaped an access does not wait (R433). -/
theorem memReady_of : (memReady w).run.run s = (.ok (), s) := by
  unfold memReady
  rw [M.run_bind_ok (M.run_get s), if_neg hq]
  rfl

/-- A read of an image line that the L1 holds whole. -/
theorem imgLine_hit (h : s.l1Grants w.core (w.key va) (BitVec.allOnes 128) .load false l) :
    (imgLine w va).run.run s = (.ok l.data, s.touchL1 w.core l) := by
  obtain ⟨hl, hperm, haper, hvalid, hpoi⟩ := h
  unfold imgLine
  rw [M.run_bind_ok (memReady_of hq),
    M.run_bind_ok (orTrap_ok (loadLine_hit s w.core _ _ .load false {} l rfl rfl rfl hl hperm haper hvalid)), hpoi]
  rfl

/-- A write of bytes of an image line that the L1 holds with permission. -/
theorem imgStore_hit {mask : LineMask} {d : LineData} (h : s.l1Grants w.core (w.key va) 0 .store false l) :
    (imgStore w va mask d).run.run s = (.ok (), s.touchL1 w.core (l.stored mask d)) := by
  obtain ⟨hl, hperm, haper, -, -⟩ := h
  unfold imgStore
  rw [M.run_bind_ok (memReady_of hq), M.run_bind_ok (orTrap_ok (probeLine_hit s w.core _ .store false l hl hperm))]
  rw [M.run_lift, storeLine_hit s w.core _ mask d false false l hl hperm haper]
  rfl

end Image

/-! ## The link record (R56, R257) -/

/-- A byte of a line as a number. -/
theorem byte_eq_ofNat (d : LineData) (k : Nat) : LineData.byte d k = BitVec.ofNat 8 (d.toNat / 2 ^ (8 * k)) := by
  apply BitVec.eq_of_toNat_eq
  simp [LineData.byte, BitVec.extractLsb'_toNat, Nat.shiftRight_eq_div_pow]

theorem toBytes_getElem? : ∀ (n v i : Nat), i < n → (toBytes v n)[i]? = some (BitVec.ofNat 8 (v / 2 ^ (8 * i)))
  | n + 1, v, 0, _ => by simp [toBytes]
  | n + 1, v, i + 1, h => by
    rw [toBytes, List.getElem?_cons_succ, toBytes_getElem? n (v / 256) i (by omega), Nat.div_div_eq_div_mul,
      show 256 * 2 ^ (8 * i) = 2 ^ (8 * (i + 1)) by rw [Nat.mul_succ, Nat.pow_add]; omega]

/-- A byte of a line moved up by whole bytes. -/
theorem byte_shiftLeft (d : LineData) (o b : Nat) (ho : o ≤ b) (hb : b < 128) : LineData.byte (d <<< (8 * o)) b = LineData.byte d (b - o) := by
  apply BitVec.eq_of_getLsbD_eq
  intro i hi
  unfold LineData.byte
  simp only [BitVec.getLsbD_extractLsb', BitVec.getLsbD_shiftLeft, hi, decide_true, Bool.true_and]
  rw [show 8 * b + i - 8 * o = 8 * (b - o) + i by omega]
  simp only [show 8 * b + i < 1024 by omega, show ¬ 8 * b + i < 8 * o by omega, decide_true, decide_false, Bool.not_false, Bool.true_and]

/-- The line of a link record before it is moved to its place: the return slot, then F. -/
def linkLine (ret : Word) (f : Nat) : LineData := ret.zeroExtend 1024 ||| (BitVec.ofNat 1024 f <<< 64)

/-- A word with a byte put above it, in a line wide enough for both. -/
theorem toNat_word_or_shift {n : Nat} (hn : 72 ≤ n) (ret : Word) (f : Byte) :
    (ret.setWidth n ||| (BitVec.ofNat n f.toNat <<< 64)).toNat = ret.toNat + 2 ^ 64 * f.toNat := by
  have hret := ret.isLt
  have hf := f.isLt
  have hwide : ∀ m, m < 2 ^ 72 → m < 2 ^ n := fun m hm => Nat.lt_of_lt_of_le hm (Nat.pow_le_pow_right Nat.two_pos hn)
  rw [BitVec.toNat_or, BitVec.toNat_shiftLeft, BitVec.toNat_ofNat, BitVec.toNat_setWidth, Nat.shiftLeft_eq,
    Nat.mod_eq_of_lt (hwide f.toNat (by omega)), Nat.mod_eq_of_lt (hwide ret.toNat (by omega)), Nat.mod_eq_of_lt (hwide _ (by omega)),
    Nat.or_comm, Nat.mul_comm, ← Nat.two_pow_add_eq_or_of_lt hret, Nat.add_comm]

theorem linkLine_toNat (ret : Word) (f : Byte) : (linkLine ret f.toNat).toNat = ret.toNat + 2 ^ 64 * f.toNat :=
  toNat_word_or_shift (by decide) ret f

/-- A byte of a link record in its place. -/
theorem linkLine_byte (ret : Word) (f : Byte) {o b : Nat} (ho : o ≤ b) (hb : b < o + 16) (hline : b < 128) :
    some (LineData.byte (linkLine ret f.toNat <<< (8 * o)) b) = (toBytes (ret.toNat + 2 ^ 64 * f.toNat) 16)[b - o]? := by
  rw [byte_shiftLeft _ _ _ ho hline, toBytes_getElem? _ _ _ (by omega), byte_eq_ofNat, linkLine_toNat]

/-- Where the link record of a depth stands in the image. -/
def Warp.linkVa (w : Warp) (depth : Nat) : Nat := w.img + 0x0400 + 16 * depth

/-- A link record of an image of aligned lines does not reach past its line. -/
theorem Warp.linkVa_fits {w : Warp} (h : w.img % 128 = 0) (depth : Nat) : w.linkVa depth % 128 + 16 ≤ 128 := by
  unfold Warp.linkVa
  omega

section Link
variable {s : State} {w : Warp} {l : L1Line} (hq : (s.part w.part).qst ≠ .reshaping)
include hq

theorem storeLink_hit {ret : Word} {f : Nat} (h : s.l1Grants w.core (w.key (w.linkVa w.depth)) 0 .store false l) :
    (storeLink w ret f).run.run s =
      (.ok (), s.touchL1 w.core (l.stored (spanMask (w.linkVa w.depth % 128) 16) (linkLine ret f <<< (8 * (w.linkVa w.depth % 128))))) :=
  imgStore_hit hq h

theorem loadLink_hit (h : s.l1Grants w.core (w.key (w.linkVa (w.depth - 1))) (BitVec.allOnes 128) .load false l) :
    Answers (loadLink w) s (l.data.extractLsb' (8 * (w.linkVa (w.depth - 1) % 128)) 64,
      (l.data.extractLsb' (8 * (w.linkVa (w.depth - 1) % 128) + 64) 16).toNat) (s.touchL1 w.core l) := by
  unfold Answers loadLink
  exact M.run_bind_ok (imgLine_hit hq h)

end Link

/-- The bytes of the L1 after a link record was stored in a line that it holds: those of the record at its place, every other byte as before. -/
theorem State.l1Byte_linkStored {s : State} {core o : Nat} {key : LineKey} {l : L1Line} {ret : Word} {f : Byte} (hl : s.l1Line core key = some l)
    (ho : o + 16 ≤ 128) (c : Nat) (k : LineKey) (b : Nat) :
    (s.touchL1 core (l.stored (spanMask o 16) (linkLine ret f.toNat <<< (8 * o)))).l1Byte c k b =
      if c = core ∧ k = l.key ∧ o ≤ b ∧ b < o + 16 then (toBytes (ret.toNat + 2 ^ 64 * f.toNat) 16)[b - o]? else s.l1Byte c k b := by
  have hkey : (l.stored (spanMask o 16) (linkLine ret f.toNat <<< (8 * o))).key = l.key := rfl
  rw [State.l1Byte_touchL1, hkey]
  by_cases hline : c = core ∧ k = l.key
  · have hold : s.l1Byte c k b = l.byte? b := by
      rw [hline.1, hline.2, State.l1Line_key hl, State.l1Byte_of_line hl]
    rw [if_pos hline, L1Line.byte?_stored, hold]
    by_cases hspan : o ≤ b ∧ b < o + 16
    · have hb : b < 128 := by omega
      rw [if_pos (by simp [spanMask_getLsbD _ _ _ hb, hspan]), if_pos ⟨hline.1, hline.2, hspan⟩, linkLine_byte ret f hspan.1 hspan.2 hb]
    · have hmask : (spanMask o 16).getLsbD b = false := by
        by_cases hb : b < 128
        · rw [spanMask_getLsbD _ _ _ hb]
          simpa using hspan
        · exact BitVec.getLsbD_of_ge _ _ (Nat.le_of_not_lt hb)
      rw [hmask, if_neg Bool.false_ne_true, if_neg (fun h => hspan h.2.2)]
  · rw [if_neg hline, if_neg (fun h => hline ⟨h.1, h.2.1⟩)]

/-! ## CALL, CALLI and RET (R257) -/

section Calls
variable {s : State} {w : Warp} {tgt : Warp → Word} (he : s.Executes w)
include he

/-- A call too deep, or that slides past the window, traps with WINDOW. -/
theorem callTo_window {f : Nat} (h : w.depth ≥ 256 ∨ w.wbo < f) : callTo tgt f s = trapTo s w (trapOf 0x0E) := by
  unfold callTo
  rw [withWarp_of he]
  refine runM_error ?_ (State.executes_goesOn he rfl)
  rw [if_pos (by simpa using h)]
  rfl

/-- A call to a target that R234 refuses traps with TARGET. -/
theorem callTo_target {f : Nat} (hd : w.depth < 256) (hf : f ≤ w.wbo) (ht : s.notTarget w (tgt w)) :
    callTo tgt f s = trapTo s w (trapOf 0x04) := by
  unfold callTo
  rw [withWarp_of he]
  refine runM_error ?_ (State.executes_goesOn he rfl)
  rw [if_neg (by simp; omega), M.run_bind_ok (badTarget_run (badTarget_notTarget ht))]
  rfl

/-- A call stores its link record, goes to its target and slides the window. -/
theorem callTo_taken {f : Nat} {l : L1Line} (hd : w.depth < 256) (hf : f ≤ w.wbo) (ht : s.isTarget w (tgt w))
    (hq : (s.part w.part).qst ≠ .reshaping) (hl : s.l1Grants w.core (w.key (w.linkVa w.depth)) 0 .store false l) :
    callTo tgt f s =
      .next ((s.touchL1 w.core
        (l.stored (spanMask (w.linkVa w.depth % 128) 16) (linkLine (nextSlot w.pc) f <<< (8 * (w.linkVa w.depth % 128))))).setWarp
          { w.retireRegion (tgt w) with depth := w.depth + 1, wbo := w.wbo - f }) := by
  unfold callTo
  rw [withWarp_of he]
  refine runM_ok ?_ (State.executes_goesOn (State.executes_touchL1 _ _ he) rfl)
  rw [if_neg (by simp; omega), M.run_bind_ok (badTarget_run (badTarget_isTarget ht)), if_neg (by decide), M.run_bind_ok (storeLink_hit hq hl)]
  rfl

/-- RET without a link record traps with WINDOW. -/
theorem execRet_window (hd : w.depth = 0) : execRet s = trapTo s w (trapOf 0x0E) := by
  unfold execRet
  rw [withWarp_of he]
  refine runM_error ?_ (State.executes_goesOn he rfl)
  rw [if_pos hd]
  rfl

/-- RET to a target that R234 takes goes there and slides the window back. -/
theorem execRet_taken {u : State} {t : Word} {f : Nat} (hd : 0 < w.depth) (hlink : Answers (loadLink w) s (t, f) u) (hg : s.GoesOn u w)
    (ht : u.isTarget w t) : execRet s = .next (u.setWarp { w.retireRegion t with depth := w.depth - 1, wbo := w.wbo + f }) := by
  unfold execRet
  rw [withWarp_of he]
  refine runM_ok ?_ hg
  rw [if_neg (by omega), M.run_bind_ok hlink]
  dsimp only
  rw [M.run_bind_ok (badTarget_run (badTarget_isTarget ht)), if_neg (by decide)]
  rfl

/-- RET to a target that R234 refuses traps with TARGET. -/
theorem execRet_target {u : State} {t : Word} {f : Nat} (hd : 0 < w.depth) (hlink : Answers (loadLink w) s (t, f) u) (hg : s.GoesOn u w)
    (ht : u.notTarget w t) : execRet s = trapIn s u w (trapOf 0x04) := by
  unfold execRet
  rw [withWarp_of he]
  refine runM_error ?_ hg
  rw [if_neg (by omega), M.run_bind_ok hlink]
  dsimp only
  rw [M.run_bind_ok (badTarget_run (badTarget_notTarget ht)), if_pos rfl]
  rfl

end Calls

/-- CALL and CALLI are one operation on their target. -/
theorem exec_call_cases {s : State} {w : Warp} {a : SReg} {slide : Byte} {disp : Word32} {i : Instr} {t : Word}
    (h : (i, t) ∈ [(Instr.call slide disp, branchTarget w.pc disp), (Instr.calli a slide, w.s a)]) :
    ∃ tgt : Warp → Word, tgt w = t ∧ exec i s = callTo tgt slide.toNat s := by
  simp only [List.mem_cons, Prod.mk.injEq, List.not_mem_nil, or_false] at h
  rcases h with ⟨rfl, rfl⟩ | ⟨rfl, rfl⟩
  · exact ⟨fun w => branchTarget w.pc disp, rfl, rfl⟩
  · exact ⟨fun w => w.s a, rfl, rfl⟩

/-- Settles O13: a call and a return in the order of their checks, over a link record that the L1 holds. -/
theorem callAndReturn : Obligations.CallAndReturn := by
  unfold Obligations.CallAndReturn
  intro s w a slide disp he
  refine ⟨fun i t hi => ?_, execRet_window he, fun u t f hd hlink hg => ⟨execRet_taken he hd hlink hg, execRet_target he hd hlink hg⟩, ?_⟩
  · obtain ⟨tgt, rfl, hexec⟩ := exec_call_cases (s := s) hi
    rw [hexec]
    refine ⟨callTo_window he, callTo_target he, fun hd hf ht l hl hq himg => ?_⟩
    exact ⟨_, callTo_taken he hd hf ht hq hl, rfl, State.l1Byte_linkStored hl.1 (Warp.linkVa_fits himg w.depth)⟩
  · intro l hd hq va t f hl ht
    have he' := State.executes_touchL1 w.core l he
    exact ⟨_, execRet_taken he hd (loadLink_hit hq hl) (State.executes_goesOn he' rfl) (State.isTarget_touchL1 _ _ ht), rfl⟩

end Sys2Proof.Machine
end

/-! # YIELD, REGION, PAUSE and QUOTA (R60, R262-R264, R272) -/

section
namespace Sys2Proof.Machine

/-! ## QUOTA (R60, R264) -/

/-- The warp that a permitted move of quota goes to, and what it asks of issuer and target (R60, R264). -/
theorem State.quotaTarget_some {s : State} {w x : Warp} {a b : Word} (h : s.quotaTarget w a b = some x) :
    (x.launch = w.launch ∧ x.wgid = w.wgid ∧ x.widx = a.toNat ∧ x.sub = w.sub ∧ x.core = w.core ∧ 32 + b.toNat ≤ w.ql ∧ x.ql + b.toNat ≤ 1280) ∧
      a.toNat < w.warps ∧ w.posted = false := by
  unfold State.quotaTarget at h
  split at h
  · rename_i y hy
    have hfound := List.find?_some hy
    split at h
    · rename_i hok
      cases h
      simp only [Bool.and_eq_true, Bool.not_eq_true', beq_iff_eq, decide_eq_true_eq] at hfound hok
      obtain ⟨⟨⟨⟨hlaunch, hwgid⟩, -⟩, hwidx⟩, -⟩ := hfound
      obtain ⟨⟨⟨⟨⟨⟨hwarps, hposted⟩, hsub⟩, hcore⟩, -⟩, hleft⟩, hroom⟩ := hok
      exact ⟨⟨hlaunch, hwgid, hwidx, hsub, hcore, hleft, hroom⟩, hwarps, hposted⟩
    · cases h
  · cases h

/-- No quota moves to an index past the workgroup, from a posted warp, or when fewer than 32 lines would remain (R60, R264). -/
theorem State.quotaTarget_none {s : State} {w : Warp} {a b : Word} (h : w.warps ≤ a.toNat ∨ w.posted = true ∨ w.ql < 32 + b.toNat) :
    s.quotaTarget w a b = none := by
  cases hx : s.quotaTarget w a b with
  | none => rfl
  | some x =>
    obtain ⟨⟨-, -, -, -, -, hleft, -⟩, hwarps, hposted⟩ := State.quotaTarget_some hx
    rcases h with h | h | h
    · omega
    · rw [hposted] at h; cases h
    · omega

section Quota
variable {s : State} {w : Warp} {a b : SReg} (he : s.Executes w)
include he

/-- QUOTA that moves nothing, or to its own warp, retires (R264). -/
theorem exec_quota_idle (h : w.s b = 0 ∨ (w.s a).toNat = w.index) :
    exec (.quota a b) s = .next (s.setWarp (w.retireRegion (nextSlot w.pc))) := by
  show execQuota a b s = _
  rw [execQuota, withWarp_of he, if_pos h]

/-- QUOTA to a warp that may not take it traps (R264). -/
theorem exec_quota_refused (hb : w.s b ≠ 0) (ha : (w.s a).toNat ≠ w.index) (hx : s.quotaTarget w (w.s a) (w.s b) = none) :
    exec (.quota a b) s = trapTo s w (trapOf 0x0F) := by
  show execQuota a b s = _
  rw [execQuota, withWarp_of he, if_neg (not_or.mpr ⟨hb, ha⟩), hx]
  rfl

/-- QUOTA moves its lines to the target; an issuer that then holds more than its quota is marked (R60). -/
theorem exec_quota_moves {x : Warp} (hb : w.s b ≠ 0) (ha : (w.s a).toNat ≠ w.index) (hx : s.quotaTarget w (w.s a) (w.s b) = some x) :
    exec (.quota a b) s = .next ((s.setWarp { x with ql := x.ql + (w.s b).toNat }).setWarp
      { w.retireRegion (nextSlot w.pc) with
        ql := w.ql - (w.s b).toNat, shed := decide (w.ql - (w.s b).toNat < w.lines.length + w.kennel.length) }) := by
  show execQuota a b s = _
  rw [execQuota, withWarp_of he, if_neg (not_or.mpr ⟨hb, ha⟩), hx]
  rfl

end Quota

/-! ## PAUSE (R272) -/

section Pause
variable {s : State} {w : Warp} {n : BitVec 16} (he : s.Executes w)
include he

/-- A PAUSE that begins: PAUSE 0 retires, another sets its end. -/
theorem exec_pause_begin (hw : w.pause = none) :
    exec (.pause n) s = .next (s.setWarp (if n = 0 then w.retire else { w with pause := some (s.plat.cc + n.toNat) })) := by
  show execPause n s = _
  rw [execPause, withWarp_of he, hw]

/-- A PAUSE whose end has come retires. -/
theorem exec_pause_end {e : Nat} (hw : w.pause = some e) (hc : e ≤ s.plat.cc) : exec (.pause n) s = warpTo s w := by
  show execPause n s = _
  rw [execPause, withWarp_of he, hw]
  simp only [if_pos hc]
  rfl

end Pause

/-- Settles O15: YIELD and REGION are operations on the warp alone, PAUSE has its two cases, QUOTA the cases of its target. -/
theorem yieldPauseAndQuota : Obligations.YieldPauseAndQuota := by
  unfold Obligations.YieldPauseAndQuota
  refine ⟨fun s w n he => ⟨?_, ?_, ?_, ?_, ?_⟩, fun s w a b he => ⟨?_, ?_, ?_, ?_⟩⟩
  · exact warpOp_of he _
  · exact warpOp_of he _
  · intro hw hn
    rw [exec_pause_begin he hw, if_neg hn]
  · intro hw hn
    rw [exec_pause_begin he hw, if_pos hn]
    rfl
  · intro e hw hc
    exact exec_pause_end he hw hc
  · exact exec_quota_idle he
  · exact exec_quota_refused he
  · exact fun x hb ha hx => ⟨(State.quotaTarget_some hx).1, exec_quota_moves he hb ha hx⟩
  · exact State.quotaTarget_none

end Sys2Proof.Machine
end

/-! # The steps inside a sub-core (R201, R230) -/

section
namespace Sys2Proof.Machine

/-- A BRANCH_MISPREDICT whose fetch must wait is no step: nothing says yet where the branch goes (R201, R137). -/
theorem branchMispredict_fetch_waits {s u : State} {w : Warp} {i : Except Trap Instr} (hp : s.powered) (hw : s.warp? w.wid = some w)
    (hf : Gives (fetchInstr w) { s with cur := some w.wid } i u) (hs : (s.stalled u).isSome = true) :
    exec (.branchMispredict w.wid) s = .fault .notEnabled := by
  have hnone : exec (.branchMispredict w.wid) s = event s none := by
    show event s ((s.warp? w.wid).bind _) = _
    rw [hw, Option.bind_some]
    cases w.liveRob with
    | nil => rfl
    | cons e r =>
      dsimp only
      rw [show (fetchInstr w).run _ = _ from hf]
      cases i with
      | error t => rfl
      | ok i => simp only [hs, if_true]
  rw [hnone, event_none hp]

/-- A supervisor warp at slot 0 of code line 0, at which it has issued; slot 1 is predicted next. -/
def fetchingWarp : Warp := { Warp.init with wid := 1, st := .running, rob := [{ pc := mkPc 0 0, done := false }], fpc := mkPc 0 1 }

/-- A machine whose stack 0 trains for a new rate (R150).  Its DRAM holds code line 0, with BR 0 at slot 0, which carries the TGT bit; the gate holds
the line's page, and neither the instruction cache nor a bank holds the line. -/
def trainingMach : State :=
  let page : GtcEnt := { gate := 0, part := 0, asid := 0, lvl := 2, vpn := 0, pte := 0x400015 }
  let s : State := { State.reset with
    warps := [fetchingWarp], dram := [(0, 0x20), (2, 0xC0), (60, 1), (61, 2)], gates := { Gates.init with gtc := [page] } }
  (s.updPart 0 (fun q => { q with formed := true, count := 1, split := 32, ivl := [0] })).updStack 0 (fun k => { k with phase := .training })

/-- A warp's fetch must wait, and what it gives all the same is a branch that goes elsewhere than predicted. -/
def State.waitsAtBranch (s : State) (w : Warp) : Bool :=
  match (fetchInstr w).run { s with cur := some w.wid } with
  | (.ok i, u) => (s.stalled u).isSome && (branchDest i w u).any (fun t => t != w.fpc)
  | (.error _, _) => false

theorem State.waitsAtBranch_gives {s : State} {w : Warp} (h : s.waitsAtBranch w = true) :
    ∃ i u t, Gives (fetchInstr w) { s with cur := some w.wid } (.ok i) u ∧ (s.stalled u).isSome = true ∧ branchDest i w u = some t ∧ t ≠ w.fpc := by
  unfold State.waitsAtBranch at h
  split at h
  · rename_i i u hf
    simp only [Bool.and_eq_true, Option.any_eq_true, bne_iff_ne] at h
    obtain ⟨hs, t, ht, hne⟩ := h
    exact ⟨i, u, t, hf, hs, ht, hne⟩
  · cases h

theorem trainingMach_waitsAtBranch : trainingMach.waitsAtBranch fetchingWarp = true := by decide +kernel

/-- Refutes O52: the clause on BRANCH_MISPREDICT asks of the fetch what it gives and not that it goes on.  Where the fetch
reads a stack that trains, the read must wait (R137, R150) and so must the step: the machine has no BRANCH_MISPREDICT yet, the statement asks for one. -/
theorem not_pipelineSteps : ¬ Obligations.PipelineSteps := by
  unfold Obligations.PipelineSteps
  intro h
  have hw : trainingMach.warp? fetchingWarp.wid = some fetchingWarp := by decide +kernel
  have hrob : fetchingWarp.liveRob = [{ pc := mkPc 0 0, done := false }] := by decide +kernel
  obtain ⟨i, u, t, hf, hs, ht, hne⟩ := State.waitsAtBranch_gives trainingMach_waitsAtBranch
  have hp : trainingMach.powered := rfl
  obtain ⟨_, hsteps, _⟩ := h trainingMach fetchingWarp hp
  obtain ⟨_, _, _, hmiss, _⟩ := hsteps hw
  have hnext := hmiss _ [] i u t hrob hf ht hne
  rw [branchMispredict_fetch_waits hp hw hf hs] at hnext
  cases hnext

end Sys2Proof.Machine
end
